-- ==== Sys2Proof/Word.lean ====
section
/-! DEFINITION. The word types of NGV and the reading of bit fields. -/

namespace Sys2Proof

/-- A 32-bit word: an instruction word, a v register, a 32-bit device register (R3). -/
abbrev Word := BitVec 32

/-- A byte of memory. -/
abbrev Byte := BitVec 8

/-- A 64-bit value: a pair of v registers, an address, a timestamp (R3). -/
abbrev DWord := BitVec 64

/-- The field NAME<lo+len-1:lo> of a value (R7). -/
abbrev bits {n : Nat} (w : BitVec n) (lo len : Nat) : BitVec len := w.extractLsb' lo len

end Sys2Proof
end

