-- ==== Sys2Proof/Machine/Float.lean ====
section
/-! DEFINITION. Number formats and exact arithmetic (R248 to R255, R260, R261). A finite value is held exactly as
± m × 2^e, every result is rounded once. -/

namespace Sys2Proof.Machine

/-! ### Formats and values -/

/-- A floating-point format (R248). -/
structure Fmt where
  ebits : Nat
  fbits : Nat
  deriving DecidableEq, Repr

def f64 : Fmt := ⟨11, 52⟩
def f32 : Fmt := ⟨8, 23⟩
def f16 : Fmt := ⟨5, 10⟩
def bf16 : Fmt := ⟨8, 7⟩

/-- Exponent of the least subnormal: the value of an encoding's last place there (R248). -/
def Fmt.qmin (f : Fmt) : Int := 2 - (2 ^ (f.ebits - 1) : Int) - f.fbits

/-- The exponent field of infinities and NaNs, in place. -/
def Fmt.infBits (f : Fmt) : Nat := (2 ^ f.ebits - 1) * 2 ^ f.fbits

/-- The sign bit, in place. -/
def Fmt.signBit (f : Fmt) : Nat := 2 ^ (f.ebits + f.fbits)

/-- The canonical quiet NaN (R248). -/
def Fmt.nan (f : Fmt) : Nat := f.infBits + 2 ^ (f.fbits - 1)

/-- The encoding of a magnitude with a sign. -/
def Fmt.signed (f : Fmt) (neg : Bool) (mag : Nat) : Nat := if neg then f.signBit + mag else mag

/-- A value: NaN, an infinity, or ± m × 2^e exactly (R249). -/
inductive FVal where
  | nan
  | inf (neg : Bool)
  | fin (neg : Bool) (m : Nat) (e : Int)
  deriving DecidableEq, Repr

def FVal.isInf : FVal → Bool
  | .inf _ => true
  | _ => false

/-- The value an encoding stands for (R248). -/
def Fmt.unpack (f : Fmt) (x : Nat) : FVal :=
  let neg := x / f.signBit % 2 == 1
  let mag := x % f.signBit
  let e := mag / 2 ^ f.fbits
  let m := mag % 2 ^ f.fbits
  if e = 2 ^ f.ebits - 1 then (if m = 0 then .inf neg else .nan)
  else if e = 0 then .fin neg m f.qmin
  else .fin neg (2 ^ f.fbits + m) (f.qmin + (e - 1 : Nat))

/-- An operand taken as zero of its sign when it is subnormal (R252). -/
def Fmt.flushIn (f : Fmt) (x : Nat) : Nat :=
  if x % f.signBit < 2 ^ f.fbits then x / f.signBit % 2 * f.signBit else x

/-- The value of an FP32 operand under the FTZ bit (R252). -/
def unpack32 (ftz : Bool) (x : Word) : FVal := f32.unpack (if ftz then f32.flushIn x.toNat else x.toNat)

/-! ### Rounding -/

/-- Rounding modes of R6 without `.rs`, by their codes (R272). -/
inductive Rnd where
  | rn | rz | ru | rd
  deriving DecidableEq, Repr

def Rnd.ofCode (c : Nat) : Rnd :=
  match c with
  | 0 => .rn
  | 1 => .rz
  | 2 => .ru
  | _ => .rd

/-- Whether a magnitude n + r / 2^sh with 0 < 2^sh is rounded up in a direction. -/
def Rnd.up (mode : Rnd) (neg : Bool) (n r sh : Nat) : Bool :=
  match mode with
  | .rn => decide (2 ^ sh < 2 * r) || (decide (2 * r = 2 ^ sh) && n % 2 == 1)
  | .rz => false
  | .ru => !neg && decide (r ≠ 0)
  | .rd => neg && decide (r ≠ 0)

/-- A magnitude m × 2^e in units of 2^q, rounded to an integer in a direction. -/
def roundAt (mode : Rnd) (neg : Bool) (m : Nat) (e q : Int) : Nat :=
  if q ≤ e then m * 2 ^ (e - q).toNat
  else
    let sh := (q - e).toNat
    let n := m / 2 ^ sh
    if mode.up neg n (m % 2 ^ sh) sh then n + 1 else n

/-- The largest finite magnitude, or infinity, that an overflow gives (R249). -/
def Fmt.overflow (f : Fmt) (mode : Rnd) (neg : Bool) : Nat :=
  let big := match mode with
    | .rn => true
    | .rz => false
    | .ru => !neg
    | .rd => neg
  f.signed neg (if big then f.infBits else f.infBits - 1)

/-- The exponent of the last place of a magnitude m × 2^e, m ≠ 0, in a format. -/
def Fmt.ulpExp (f : Fmt) (m : Nat) (e : Int) : Int := max ((Nat.log2 m : Int) + e - f.fbits) f.qmin

/-- ± m × 2^e rounded to a format (R249). -/
def Fmt.round (f : Fmt) (mode : Rnd) (neg : Bool) (m : Nat) (e : Int) : Nat :=
  if m = 0 then f.signed neg 0
  else
    let q := f.ulpExp m e
    let mag := (q - f.qmin).toNat * 2 ^ f.fbits + roundAt mode neg m e q
    if f.infBits ≤ mag then f.overflow mode neg else f.signed neg mag

/-- The magnitude m × 2^e, rounded with an unbounded exponent to a format's precision, is below its least normal
(R252). -/
def Fmt.tiny (f : Fmt) (mode : Rnd) (neg : Bool) (m : Nat) (e : Int) : Bool :=
  let q := (Nat.log2 m : Int) + e - f.fbits
  m != 0 && decide (q + (if roundAt mode neg m e q = 2 ^ (f.fbits + 1) then 1 else 0) < f.qmin)

/-- A value rounded to a format, an FP32 result flushed under FTZ (R249, R252). -/
def Fmt.pack (f : Fmt) (mode : Rnd) (ftz : Bool) : FVal → Nat
  | .nan => f.nan
  | .inf neg => f.signed neg f.infBits
  | .fin neg m e => if ftz && f.tiny mode neg m e then f.signed neg 0 else f.round mode neg m e

/-! ### Exact operations -/

def FVal.neg : FVal → FVal
  | .nan => .nan
  | .inf s => .inf (!s)
  | .fin s m e => .fin (!s) m e

/-- The signed integer of a finite value in units of 2^q, q at most its exponent. -/
def scaled (neg : Bool) (m : Nat) (e q : Int) : Int :=
  let x : Int := (m * 2 ^ (e - q).toNat : Nat)
  if neg then -x else x

/-- An exact sum; the sign of an exact zero follows the direction (R301). -/
def FVal.add (mode : Rnd) (a b : FVal) : FVal :=
  match a, b with
  | .nan, _ => .nan
  | _, .nan => .nan
  | .inf s, .inf t => if s = t then .inf s else .nan
  | .inf s, .fin .. => .inf s
  | .fin .., .inf t => .inf t
  | .fin s m e, .fin t n g =>
    let q := min e g
    let x := scaled s m e q + scaled t n g q
    if x = 0 then .fin (if m = 0 ∧ n = 0 ∧ s = t then s else mode = .rd) 0 q
    else .fin (decide (x < 0)) x.natAbs q

/-- An exact product. -/
def FVal.mul (a b : FVal) : FVal :=
  match a, b with
  | .nan, _ => .nan
  | _, .nan => .nan
  | .inf s, .inf t => .inf (s ^^ t)
  | .inf s, .fin t n _ => if n = 0 then .nan else .inf (s ^^ t)
  | .fin s m _, .inf t => if m = 0 then .nan else .inf (s ^^ t)
  | .fin s m e, .fin t n g => .fin (s ^^ t) (m * n) (e + g)

/-- A magnitude q × 2^e with a nonzero rest below it folded into one more place: it rounds as the exact value does in
any format that keeps at least two places fewer. -/
def sticky (q : Nat) (rest : Bool) (e : Int) : Nat × Int := (2 * q + (if rest then 1 else 0), e - 1)

/-- A quotient, exact for the purpose of one rounding to 64 places or fewer (R254). -/
def FVal.div (a b : FVal) : FVal :=
  match a, b with
  | .nan, _ => .nan
  | _, .nan => .nan
  | .inf _, .inf _ => .nan
  | .inf s, .fin t _ _ => .inf (s ^^ t)
  | .fin s _ _, .inf t => .fin (s ^^ t) 0 0
  | .fin s m e, .fin t n g =>
    if n = 0 then (if m = 0 then .nan else .inf (s ^^ t))
    else
      let k := 66 + Nat.log2 n
      let r := sticky (m * 2 ^ k / n) (decide (m * 2 ^ k % n ≠ 0)) (e - g - k)
      .fin (s ^^ t) r.1 r.2

/-- The integer square root, from bit `i` down. -/
def isqrtFrom (n : Nat) : Nat → Nat → Nat
  | 0, r => r
  | i + 1, r => let c := r + 2 ^ i; isqrtFrom n i (if c * c ≤ n then c else r)

def isqrt (n : Nat) : Nat := isqrtFrom n (Nat.log2 n / 2 + 1) 0

/-- A square root, exact for the purpose of one rounding to 64 places or fewer (R254). -/
def FVal.sqrt : FVal → FVal
  | .nan => .nan
  | .inf s => if s then .nan else .inf false
  | .fin s m e =>
    if m = 0 then .fin s 0 e
    else if s then .nan
    else
      let k : Nat := if e % 2 = 0 then 132 else 133
      let n := m * 2 ^ k
      let r := sticky (isqrt n) (decide (isqrt n * isqrt n ≠ n)) ((e - k) / 2)
      .fin false r.1 r.2

/-- A reciprocal square root, exact for the purpose of one rounding to 64 places or fewer; its special cases are those
of R254. -/
def FVal.rsqrt : FVal → FVal
  | .nan => .nan
  | .inf s => if s then .nan else .fin false 0 0
  | .fin s m e =>
    if m = 0 then .inf s
    else if s then .nan
    else
      let m' := if e % 2 = 0 then m else 2 * m
      let e' := if e % 2 = 0 then e else e - 1
      let k := 66 + Nat.log2 m'
      let q := isqrt (2 ^ (2 * k) / m')
      let r := sticky q (decide (q * q * m' ≠ 2 ^ (2 * k))) (-(e' / 2) - k)
      .fin false r.1 r.2

/-! ### 2^x and log2 x, correctly rounded -/

/-- ln 2 in units of 2^−P from below, less than P + 16 units short. -/
def ln2Below (P : Nat) : Nat := ((List.range (P + 8)).map fun k => 2 ^ P / ((k + 1) * 2 ^ (k + 1))).sum

/-- The terms of e^t from the k-th on, in units of 2^−P from below. -/
def expTerms (P t : Nat) : Nat → Nat → Nat → Nat
  | 0, _, _ => 0
  | n + 1, k, term => term + expTerms P t n (k + 1) (term * t / (2 ^ P * (k + 1)))

/-- 2^(f / 2^k) for f < 2^k in units of 2^−P from below, less than 16 P units short. -/
def exp2Below (P f k : Nat) : Nat := expTerms P (f * ln2Below P / 2 ^ k) P 0 (2 ^ P)

/-- 2 artanh (a / b) in units of 2^−P from below, for a / b at most 1/3. -/
def atanhTerms (P a b : Nat) : Nat → Nat → Nat → Nat
  | 0, _, _ => 0
  | n + 1, k, z => 2 * z / (2 * k + 1) + atanhTerms P a b n (k + 1) (z * a * a / (b * b))

/-- ln (m / 2^k) for 2^k ≤ m < 2^(k+1) in units of 2^−P from below, less than 16 P units short. -/
def lnBelow (P m k : Nat) : Nat :=
  let a := m - 2 ^ k
  let b := m + 2 ^ k
  atanhTerms P a b P 0 (2 ^ P * a / b)

/-- The rounding to FP32 of a positive value between lo and hi units of 2^e, when both bounds round alike. -/
def agree (ftz neg : Bool) (lo hi : Nat) (e : Int) : Option Nat :=
  let x := f32.pack .rn ftz (.fin neg lo e)
  if x = f32.pack .rn ftz (.fin neg hi e) then some x else none

/-- 2^(n + f / 2^k) rounded, at a precision raised until the bounds agree. -/
def exp2Round (ftz : Bool) (n : Int) (f k : Nat) : Nat → Nat → Nat
  | 0, _ => 0
  | fuel + 1, P =>
    let lo := exp2Below P f k
    match agree ftz false lo (lo + 16 * P) (n - P) with
    | some x => x
    | none => if fuel = 0 then f32.pack .rn ftz (.fin false lo (n - P)) else exp2Round ftz n f k fuel (2 * P)

/-- round_rn (2^x) to FP32 (R254). -/
def exp2f32 (ftz : Bool) : FVal → Nat
  | .nan => f32.nan
  | .inf s => if s then 0 else f32.infBits
  | .fin s m e =>
    if m = 0 then 0x3F800000                                      -- 2^0
    else if (Nat.log2 m : Int) + e < -27 then 0x3F800000          -- nearer to 1 than half a place
    else if 8 ≤ (Nat.log2 m : Int) + e then (if s then 0 else f32.infBits)
    else
      let k := (max (-e) 0).toNat
      let x : Int := scaled s m e (min e 0)                       -- x / 2^k
      let n := x / (2 ^ k : Nat)
      let f := (x - n * (2 ^ k : Nat)).toNat
      if f = 0 then f32.pack .rn ftz (.fin false 1 n) else exp2Round ftz n f k 5 96

/-- e + log2 (m / 2^k) rounded, at a precision raised until the bounds agree. -/
def log2Round (ftz : Bool) (e : Int) (m k : Nat) : Nat → Nat → Nat
  | 0, _ => 0
  | fuel + 1, P =>
    let n := lnBelow P m k
    let d := ln2Below P
    let lo := n * 2 ^ P / (d + P + 16)
    let hi := (n + 16 * P) * 2 ^ P / d + 1
    let a : Int := e * (2 ^ P : Nat) + lo
    let b : Int := e * (2 ^ P : Nat) + hi
    let neg := decide (a < 0)
    let r := if neg then agree ftz true b.natAbs a.natAbs (-P) else agree ftz false a.natAbs b.natAbs (-P)
    match r with
    | some x => x
    | none => if fuel = 0 then f32.pack .rn ftz (.fin neg a.natAbs (-P)) else log2Round ftz e m k fuel (2 * P)

/-- round_rn (log2 x) to FP32 (R254). -/
def log2f32 (ftz : Bool) : FVal → Nat
  | .nan => f32.nan
  | .inf s => if s then f32.nan else f32.infBits
  | .fin s m e =>
    if m = 0 then f32.signed true f32.infBits
    else if s then f32.nan
    else
      let k := Nat.log2 m
      if m = 2 ^ k then f32.pack .rn ftz (.fin (decide ((k : Int) + e < 0)) ((k : Int) + e).natAbs 0)
      else log2Round ftz (k + e) m k 5 96

/-! ### Minimum, maximum, comparison -/

/-- The order of two values that are numbers, −0 equal to +0 (R253). -/
def FVal.lt (a b : FVal) : Bool :=
  match a, b with
  | .inf s, .inf t => s && !t
  | .inf s, .fin .. => s
  | .fin .., .inf t => !t
  | .fin s m e, .fin t n g => let q := min e g; decide (scaled s m e q < scaled t n g q)
  | _, _ => false

def FVal.isNan : FVal → Bool
  | .nan => true
  | _ => false

/-- Values that are numbers compare equal (R253). -/
def FVal.eqv (a b : FVal) : Bool := !a.isNan && !b.isNan && !a.lt b && !b.lt a

/-- minimumNumber or maximumNumber of two encodings (R253): the other operand of a NaN, the canonical NaN of two, −0
below +0; otherwise one of the operands. -/
def Fmt.minMax (f : Fmt) (mx : Bool) (a b : Nat) : Nat :=
  match f.unpack a, f.unpack b with
  | .nan, .nan => f.nan
  | .nan, _ => b
  | _, .nan => a
  | x, y =>
    let aLess := x.lt y || (!y.lt x && a / f.signBit % 2 == 1)
    if aLess then (if mx then b else a) else (if mx then a else b)

/-- A floating-point condition code (R306). -/
def condFloat (c : BitVec 3) (a b : FVal) : Bool :=
  let un := a.isNan || b.isNan
  match c.toNat with
  | 0 => a.eqv b
  | 1 => !a.eqv b
  | 2 => !un && a.lt b
  | 3 => !un && !b.lt a
  | 4 => !un && b.lt a
  | 5 => !un && !a.lt b
  | 6 => un
  | _ => !un

/-! ### Stochastic rounding -/

/-- The random word of stochastic rounding (R260). -/
def hash32 (a b i : Nat) : Word :=
  let h : Word := BitVec.ofNat 32 (a * 256) ^^^ BitVec.ofNat 32 b ^^^ BitVec.ofNat 32 (i * 2 ^ 27) ^^^ 0x51A70E2D#32
  let h := h ^^^ (h >>> 16)
  let h := h * 0x6C8E9CF5#32
  let h := h ^^^ (h >>> 13)
  let h := h * 0x9B1A5F37#32
  h ^^^ (h >>> 16)

/-- The 24 bits that decide a stochastic rounding (R260, R261). -/
def hash24 (a b i : Nat) : Nat := (hash32 a b i).toNat / 256

/-- A magnitude m × 2^e in units of 2^q, rounded stochastically by the lane's number (R261). -/
def roundAtRs (lane m : Nat) (e q : Int) : Nat :=
  if q ≤ e then m * 2 ^ (e - q).toNat
  else
    let sh := (q - e).toNat
    let n := m / 2 ^ sh
    let d := m % 2 ^ sh * 2 ^ 24 / 2 ^ sh
    if hash24 d d (lane % 32) < d then n + 1 else n

/-- round_rs to a format (R261): overflow acts as round toward zero. -/
def Fmt.roundRs (f : Fmt) (lane : Nat) (neg : Bool) (m : Nat) (e : Int) : Nat :=
  if m = 0 then f.signed neg 0
  else
    let q := f.ulpExp m e
    let mag := (q - f.qmin).toNat * 2 ^ f.fbits + roundAtRs lane m e q
    if f.infBits ≤ mag then f.signed neg (f.infBits - 1) else f.signed neg mag

/-! ### Exact sums of a list (R263) -/

/-- An exact sum of values; NaN and opposite infinities give NaN, and no nonzero value gives +0 (R263). -/
def FVal.sum (ps : List FVal) : FVal :=
  let r := ps.foldl (fun (acc p : FVal) => acc.add .rn p) (FVal.fin false 0 0)
  match r with
  | FVal.fin _ 0 _ => FVal.fin false 0 0
  | x => x

/-- The windowed sum of BF16 and FP16 products (R263): every term truncated to 2^−40 of the largest. -/
def FVal.windowSum (ps : List FVal) : FVal :=
  let e := ps.foldl (fun (acc : Option Int) (p : FVal) => match p with
    | .fin _ m g => if m = 0 then acc else
        let l := (Nat.log2 m : Int) + g
        match acc with
        | none => some l
        | some x => some (max x l)
    | _ => acc) none
  match e with
  | none => FVal.sum ps
  | some top => FVal.sum (ps.map fun (p : FVal) => match p with
    | .fin s m g => if g < top - 40 then .fin s (m / 2 ^ (top - 40 - g).toNat) (top - 40) else .fin s m g
    | x => x)

end Sys2Proof.Machine
end

