-- ==== Sys2Proof/Machine/Flags.lean ====
section
/-! DEFINITION. Predicates an instruction computes: the integer conditions of ICMP and ICMPI (R272, R289). No
instruction of this machine sets any other flag (R250, R279). -/

namespace Sys2Proof.Machine

/-- An integer condition code on two numbers (R272). -/
def condInt (c : BitVec 3) (a b : Int) : Bool :=
  match c.toNat with
  | 0 => a == b
  | 1 => a != b
  | 2 => decide (a < b)
  | 3 => decide (a ≤ b)
  | 4 => decide (b < a)
  | _ => decide (b ≤ a)

/-- A comparison of 32-bit values, signed for type code 0 and unsigned for 1 (R272, R289). -/
def icmp32 (t : BitVec 2) (c : BitVec 3) (a b : Word) : Bool :=
  if t.getLsbD 0 then condInt c a.toNat b.toNat else condInt c a.toInt b.toInt

/-- A comparison of 64-bit values, signed for type code 2 and unsigned for 3 (R272, R289). -/
def icmp64 (t : BitVec 2) (c : BitVec 3) (a b : DWord) : Bool :=
  if t.getLsbD 0 then condInt c a.toNat b.toNat else condInt c a.toInt b.toInt

end Sys2Proof.Machine
end

