-- ==== Sys2Proof/Syntax.lean ====
section
/-! DEFINITION. The instructions and the device events of the opcode table, one constructor a row: the words first, then the events that the device raises of itself, then those that reach it from outside (R268 to R275 and
the rules named beside each event). A register field keeps the width its layout gives it, so a pair is the 7 high bits
of its field, a range of four the 6 high bits, and a predicate its 3 bits (R269). -/

namespace Sys2Proof

/-- One hardware thread: a lane of a team by core, team slot and lane; a lane of a tadpole by core, tadpole slot and
lane; a context of a keeper core by core and context (0 the firmware context). `core` is 160 × die + core (R2). -/
inductive AgentRef where
  | none
  | lane (core slot lane : Nat)
  | tad (core slot lane : Nat)
  | keeper (core ctx : Nat)
  deriving DecidableEq, Repr

/-- A link whose layer retried a correctable error (R51, R59). -/
inductive ReplayLink where
  | host (port : Nat)
  | ualink (port : Nat)
  | dieToDie
  deriving DecidableEq, Repr

/-- An operation of a PCIe or UALink atomic (R45), or one of the codes of R321, R323 and R324 that a peer ships (R55). -/
inductive AtomicKind where
  | fetchAdd | swap | cas
  | shipped (float : Bool) (op : Nat)
  deriving DecidableEq, Repr

/-- How the host reaches device memory: through the memory BAR, or through CXL.mem (R52). -/
inductive HostPath where
  | bar | cxlMem
  deriving DecidableEq, Repr

/-- An address of a host access to device memory: its path and its offset there (R48, R52). -/
structure HostAddr where
  path : HostPath
  offset : Nat
  deriving DecidableEq, Repr

/-- What a die being staged reports (R32, R42): its stacks trained, its stacks not trained, a die power fault. -/
inductive DieReport where
  | trained | untrained | unpowered
  deriving DecidableEq, Repr

/-- A management datagram as it arrives: its SEQ and its payload, of whatever length (R43). -/
structure Datagram where
  seq : Nat
  payload : List Byte
  deriving DecidableEq, Repr

/-- A management datagram of TYPE 1, or of one that R43 does not list: 0, or 6 to 255 (`other` 0 to 250). -/
structure TypedDatagram extends Datagram where
  other : Option (Fin 251) := none
  deriving DecidableEq, Repr

/-- The TYPE byte of its header (R43). -/
def TypedDatagram.type (d : TypedDatagram) : Nat :=
  match d.other with
  | none => 1
  | some n => if n.val = 0 then 0 else n.val + 5

/-- How an SPDM message travels (R44): a vendor-defined message of the host link, or a management datagram with its SEQ
(R43). -/
inductive MctpPath where
  | host
  | mgmt (seq : Nat)
  deriving DecidableEq, Repr

/-- What R44 fixes of an SPDM answer. -/
inductive SpdmFact where
  /-- The request is one the device does not support now. -/
  | unsupported
  /-- SHA-384, and ECDSA on brainpoolP384r1 as an extended algorithm of the PCI-SIG registry under this vendor and
  algorithm number. -/
  | algorithms (vendor algorithm : Nat)
  /-- A certificate chain that ends in a leaf for this key. -/
  | leaf (key : List Byte)
  /-- A signature under the device identity key with this public part. -/
  | signed (key : List Byte)
  /-- The number of measurement indices. -/
  | count (n : Nat)
  /-- A measurement by its index. -/
  | measurement (index : Nat) (value : List Byte)
  deriving DecidableEq, Repr

/-- An AtomicOp of the host: its operation, its size in bytes and its operands (R45). -/
structure HostAtomic where
  kind : AtomicKind
  size : Nat
  operand : BitVec 128
  compare : BitVec 128
  deriving DecidableEq, Repr

/-- A UALink request that arrives from a peer (R45, R55). -/
inductive PeerRequest where
  | read (addr size tag : Nat)
  | write (addr : Nat) (bytes : List Byte) (tag : Nat)
  | atomic (addr : Nat) (op : HostAtomic) (tag : Nat)
  deriving DecidableEq, Repr

/-- What reads a word of a core SRAM: a lane's instruction (R80), or an operation of an engine queue (R218). -/
inductive SramReader where
  | thread (r : AgentRef)
  | engine (queue seq : Nat)
  deriving DecidableEq, Repr

/-- A detected error of a memory or an SRAM (R79 to R84). -/
inductive MemoryError where
  /-- An error in HBM4E, MSC or L2 data: the sector, the LAYER of R84, whether it is uncorrected. -/
  | sector (sector : Nat) (layer : Nat) (uncorrected : Bool)
  /-- An error in an L2 or MSC tag or timestamp array of the sector's slice. -/
  | tagArray (sector : Nat) (layer : Nat) (uncorrected : Bool)
  /-- An error in a core SRAM: the core, the unit of R84, the word index, what reads the word. -/
  | coreSram (core unit index : Nat) (uncorrected : Bool) (reader : SramReader)
  deriving DecidableEq, Repr

/-- One row of the opcode table each. -/
inductive Instr where
  | iadd (d : BitVec 8) (a : BitVec 8) (b : BitVec 8)
  | iaddi (d : BitVec 8) (a : BitVec 8) (i : BitVec 9)
  | isub (d : BitVec 8) (a : BitVec 8) (b : BitVec 8)
  | imul (d : BitVec 8) (a : BitVec 8) (b : BitVec 8)
  | imulh (d : BitVec 8) (a : BitVec 8) (b : BitVec 8) (m : BitVec 1)
  | imad (d : BitVec 8) (a : BitVec 8) (b : BitVec 8)
  | imin (d : BitVec 8) (a : BitVec 8) (b : BitVec 8) (m : BitVec 1)
  | imax (d : BitVec 8) (a : BitVec 8) (b : BitVec 8) (m : BitVec 1)
  | iand (d : BitVec 8) (a : BitVec 8) (b : BitVec 8)
  | iandi (d : BitVec 8) (a : BitVec 8) (i : BitVec 9)
  | ior (d : BitVec 8) (a : BitVec 8) (b : BitVec 8)
  | iori (d : BitVec 8) (a : BitVec 8) (i : BitVec 9)
  | ixor (d : BitVec 8) (a : BitVec 8) (b : BitVec 8)
  | ixori (d : BitVec 8) (a : BitVec 8) (i : BitVec 9)
  | ishl (d : BitVec 8) (a : BitVec 8) (b : BitVec 8)
  | ishli (d : BitVec 8) (a : BitVec 8) (i : BitVec 9)
  | ishr (d : BitVec 8) (a : BitVec 8) (b : BitVec 8)
  | ishri (d : BitVec 8) (a : BitVec 8) (i : BitVec 9)
  | isar (d : BitVec 8) (a : BitVec 8) (b : BitVec 8)
  | isari (d : BitVec 8) (a : BitVec 8) (i : BitVec 9)
  | irol (d : BitVec 8) (a : BitVec 8) (b : BitVec 8)
  | inot (d : BitVec 8) (a : BitVec 8)
  | iabs (d : BitVec 8) (a : BitVec 8)
  | ipopc (d : BitVec 8) (a : BitVec 8)
  | iclz (d : BitVec 8) (a : BitVec 8)
  | ibrev (d : BitVec 8) (a : BitVec 8)
  | ibfx (d : BitVec 8) (a : BitVec 8) (b : BitVec 8) (m : BitVec 1)
  | ibfi (d : BitVec 8) (a : BitVec 8) (b : BitVec 8)
  | iadd64 (d : BitVec 7) (a : BitVec 7) (b : BitVec 7)
  | isub64 (d : BitVec 7) (a : BitVec 7) (b : BitVec 7)
  | imul64 (d : BitVec 7) (a : BitVec 7) (b : BitVec 7)
  | lea (d : BitVec 7) (s : BitVec 2) (a : BitVec 7) (b : BitVec 8) (m : BitVec 1)
  | mov (d : BitVec 8) (a : BitVec 8)
  | movi (d : BitVec 8) (i : BitVec 9)
  | movk (d : BitVec 7) (k : BitVec 5)
  | isel (p : BitVec 3) (d : BitVec 8) (a : BitVec 8) (b : BitVec 8) (m : BitVec 1)
  | icmp (t : BitVec 2) (c : BitVec 3) (p : BitVec 3) (a : BitVec 8) (b : BitVec 8)
  | icmpi (t : BitVec 2) (c : BitVec 3) (p : BitVec 3) (a : BitVec 8) (i : BitVec 9)
  | pand (p : BitVec 3) (x : BitVec 1) (q : BitVec 3) (y : BitVec 1) (r : BitVec 3)
  | por (p : BitVec 3) (x : BitVec 1) (q : BitVec 3) (y : BitVec 1) (r : BitVec 3)
  | pxor (p : BitVec 3) (x : BitVec 1) (q : BitVec 3) (y : BitVec 1) (r : BitVec 3)
  | pnot (p : BitVec 3) (x : BitVec 1) (q : BitVec 3)
  | pget (d : BitVec 8)
  | pset (a : BitVec 8)
  | brp (p : BitVec 3) (s : BitVec 1) (o : BitVec 21)
  | br (o : BitVec 21)
  | call (o : BitVec 21)
  | brx (a : BitVec 8)
  | callx (p : BitVec 3) (a : BitVec 8)
  | nop
  | ret
  | exit
  | yield
  | jset (j : BitVec 4)
  | jclr (j : BitVec 4)
  | jwait (j : BitVec 4)
  | jdrop (j : BitVec 4)
  | jmask (d : BitVec 8) (j : BitVec 4)
  | vshfl (d : BitVec 8) (a : BitVec 8) (b : BitVec 8) (m : BitVec 1)
  | vbal (d : BitVec 8) (x : BitVec 1) (p : BitVec 3) (b : BitVec 8)
  | vvote (q : BitVec 3) (x : BitVec 1) (p : BitVec 3) (b : BitVec 8) (m : BitVec 1)
  | vmatch (d : BitVec 8) (a : BitVec 8) (b : BitVec 8) (m : BitVec 1)
  | elect (p : BitVec 3) (b : BitVec 8)
  | vred (d : BitVec 8) (op : BitVec 4) (t : BitVec 4) (b : BitVec 8)
  | vscan (d : BitVec 8) (op : BitVec 4) (t : BitVec 4) (b : BitVec 8)
  | fadd (r : BitVec 2) (d : BitVec 8) (a : BitVec 8) (b : BitVec 8)
  | fsub (r : BitVec 2) (d : BitVec 8) (a : BitVec 8) (b : BitVec 8)
  | fdiv (r : BitVec 2) (d : BitVec 8) (a : BitVec 8) (b : BitVec 8)
  | ffma (r : BitVec 2) (d : BitVec 8) (a : BitVec 8) (b : BitVec 8)
  | fmul (r : BitVec 2) (d : BitVec 8) (a : BitVec 8) (b : BitVec 8)
  | fmin (d : BitVec 8) (a : BitVec 8) (b : BitVec 8)
  | fmax (d : BitVec 8) (a : BitVec 8) (b : BitVec 8)
  | fcmp (c : BitVec 3) (p : BitVec 3) (a : BitVec 8) (b : BitVec 8)
  | dcmp (c : BitVec 3) (p : BitVec 3) (a : BitVec 7) (b : BitVec 7)
  | hcmp2 (t : BitVec 1) (c : BitVec 3) (p : BitVec 2) (a : BitVec 8) (b : BitVec 8)
  | frnd (d : BitVec 8) (a : BitVec 8) (r : BitVec 3)
  | fclass (d : BitVec 8) (a : BitVec 8)
  | frcp (d : BitVec 8) (a : BitVec 8)
  | fsqrt (d : BitVec 8) (a : BitVec 8) (r : BitVec 3)
  | frsq (d : BitVec 8) (a : BitVec 8)
  | fexp2 (d : BitVec 8) (a : BitVec 8)
  | flog2 (d : BitVec 8) (a : BitVec 8)
  | fmovm (d : BitVec 8) (a : BitVec 8) (t : BitVec 2) (o : BitVec 2)
  | dsqrt (d : BitVec 7) (a : BitVec 7) (r : BitVec 3)
  | drnd (d : BitVec 7) (a : BitVec 7) (r : BitVec 3)
  | hadd2 (d : BitVec 8) (a : BitVec 8) (b : BitVec 8) (m : BitVec 1)
  | hmul2 (d : BitVec 8) (a : BitVec 8) (b : BitVec 8) (m : BitVec 1)
  | hfma2 (d : BitVec 8) (a : BitVec 8) (b : BitVec 8) (m : BitVec 1)
  | hmin2 (d : BitVec 8) (a : BitVec 8) (b : BitVec 8) (m : BitVec 1)
  | hmax2 (d : BitVec 8) (a : BitVec 8) (b : BitVec 8) (m : BitVec 1)
  | dadd (d : BitVec 7) (r : BitVec 2) (a : BitVec 7) (b : BitVec 7)
  | dsub (d : BitVec 7) (r : BitVec 2) (a : BitVec 7) (b : BitVec 7)
  | dmul (d : BitVec 7) (r : BitVec 2) (a : BitVec 7) (b : BitVec 7)
  | dfma (d : BitVec 7) (r : BitVec 2) (a : BitVec 7) (b : BitVec 7)
  | ddiv (d : BitVec 7) (r : BitVec 2) (a : BitVec 7) (b : BitVec 7)
  | dmin (d : BitVec 7) (a : BitVec 7) (b : BitVec 7)
  | dmax (d : BitVec 7) (a : BitVec 7) (b : BitVec 7)
  | cvt (r : BitVec 3) (d : BitVec 8) (a : BitVec 8) (t : BitVec 4) (s : BitVec 4)
  | cvtd (r : BitVec 3) (d : BitVec 8) (a : BitVec 8) (t : BitVec 4) (s : BitVec 4)
  | drel (d : BitVec 8) (a : BitVec 7) (b : BitVec 7)
  | qdxb (d : BitVec 8) (a : BitVec 8) (x : BitVec 1) (f : BitVec 1) (h : BitVec 1) (p : BitVec 3)
  | dqdxb (d : BitVec 8) (a : BitVec 8) (b : BitVec 8) (m : BitVec 1)
  | ld (d : BitVec 8) (a : BitVec 7) (z : BitVec 3) (o : BitVec 6)
  | ldSigned (d : BitVec 8) (a : BitVec 7) (z : BitVec 1) (o : BitVec 6)
  | st (d : BitVec 8) (a : BitVec 7) (z : BitVec 3) (o : BitVec 6)
  | ldt (d : BitVec 8) (a : BitVec 8) (z : BitVec 3) (o : BitVec 6)
  | ldtSigned (d : BitVec 8) (a : BitVec 8) (z : BitVec 1) (o : BitVec 6)
  | stt (d : BitVec 8) (a : BitVec 8) (z : BitVec 3) (o : BitVec 6)
  | xld (d : BitVec 8) (a : BitVec 8) (b : BitVec 7)
  | xst (d : BitVec 8) (a : BitVec 8) (b : BitVec 7)
  | cflush (a : BitVec 7)
  | cinv (a : BitVec 7)
  | atom (d : BitVec 8) (a : BitVec 8) (o : BitVec 4) (z : BitVec 2) (m : BitVec 1)
  | red (d : BitVec 8) (a : BitVec 8) (o : BitVec 4) (z : BitVec 2) (m : BitVec 1)
  | atomf (d : BitVec 8) (a : BitVec 8) (o : BitVec 4) (z : BitVec 2) (m : BitVec 1)
  | redf (d : BitVec 8) (a : BitVec 8) (o : BitVec 4) (z : BitVec 2) (m : BitVec 1)
  | fence (s : BitVec 2)
  | waitc (d : BitVec 8) (a : BitVec 7) (c : BitVec 4) (z : BitVec 2)
  | balloc (d : BitVec 8) (p : BitVec 3) (i : BitVec 9)
  | bref (a : BitVec 8)
  | bfree (a : BitVec 8)
  | barr (a : BitVec 8) (n : BitVec 4)
  | barrReg (d : BitVec 8) (a : BitVec 8)
  | bexp (d : BitVec 8) (a : BitVec 8)
  | bwait (a : BitVec 8) (p : BitVec 3)
  | btest (d : BitVec 8) (a : BitVec 8) (p : BitVec 3)
  | tbar
  | cbar
  | bsnnew (d : BitVec 8) (a : BitVec 8) (p : BitVec 3)
  | bsnpost (d : BitVec 7) (a : BitVec 8) (p : BitVec 3)
  | bsnfill (d : BitVec 8) (a : BitVec 8) (p : BitVec 3)
  | bsnrel (a : BitVec 8) (p : BitVec 3)
  | bsnfree (a : BitVec 8)
  | brdhLin (d : BitVec 8) (a : BitVec 7) (e : BitVec 1) (p : BitVec 3)
  | brdhTen (d : BitVec 8) (a : BitVec 7) (e : BitVec 1) (p : BitVec 3)
  | tcpy (d : BitVec 8) (a : BitVec 7) (b : BitVec 1) (p : BitVec 3)
  | twb (d : BitVec 8) (a : BitVec 7) (p : BitVec 3)
  | gath (a : BitVec 8) (p : BitVec 3)
  | scat (a : BitVec 8) (p : BitVec 3)
  | moor (d : BitVec 8) (a : BitVec 7) (p : BitVec 3)
  | unmoor (d : BitVec 8) (a : BitVec 7)
  | mma (d : BitVec 8) (a : BitVec 8) (p : BitVec 3)
  | acld (d : BitVec 8) (a : BitVec 8) (c : BitVec 4)
  | acst (d : BitVec 8) (a : BitVec 8) (c : BitVec 4)
  | acz (a : BitVec 8)
  | acq (d : BitVec 8) (a : BitVec 8) (p : BitVec 3)
  | acflg (d : BitVec 8) (a : BitVec 8)
  | wopen (a : BitVec 7) (p : BitVec 3)
  | wapp (d : BitVec 6) (a : BitVec 7) (p : BitVec 3)
  | wtake (d : BitVec 6) (a : BitVec 7) (p : BitVec 3)
  | tend
  | clins (d : BitVec 8) (a : BitVec 7) (p : BitVec 3)
  | clrem (d : BitVec 8) (a : BitVec 7) (p : BitVec 3)
  | clnext (d : BitVec 8) (a : BitVec 7) (p : BitVec 3)
  | clcnt (d : BitVec 7) (a : BitVec 7)
  | clgrow (d : BitVec 8) (a : BitVec 7) (p : BitVec 3)
  | clstat (d : BitVec 6) (a : BitVec 7)
  | frag (d : BitVec 8) (a : BitVec 7) (p : BitVec 3)
  | frrd (d : BitVec 8) (a : BitVec 7)
  | rslv (d : BitVec 6) (a : BitVec 7) (f : BitVec 1)
  | frclr (d : BitVec 8) (a : BitVec 7)
  | pooladd (d : BitVec 8) (a : BitVec 7) (p : BitVec 3)
  | poolst (d : BitVec 8) (a : BitVec 7)
  | isect (d : BitVec 8) (a : BitVec 7)
  | isnext (d : BitVec 8)
  | tcov (d : BitVec 8)
  | mfs (d : BitVec 8) (n : BitVec 12)
  | mts (d : BitVec 8) (n : BitVec 12)
  | trap (n : BitVec 8)
  | eret
  | brk
  | evpop (d : BitVec 6) (p : BitVec 3)
  | evpeek (d : BitVec 6) (p : BitVec 3)
  | trel (a : BitVec 8) (p : BitVec 3)
  | tkill (a : BitVec 8) (p : BitVec 3)
  | idle
  | hintImm20 (i : BitVec 21)
  | hintGuard (x : BitVec 1) (p : BitVec 3)
  | hintC4 (c : BitVec 8)
  | hintCache (k : BitVec 2)
  | hintScope (s : BitVec 2)
  | hintDxbd (d : BitVec 4)
  /-- R271. A lane executes a word of an unassigned major, of major 0x7E or 0x00, or with a nonzero reserved field or unassigned code, and raises ILLEGAL in every lane of the bundle. -/
  | wordLevelIllegal (word : Word)
  /-- R274. A hint word of KIND 6 to 15, or with unused payload bits set, enters the pending set as a malformed entry that makes the next instruction raise ILLEGAL. -/
  | malformedHint (word : Word)
  /-- R33. A row whose cores have held nothing for 2^20 CCLK, with DEEP_EN set and no placement pending, is power-gated. -/
  | deepIdleEnter (die row : Nat)
  /-- R33. A placement or event record aimed at a deep-idle row wakes the row in one 20 µs step, with pts reset to BTS and the start berth set to 0. -/
  | rowWake (die row : Nat)
  /-- R34. A core idle for more than 4,096 CCLK starts an issue-width ramp that caps the lanes per bundle over the next 64 CCLK. -/
  | issueRamp (core : Nat)
  /-- R54. A stamped aperture access reaches the IOD and is accepted only when STATE is OPEN and the stamp equals GEN; otherwise it is refused. -/
  | peerAccessArrive (access : Nat)
  /-- R56. An access still without a completion 1 ms after draining began is completed as failed with cause PEERLINK. -/
  | retireTimeout (aperture : Nat)
  /-- R56. When every die reports that no access with the old stamp remains, STATE becomes OFF. -/
  | retireFenced (aperture : Nat)
  /-- R65. An HBM4E row activation increments that row's count within the refresh window. -/
  | rowActivation (stack bank row : Nat)
  /-- R65. At the end of a refresh window, every activation count returns to zero and every MSC pin is released. -/
  | refreshWindowEnd (stack : Nat)
  /-- R79. While SCRUB_EN is set, the controllers read each sector once per 24 hours and write corrected data back. -/
  | patrolScrub (sector : Nat)
  /-- R82. In each FCLK, the reporting sources in ascending order increment their counters and write a log record or count ELOG_OVF. -/
  | errorLogReport (die : Nat)
  /-- R69. A moored line's lease expires and the line is unmoored. -/
  | moorLeaseEnd (line : Nat)
  /-- R130. At each write reaching its home, or every 4,096 CCLK, the scheduler rereads an unmet dependency word and takes the record once all entries are met. -/
  | dependencyRead (queue : Nat)
  /-- R142. Every 16 CCLK, each die scheduler places the first held unit, in priority and age order, that fits on a core not closed by a drain. -/
  | dieSchedCycle (die : Nat)
  /-- R147. A cluster unplaced for 2^20 CCLK starts a drain that closes a target rectangle to other placements. -/
  | drainStart (die : Nat)
  /-- R154. Once no pending operation of the victim touches it, a claimed victim region is saved to the save region. -/
  | regionClaim (core slot : Nat)
  /-- R148. When the last staging copy of a team completes, the team starts with cleared registers and k registers filled, all lanes at CODE. -/
  | teamStart (core slot : Nat)
  /-- R156. When all of a victim's storage is free, its claimed regions are restored and its lanes go on, with pts raised. -/
  | teamResume (core slot : Nat)
  /-- R182. A retired team's slot is freed once all its asynchronous operations are reported and its event records are taken. -/
  | slotRelease (core slot : Nat)
  /-- R132. When every team, operation, fault record and L1 write-back of a launch is done, its completion word is written with bit 63 for faults. -/
  | launchComplete (launch : Nat)
  /-- R164. In each CCLK, a berth reads one 64-byte instruction block for its longest-waiting fetch-waiting lane and delivers it to every subscribing loop buffer. -/
  | broadcastFetch (core berth : Nat)
  /-- R149. A ready lane whose wait reaches 256 CCLK becomes starving and gains priority in bundle choice. -/
  | laneStarving (lane : AgentRef)
  /-- R174. In a CCLK with no bundle, the berth may speculatively run a lane held only for load data, discarding everything when the data arrives. -/
  | runAhead (lane : AgentRef)
  /-- R277. A load's or returning instruction's data arrives and the scoreboard releases its destination. -/
  | loadReturn (lane : AgentRef)
  /-- R75. A store's completion returns from the home, raising pts and releasing the lane's next coherent access. -/
  | storeCompletion (lane : AgentRef)
  /-- R295. Thirty-two CCLK after a YIELD issues, the scoreboard releases the lane. -/
  | yieldRelease (lane : AgentRef)
  /-- R179. A record held by a producing unit enters the core's event queue when the queue has room. -/
  | eqRecordEnqueue (core : Nat)
  /-- R180. The firmware context takes the next event queue record, performs its kind's action, and delivers it to the launch's routine context. -/
  | firmwareEvent (core : Nat)
  /-- R214. An engine unit meeting a translation fault or poison stops starting units and sends a SLOWPATH record. -/
  | engineUnitFault (core engine seq : Nat)
  /-- R215. A unit that cannot be finished ends its operation in error: the barrier errs, an ASYNC record is sent, and the operation counts as completed. -/
  | engineUnitError (core engine seq : Nat)
  /-- R202. A bulk read's burst returns from memory to the issuing core and bears a tadpole if a slot is free. -/
  | burstDeliver (core seq burst : Nat)
  /-- R212. A TCPY or TWB finishes its writes and posts one arrival, TB bytes and its ets. -/
  | tcpyComplete (core seq : Nat)
  /-- R213. A GATH or SCAT finishes its rows and posts n × RL bytes. -/
  | gatherComplete (core seq : Nat)
  /-- R78. A queued engine ownership request for a line is granted when the line and its set's engine ways allow. -/
  | ownershipGrant (line : Nat)
  /-- R78. An engine writes an owned line once its data is ready and releases it, letting waiting accesses proceed. -/
  | engineLineRelease (line : Nat)
  /-- R217. The matrix engine reads an MMA's operand registers in all 64 lanes, releasing held writes. -/
  | mmaOperandRead (core seq : Nat)
  /-- R347. An MMA finishes its tile update and posts one arrival, 0 bytes and its ets. -/
  | mmaComplete (core seq : Nat)
  /-- R350. An ACQ finishes writing codes, scales and the saturation count and posts its byte count. -/
  | acqComplete (core seq : Nat)
  /-- R195. Every 4,096 CCLK, a WAITC parked without a monitor rereads its word and returns on a satisfying value. -/
  | waitcReread (lane : AgentRef)
  /-- R159. The compaction unit writes a reserved item and lowers INFLIGHT. -/
  | wappItemWritten (item : Nat)
  /-- R160. A WTAKE parked for 4,096 CCLK with no written item returns empty but not quiescent. -/
  | wtakeEmpty (lane : AgentRef)
  /-- R193. A BSNFILL with nothing reserved for 4,096 CCLK returns false. -/
  | bsnfillTimeout (lane : AgentRef)
  /-- R32. A die's two HBM4E stacks finish training; once that die's last row is started, the next die begins staging or bring-up moves to fetch. -/
  | hbmTrained (report : DieReport)
  /-- R39. A fetch of the configuration or firmware record from the active source completes or fails; after three failed attempts the other source is used, and when both fail the phase becomes FAILED 0x04. -/
  | bootRecordFetched (firmware : Bool) (bytes : Option (List Byte))
  /-- R29. Every 100 µs the hottest junction sensor is sampled and TSTEP rises or falls against the thresholds. -/
  | thermalSample (hotDie : BitVec 8) (tMax hbmMax : BitVec 8)
  /-- R30. At the end of each 1 ms window, averaged input power is compared with the effective cap and PSTEP is raised or lowered. -/
  | powerWindowEnd (milliwatts : Nat)
  /-- R42. A write to PWR_CAP_HOST or PWR_CAP_MGMT stores its CAP clamped to 1,200–2,800 W, and the smaller cap becomes effective. -/
  | pwrCapWrite (mgmt : Bool) (value : Word)
  /-- R42. A write to THROTTLE.FLOOR stores the floor step, with values 5–15 stored as 4. -/
  | floorWrite (value : Word)
  /-- R43. A management IDENT datagram returns the part, revision, die serials, DIK_PUB and measurements. -/
  | ident (datagram : TypedDatagram)
  /-- R43. A management STATUS datagram returns BRINGUP, THERM_STAT, THROTTLE and PWR_NOW. -/
  | status (datagram : Datagram)
  /-- R43. A management REGRD datagram reads one SMC register, or answers LOCKED when R40 or R44 forbids it. -/
  | regrd (seq : Nat) (payload : List Byte)
  /-- R43. A management REGWR datagram writes one SMC register inside an owner-authenticated secured session, and otherwise answers LOCKED. -/
  | regwr (seq : Nat) (offset value : List Byte)
  /-- R44. An SPDM GET_VERSION request over MCTP is answered in any phase. -/
  | getVersion (path : MctpPath) (request : List Byte)
  /-- R44. An SPDM GET_CAPABILITIES request is answered in any phase. -/
  | getCapabilities (path : MctpPath) (request : List Byte)
  /-- R44. An SPDM NEGOTIATE_ALGORITHMS request selects SHA-384 and brainpoolP384r1 ECDSA. -/
  | negotiateAlgorithms (path : MctpPath) (request : List Byte)
  /-- R44. An SPDM GET_DIGESTS request returns the certificate chain digests. -/
  | getDigests (path : MctpPath) (request : List Byte)
  /-- R44. An SPDM GET_CERTIFICATE request returns the chain that ends in the DIK_PUB leaf. -/
  | getCertificate (path : MctpPath) (request : List Byte)
  /-- R44. An SPDM CHALLENGE is answered by a signature under the device identity key. -/
  | challenge (path : MctpPath) (request : List Byte)
  /-- R44. An SPDM GET_MEASUREMENTS request returns the MEAS values at indices 1 to 3. -/
  | getMeasurements (path : MctpPath) (request : List Byte)
  /-- R44. An SPDM KEY_EXCHANGE starts a secured session, from phase OPEN only. -/
  | keyExchange (path : MctpPath) (request : List Byte)
  /-- R44. An SPDM FINISH completes a secured session, from phase OPEN only. -/
  | finish (path : MctpPath) (request : List Byte)
  /-- R44. An SPDM secured message is processed within an established session, from phase OPEN only. -/
  | securedMessage (path : MctpPath) (request : List Byte)
  /-- R52. A host read through the memory BAR or CXL.mem is performed at the home slice as a .sys load, or completes as Unsupported Request beyond local memory. -/
  | hostMemRead (addr : HostAddr) (size tag : Nat)
  /-- R52. A host write through the memory BAR or CXL.mem is performed at the home slice as a .sys store, or is discarded and reported through AER. -/
  | hostMemWrite (addr : HostAddr) (bytes : List Byte)
  /-- R55. A UALink request from a peer is performed at the local home slice if the allow bitmap admits it, and is otherwise given an error completion with IN_REJECT incremented. -/
  | peerInbound (accel : Nat) (request : PeerRequest)
  /-- R53. Writing CTL.EN while STATE is OFF and PORTS is nonzero opens the aperture. -/
  | apertureEn (aperture : Nat)
  /-- R56. Writing CTL.RETIRE to an OPEN aperture sets STATE to DRAINING, from which point the IOD accepts no new access under it. -/
  | apertureRetire (aperture : Nat)
  /-- R56. A peer's completion for an accepted access returns to the IOD; when it is the last one a draining aperture awaits, GEN increments and STATE becomes FENCING. -/
  | peerCompletion (access : Nat) (bytes : List Byte)
  /-- R59. A UALink port that loses its link clears PEER_STAT.UP, and its traffic moves to the other allowed ports or is refused with PEERLINK. -/
  | ualinkPortDown (port : Nat)
  /-- R59. A UALink port that comes up again sets PEER_STAT.UP, and apertures that allow it accept accesses again. -/
  | ualinkPortUp (port : Nat)
  /-- R59. A host port going down moves host traffic to the other port; with both down, host accesses trap with HOSTLINK or are dropped with a record. -/
  | hostPortDown (port : Nat)
  /-- R59. A flit that fails eight replays fails its die-to-die link, sets D2D_STAT.FAILED and stops every launch with LINKFAIL. -/
  | ucieFlitFail (die : Nat)
  /-- R59. A correctable link error is retried by the link layer, and the RETRY or CORR counter increments. -/
  | linkReplay (link : ReplayLink)
  /-- R80. A detected ECC error is corrected or poisons its sector; an uncorrected tag or timestamp error stops every launch with MEMERR. -/
  | memoryErrorDetect (error : MemoryError)
  /-- R125. A host write of QWR advances the queue's write index and sets ERR if QWR − QRD exceeds the ring size. -/
  | qwrWrite (queue : Nat) (value : Word)
  /-- R126. Writing QCTL.EN enables or disables the queue's taking of records. -/
  | qctlEn (queue : Nat) (en : Bool)
  /-- R126. Writing QCTL.KILL stops every team of every launch from the queue, each launch getting a KILLED record and then its completion word. -/
  | qctlKill (queue : Nat)
  /-- R135. REPLAY_HI.GO with FAIL 0 makes every agent parked on the page repeat its access. -/
  | replayRetry (asid : Nat) (page : Nat)
  /-- R135. REPLAY_HI.GO with FAIL 1 makes each lane parked on the page take a precise PAGEFAULT trap, and each engine unit end in error. -/
  | replayFail (asid : Nat) (page : Nat)
  /-- R134. INVAL_HI.GO with ALL 0 starts invalidation of cached translations and read-shared L1 copies over a range. -/
  | invalRange (asid : Nat) (va : Nat) (size : Nat)
  /-- R134. INVAL_HI.GO with ALL 1 starts invalidation of a whole address space. -/
  | invalAll (asid : Nat)
  /-- R389. A write of FQ_RD is stored, clamped to FQ_WR, or discarded by the free-running index rule, and fault records held for a full ring are then written. -/
  | fqRdWrite (value : Word)
  /-- R389. A write of ELOG_RD is stored, clamped to ELOG_WR, or discarded by the free-running index rule. -/
  | elogRdWrite (die : Nat) (value : Word)
  /-- R140. A write of INT_MASK that clears a bit while its INT_STAT bit is set sends that vector's MSI-X message. -/
  | intMaskWrite (value : Word)
  /-- R9. A write to any register with no row of its own stores its RW fields as its table gives, clears RW1C bits, and discards writes to reserved or locked fields. -/
  | registerWrite (offset : Nat) (value : Word)
  /-- R59. A host port trains up, setting HOST_STAT WIDTH, SPEED and CXL, taking host traffic again and setting INT_STAT.LINK. -/
  | hostPortUp (port : Nat) (width : BitVec 4) (speed : BitVec 3) (cxl : Bool)
  /-- R50. A host write into a boot staging window is stored in phases 0x0 to 0x3 while the host is the active boot source, and otherwise discarded. -/
  | bootStagingWrite (firmware : Bool) (offset : Nat) (bytes : List Byte)
  /-- R45. A PCIe AtomicOp from the host to device memory, which the device completes as AtomicOp completer at the line's home slice. -/
  | hostAtomicop (op : HostAtomic) (offset : Nat) (tag : Nat)
  /-- R39. Module power-on starts the SMC from ROM, which self-tests the IOD and then proceeds through the bring-up phases. -/
  | powerOn
  /-- R32. Every 20 µs during staging, the SMC starts the next row of 16 cores on the die being staged. -/
  | rowStart
  /-- R39. A host write of BOOTCTL.GO makes the SMC read both records from the boot staging windows; it is discarded while the network source is active. -/
  | bootctlGo
  /-- R41. A write of BOOTCTL.RESTART in phase OPEN stops every launch and returns to fetch; in phase FAILED it reruns bring-up unless a thermal trip is still hot; in any other phase it is discarded. -/
  | bootctlRestart
  /-- R28. Every 100 µs the SMC sets the effective throttle step to the largest of TSTEP, PSTEP and FLOOR. -/
  | stepRecompute
  /-- R27. At the next 1 µs boundary a new throttle step takes effect on all compute dies, and the clocks glide to it. -/
  | stepChange
  /-- R74. Every 64 CCLK, BTS and every core's pts increment by 1. -/
  | btsTick
  /-- R134. Once no stale translation or copy remains and every old-translation access has completed, INVAL_DONE increments. -/
  | invalComplete
  /-- R126. Every 16 CCLK, the IOD takes at most one record, the next ready one of the highest-priority queue, in rotating order among equal priorities. -/
  | iodSchedCycle
  deriving DecidableEq, Repr

end Sys2Proof
end

