-- ==== Sys2Proof/WellFormed.lean ====
section
/-! DEFINITION. Which instructions are well formed: every assigned field holds a value that R269 to R274 and the
instruction's own description assign, and every register range is aligned. -/

namespace Sys2Proof

/-- What an agent may do with a system register (R366). -/
inductive SysAccess where
  | ro | rw | zero | refused
  deriving DecidableEq, Repr

/-- A row of the system register table (R366). -/
structure SysReg where
  wide : Bool
  lane : SysAccess
  tad : SysAccess
  keeper : SysAccess
  deriving DecidableEq, Repr

/-- The system register table (R366); none for a number that is not in it. -/
def sysReg (n : BitVec 12) : Option SysReg :=
  match n.toNat with
  | 0x000 | 0x001 | 0x003 | 0x004 | 0x005 | 0x006 | 0x007 | 0x00B => some ⟨false, .ro, .ro, .zero⟩
  | 0x002 => some ⟨false, .ro, .zero, .zero⟩
  | 0x008 | 0x009 | 0x00A | 0x023 | 0x030 | 0x040 | 0x041 => some ⟨false, .ro, .ro, .ro⟩
  | 0x010 | 0x031 => some ⟨true, .ro, .ro, .ro⟩
  | 0x020 | 0x042 => some ⟨false, .ro, .zero, .zero⟩
  | 0x021 => some ⟨true, .rw, .zero, .zero⟩
  | 0x022 => some ⟨true, .ro, .zero, .zero⟩
  | 0x032 => some ⟨true, .rw, .rw, .rw⟩
  | 0x050 => some ⟨false, .refused, .refused, .ro⟩
  | _ => none

/-- Bit 0 of a register field is zero: the field names a pair (R269). -/
def evenReg (r : BitVec 8) : Bool := r.getLsbD 0 == false

/-- Bits 1:0 of a register field are zero: the field names a range of four (R269). -/
def quadReg (r : BitVec 8) : Bool := bits r 0 2 == 0#2

/-- A field that names one register, a pair or a range of four, by the size code (R270). -/
def sizedReg (size : Nat) (r : BitVec 8) : Bool :=
  match size with
  | 0 | 1 | 2 => true
  | 3 => evenReg r
  | 4 => quadReg r
  | _ => false

/-- Integer types of ICMP: codes 2 and 3 name pairs (R272). -/
def icmpOk (t : BitVec 2) (c : BitVec 3) (pairs : Bool) : Bool := c.toNat ≤ 5 && (t.toNat < 2 || pairs)

/-- The pairs of OP and TYPE that VRED and VSCAN allow (R299). -/
def reduceOk (op t : BitVec 4) : Bool :=
  (op.toNat ≤ 2 && t.toNat ≤ 2) || (3 ≤ op.toNat && op.toNat ≤ 5 && t.toNat == 3)

/-- A CVT or CVTD type code of 64 bits (R272). -/
def wideType (t : BitVec 4) : Bool := t.toNat == 3 || t.toNat == 7 || t.toNat == 11

/-- A register of an atomic by its size code: one register, a pair or a range of four (R322). -/
def atomReg (z : BitVec 2) (r : BitVec 8) : Bool := sizedReg (z.toNat + 2) r

/-- The address field of an atomic: a pair when M is 0 (R322). -/
def atomBase (m : BitVec 1) (a : BitVec 8) : Bool := m == 1#1 || evenReg a

/-- The floating-point atomic codes (R324). -/
def atomfOk (o : BitVec 4) (z : BitVec 2) : Bool :=
  (o.toNat ≤ 2 && z.toNat ≤ 1) || (3 ≤ o.toNat && o.toNat ≤ 4 && z.toNat == 0)

/-- The field of MFS or MTS: a number of the table, and an even register for a 64-bit one (R366). -/
def mfsOk (n : BitVec 12) (d : BitVec 8) : Bool :=
  match sysReg n with
  | some r => !r.wide || evenReg d
  | none => false

/-- Whether every field of the instruction holds an assigned value. -/
def Instr.wellFormed : Instr → Bool
  | .brp p s _ => !(p == 0#3 && s == 0#1)            -- that word is BR (R271)
  | .icmp t c _ a b => icmpOk t c (evenReg a && evenReg b)
  | .icmpi t c _ a _ => icmpOk t c (evenReg a)
  | .vmatch _ a _ m => m == 0#1 || evenReg a
  | .vred _ op t _ | .vscan _ op t _ => reduceOk op t
  | .frnd _ _ r | .fsqrt _ _ r => r.toNat ≤ 3
  | .dsqrt _ _ r | .drnd _ _ r => r.toNat ≤ 3
  | .fmovm d a t _ => t != 1#2 || (evenReg d && evenReg a)
  | .cvt r _ _ t s => r.toNat ≤ 4 && t.toNat ≤ 11 && s.toNat ≤ 11 && !wideType t && !wideType s
  | .cvtd r d a t s => r.toNat ≤ 4 && t.toNat ≤ 11 && s.toNat ≤ 11 && (wideType t || wideType s)
      && (!wideType t || evenReg d) && (!wideType s || evenReg a)
  | .qdxb _ _ _ f h _ => f == 1#1 || h == 0#1
  | .ld d _ z _ => sizedReg z.toNat d
  | .st d _ z _ => sizedReg z.toNat d
  | .ldt d _ z _ => sizedReg z.toNat d
  | .stt d _ z _ => sizedReg z.toNat d
  | .atom d a o z m => o.toNat ≤ 11 && z.toNat ≤ 2 && (z.toNat < 2 || o.toNat == 9) && atomReg z d && atomBase m a
  | .red d a o z m => o.toNat ≤ 11 && o.toNat != 9 && z.toNat ≤ 1 && atomReg z d && atomBase m a
  | .atomf d a o z m | .redf d a o z m => atomfOk o z && atomReg z d && atomBase m a
  | .waitc d _ c z => c.toNat ≤ 5 && z.toNat ≤ 1 && atomReg z d
  | .mfs d n => mfsOk n d
  | .mts d n => mfsOk n d
  | .hintCache k => k != 3#2
  | .hintDxbd d => d != 0#4
  | _ => true

/-- Whether the instruction is a word of the instruction stream, not an event of the device. -/
def Instr.isWord (i : Instr) : Bool :=
  match i with
  | .iadd .. | .iaddi .. | .isub .. | .imul .. | .imulh .. | .imad .. | .imin .. | .imax ..
  | .iand .. | .iandi .. | .ior .. | .iori .. | .ixor .. | .ixori .. | .ishl .. | .ishli ..
  | .ishr .. | .ishri .. | .isar .. | .isari .. | .irol .. | .inot .. | .iabs .. | .ipopc ..
  | .iclz .. | .ibrev .. | .ibfx .. | .ibfi .. | .iadd64 .. | .isub64 .. | .imul64 .. | .lea ..
  | .mov .. | .movi .. | .movk .. | .isel .. | .icmp .. | .icmpi .. | .pand .. | .por ..
  | .pxor .. | .pnot .. | .pget .. | .pset .. | .brp .. | .br .. | .call .. | .brx ..
  | .callx .. | .nop | .ret | .exit | .yield | .jset .. | .jclr .. | .jwait ..
  | .jdrop .. | .jmask .. | .vshfl .. | .vbal .. | .vvote .. | .vmatch .. | .elect .. | .vred ..
  | .vscan .. | .fadd .. | .fsub .. | .fdiv .. | .ffma .. | .fmul .. | .fmin .. | .fmax ..
  | .fcmp .. | .dcmp .. | .hcmp2 .. | .frnd .. | .fclass .. | .frcp .. | .fsqrt .. | .frsq ..
  | .fexp2 .. | .flog2 .. | .fmovm .. | .dsqrt .. | .drnd .. | .hadd2 .. | .hmul2 .. | .hfma2 ..
  | .hmin2 .. | .hmax2 .. | .dadd .. | .dsub .. | .dmul .. | .dfma .. | .ddiv .. | .dmin ..
  | .dmax .. | .cvt .. | .cvtd .. | .drel .. | .qdxb .. | .dqdxb .. | .ld .. | .ldSigned ..
  | .st .. | .ldt .. | .ldtSigned .. | .stt .. | .xld .. | .xst .. | .cflush .. | .cinv ..
  | .atom .. | .red .. | .atomf .. | .redf .. | .fence .. | .waitc .. | .balloc .. | .bref ..
  | .bfree .. | .barr .. | .barrReg .. | .bexp .. | .bwait .. | .btest .. | .tbar | .cbar
  | .bsnnew .. | .bsnpost .. | .bsnfill .. | .bsnrel .. | .bsnfree .. | .brdhLin .. | .brdhTen .. | .tcpy ..
  | .twb .. | .gath .. | .scat .. | .moor .. | .unmoor .. | .mma .. | .acld .. | .acst ..
  | .acz .. | .acq .. | .acflg .. | .wopen .. | .wapp .. | .wtake .. | .tend | .clins ..
  | .clrem .. | .clnext .. | .clcnt .. | .clgrow .. | .clstat .. | .frag .. | .frrd .. | .rslv ..
  | .frclr .. | .pooladd .. | .poolst .. | .isect .. | .isnext .. | .tcov .. | .mfs .. | .mts ..
  | .trap .. | .eret | .brk | .evpop .. | .evpeek .. | .trel .. | .tkill .. | .idle
  | .hintImm20 .. | .hintGuard .. | .hintC4 .. | .hintCache .. | .hintScope .. | .hintDxbd .. => true
  | .wordLevelIllegal .. | .malformedHint .. => true
  | .powerOn | .rowStart | .hbmTrained .. | .bootRecordFetched .. | .bootctlGo | .bootctlRestart
  | .thermalSample .. | .powerWindowEnd .. | .stepRecompute | .stepChange | .pwrCapWrite .. | .floorWrite ..
  | .deepIdleEnter .. | .rowWake .. | .issueRamp .. | .ident .. | .status .. | .regrd ..
  | .regwr .. | .getVersion .. | .getCapabilities .. | .negotiateAlgorithms .. | .getDigests .. | .getCertificate ..
  | .challenge .. | .getMeasurements .. | .keyExchange .. | .finish .. | .securedMessage .. | .hostMemRead ..
  | .hostMemWrite .. | .peerInbound .. | .apertureEn .. | .apertureRetire .. | .peerAccessArrive .. | .peerCompletion ..
  | .retireTimeout .. | .retireFenced .. | .ualinkPortDown .. | .ualinkPortUp .. | .hostPortDown .. | .ucieFlitFail ..
  | .linkReplay .. | .btsTick | .rowActivation .. | .refreshWindowEnd .. | .patrolScrub .. | .memoryErrorDetect ..
  | .errorLogReport .. | .moorLeaseEnd .. | .qwrWrite .. | .qctlEn .. | .qctlKill .. | .replayRetry ..
  | .replayFail .. | .invalRange .. | .invalAll .. | .invalComplete | .fqRdWrite .. | .elogRdWrite ..
  | .intMaskWrite .. | .registerWrite .. | .iodSchedCycle | .dependencyRead .. | .dieSchedCycle .. | .drainStart ..
  | .regionClaim .. | .teamStart .. | .teamResume .. | .slotRelease .. | .launchComplete .. | .broadcastFetch ..
  | .laneStarving .. | .runAhead .. | .loadReturn .. | .storeCompletion .. | .yieldRelease .. | .eqRecordEnqueue ..
  | .firmwareEvent .. | .engineUnitFault .. | .engineUnitError .. | .burstDeliver .. | .tcpyComplete .. | .gatherComplete ..
  | .ownershipGrant .. | .engineLineRelease .. | .mmaOperandRead .. | .mmaComplete .. | .acqComplete .. | .waitcReread ..
  | .wappItemWritten .. | .wtakeEmpty .. | .bsnfillTimeout .. | .hostPortUp .. | .bootStagingWrite .. | .hostAtomicop .. => false

end Sys2Proof
end

