-- ==== Sys2Proof/Decode.lean ====
section
/-! DEFINITION. Decoding of a 32-bit instruction word, total and rejecting by name, and the encoder beside it
(R268 to R275). -/

namespace Sys2Proof

/-- Why a word is refused: each is a word-level ILLEGAL (R271 to R273), but for a malformed hint word (R274). -/
inductive DecodeError where
  /-- A major that R271 leaves unassigned, 0x00 and 0x7E among them. -/
  | unassignedMajor
  /-- A minor or operation code that its major leaves unassigned (R273). -/
  | unassignedMinor
  /-- A nonzero bit of a field the layout does not use (R269). -/
  | reservedBits
  /-- A value of an assigned field that no rule assigns (R272). -/
  | unassignedField
  /-- A hint word that R274 calls malformed. -/
  | malformedHint
  /-- Fewer bytes than a word. -/
  | shortWord
  deriving DecidableEq, Repr

/-- The major opcode, bits 31:25 (R268). -/
def opcode (w : Word) : Nat := (bits w 25 7).toNat

/-- Majors 0x00 to 0x3F (R271): integer, control and collective words. -/
def decodeInteger (w : Word) : Except DecodeError Instr :=
  match opcode w with
  | 0x1 => if bits w 0 1 = 0x0#1 then .ok (.iadd (bits w 17 8) (bits w 9 8) (bits w 1 8)) else .error .reservedBits
  | 0x2 => .ok (.iaddi (bits w 17 8) (bits w 9 8) (bits w 0 9))
  | 0x3 => if bits w 0 1 = 0x0#1 then .ok (.isub (bits w 17 8) (bits w 9 8) (bits w 1 8)) else .error .reservedBits
  | 0x4 => if bits w 0 1 = 0x0#1 then .ok (.imul (bits w 17 8) (bits w 9 8) (bits w 1 8)) else .error .reservedBits
  | 0x5 => .ok (.imulh (bits w 17 8) (bits w 9 8) (bits w 1 8) (bits w 0 1))
  | 0x6 => if bits w 0 1 = 0x0#1 then .ok (.imad (bits w 17 8) (bits w 9 8) (bits w 1 8)) else .error .reservedBits
  | 0x7 => .ok (.imin (bits w 17 8) (bits w 9 8) (bits w 1 8) (bits w 0 1))
  | 0x8 => .ok (.imax (bits w 17 8) (bits w 9 8) (bits w 1 8) (bits w 0 1))
  | 0x9 => if bits w 0 1 = 0x0#1 then .ok (.iand (bits w 17 8) (bits w 9 8) (bits w 1 8)) else .error .reservedBits
  | 0xa => .ok (.iandi (bits w 17 8) (bits w 9 8) (bits w 0 9))
  | 0xb => if bits w 0 1 = 0x0#1 then .ok (.ior (bits w 17 8) (bits w 9 8) (bits w 1 8)) else .error .reservedBits
  | 0xc => .ok (.iori (bits w 17 8) (bits w 9 8) (bits w 0 9))
  | 0xd => if bits w 0 1 = 0x0#1 then .ok (.ixor (bits w 17 8) (bits w 9 8) (bits w 1 8)) else .error .reservedBits
  | 0xe => .ok (.ixori (bits w 17 8) (bits w 9 8) (bits w 0 9))
  | 0xf => if bits w 0 1 = 0x0#1 then .ok (.ishl (bits w 17 8) (bits w 9 8) (bits w 1 8)) else .error .reservedBits
  | 0x10 => .ok (.ishli (bits w 17 8) (bits w 9 8) (bits w 0 9))
  | 0x11 => if bits w 0 1 = 0x0#1 then .ok (.ishr (bits w 17 8) (bits w 9 8) (bits w 1 8)) else .error .reservedBits
  | 0x12 => .ok (.ishri (bits w 17 8) (bits w 9 8) (bits w 0 9))
  | 0x13 => if bits w 0 1 = 0x0#1 then .ok (.isar (bits w 17 8) (bits w 9 8) (bits w 1 8)) else .error .reservedBits
  | 0x14 => .ok (.isari (bits w 17 8) (bits w 9 8) (bits w 0 9))
  | 0x15 => if bits w 0 1 = 0x0#1 then .ok (.irol (bits w 17 8) (bits w 9 8) (bits w 1 8)) else .error .reservedBits
  | 0x16 =>
    match (bits w 4 5).toNat with
    | 0 => if bits w 0 4 = 0x0#4 then .ok (.inot (bits w 17 8) (bits w 9 8)) else .error .reservedBits
    | 1 => if bits w 0 4 = 0x0#4 then .ok (.iabs (bits w 17 8) (bits w 9 8)) else .error .reservedBits
    | 2 => if bits w 0 4 = 0x0#4 then .ok (.ipopc (bits w 17 8) (bits w 9 8)) else .error .reservedBits
    | 3 => if bits w 0 4 = 0x0#4 then .ok (.iclz (bits w 17 8) (bits w 9 8)) else .error .reservedBits
    | 4 => if bits w 0 4 = 0x0#4 then .ok (.ibrev (bits w 17 8) (bits w 9 8)) else .error .reservedBits
    | _ => .error .unassignedMinor
  | 0x17 => .ok (.ibfx (bits w 17 8) (bits w 9 8) (bits w 1 8) (bits w 0 1))
  | 0x18 => if bits w 0 1 = 0x0#1 then .ok (.ibfi (bits w 17 8) (bits w 9 8) (bits w 1 8)) else .error .reservedBits
  | 0x19 => if bits w 17 1 = 0x0#1 ∧ bits w 9 1 = 0x0#1 ∧ bits w 0 2 = 0x0#2 then .ok (.iadd64 (bits w 18 7) (bits w 10 7) (bits w 2 7)) else .error .reservedBits
  | 0x1a => if bits w 17 1 = 0x0#1 ∧ bits w 9 1 = 0x0#1 ∧ bits w 0 2 = 0x0#2 then .ok (.isub64 (bits w 18 7) (bits w 10 7) (bits w 2 7)) else .error .reservedBits
  | 0x1b => if bits w 17 1 = 0x0#1 ∧ bits w 9 1 = 0x0#1 ∧ bits w 0 2 = 0x0#2 then .ok (.imul64 (bits w 18 7) (bits w 10 7) (bits w 2 7)) else .error .reservedBits
  | 0x1c => .ok (.lea (bits w 18 7) (bits w 17 1 ++ bits w 9 1) (bits w 10 7) (bits w 1 8) (bits w 0 1))
  | 0x1d => if bits w 0 9 = 0x0#9 then .ok (.mov (bits w 17 8) (bits w 9 8)) else .error .reservedBits
  | 0x1e => if bits w 9 8 = 0x0#8 then .ok (.movi (bits w 17 8) (bits w 0 9)) else .error .reservedBits
  | 0x1f => if bits w 14 4 = 0x0#4 ∧ bits w 0 9 = 0x0#9 then .ok (.movk (bits w 18 7) (bits w 9 5)) else .error .reservedBits
  | 0x20 | 0x21 | 0x22 | 0x23 | 0x24 | 0x25 | 0x26 | 0x27 => .ok (.isel (bits w 25 3) (bits w 17 8) (bits w 9 8) (bits w 1 8) (bits w 0 1))
  | 0x28 => if bits w 0 1 = 0x0#1 then .ok (.icmp (bits w 23 2) (bits w 20 3) (bits w 17 3) (bits w 9 8) (bits w 1 8)) else .error .reservedBits
  | 0x29 => .ok (.icmpi (bits w 23 2) (bits w 20 3) (bits w 17 3) (bits w 9 8) (bits w 0 9))
  | 0x2a =>
    if bits w 20 5 = 0x0#5 ∧ bits w 13 4 = 0x0#4 ∧ bits w 5 4 = 0x0#4 ∧ bits w 0 1 = 0x0#1 then .ok (.pand (bits w 17 3) (bits w 12 1) (bits w 9 3) (bits w 4 1) (bits w 1 3))
    else if bits w 20 5 = 0x1#5 ∧ bits w 13 4 = 0x0#4 ∧ bits w 5 4 = 0x0#4 ∧ bits w 0 1 = 0x0#1 then .ok (.por (bits w 17 3) (bits w 12 1) (bits w 9 3) (bits w 4 1) (bits w 1 3))
    else if bits w 20 5 = 0x2#5 ∧ bits w 13 4 = 0x0#4 ∧ bits w 5 4 = 0x0#4 ∧ bits w 0 1 = 0x0#1 then .ok (.pxor (bits w 17 3) (bits w 12 1) (bits w 9 3) (bits w 4 1) (bits w 1 3))
    else if bits w 20 5 = 0x3#5 ∧ bits w 13 4 = 0x0#4 ∧ bits w 0 9 = 0x0#9 then .ok (.pnot (bits w 17 3) (bits w 12 1) (bits w 9 3))
    else .error .unassignedMinor
  | 0x2b =>
    if bits w 0 17 = 0x0#17 then .ok (.pget (bits w 17 8))
    else if bits w 17 8 = 0x0#8 ∧ bits w 0 9 = 0x1#9 then .ok (.pset (bits w 9 8))
    else .error .unassignedMinor
  | 0x30 =>
    if bits w 21 4 = 0x0#4 then .ok (.br (bits w 0 21))
    else .ok (.brp (bits w 22 3) (bits w 21 1) (bits w 0 21))
  | 0x31 => if bits w 21 4 = 0x0#4 then .ok (.call (bits w 0 21)) else .error .reservedBits
  | 0x32 => if bits w 17 8 = 0x0#8 ∧ bits w 4 5 = 0x0#5 ∧ bits w 0 4 = 0x0#4 then .ok (.brx (bits w 9 8)) else .error .reservedBits
  | 0x33 => if bits w 20 5 = 0x0#5 ∧ bits w 4 5 = 0x0#5 ∧ bits w 0 4 = 0x0#4 then .ok (.callx (bits w 17 3) (bits w 9 8)) else .error .reservedBits
  | 0x34 =>
    match (bits w 4 5).toNat with
    | 0 => if bits w 17 8 = 0x0#8 ∧ bits w 9 8 = 0x0#8 ∧ bits w 0 4 = 0x0#4 then .ok (.nop) else .error .reservedBits
    | 1 => if bits w 17 8 = 0x0#8 ∧ bits w 9 8 = 0x0#8 ∧ bits w 0 4 = 0x0#4 then .ok (.ret) else .error .reservedBits
    | 2 => if bits w 17 8 = 0x0#8 ∧ bits w 9 8 = 0x0#8 ∧ bits w 0 4 = 0x0#4 then .ok (.exit) else .error .reservedBits
    | 3 => if bits w 17 8 = 0x0#8 ∧ bits w 9 8 = 0x0#8 ∧ bits w 0 4 = 0x0#4 then .ok (.yield) else .error .reservedBits
    | _ => .error .unassignedMinor
  | 0x35 =>
    match (bits w 4 5).toNat with
    | 0 => if bits w 17 8 = 0x0#8 ∧ bits w 9 8 = 0x0#8 then .ok (.jset (bits w 0 4)) else .error .reservedBits
    | 1 => if bits w 17 8 = 0x0#8 ∧ bits w 9 8 = 0x0#8 then .ok (.jclr (bits w 0 4)) else .error .reservedBits
    | 2 => if bits w 17 8 = 0x0#8 ∧ bits w 9 8 = 0x0#8 then .ok (.jwait (bits w 0 4)) else .error .reservedBits
    | 3 => if bits w 17 8 = 0x0#8 ∧ bits w 9 8 = 0x0#8 then .ok (.jdrop (bits w 0 4)) else .error .reservedBits
    | 4 => if bits w 9 8 = 0x0#8 then .ok (.jmask (bits w 17 8) (bits w 0 4)) else .error .reservedBits
    | _ => .error .unassignedMinor
  | 0x36 => .ok (.vshfl (bits w 17 8) (bits w 9 8) (bits w 1 8) (bits w 0 1))
  | 0x37 => if bits w 13 4 = 0x0#4 ∧ bits w 0 1 = 0x0#1 then .ok (.vbal (bits w 17 8) (bits w 12 1) (bits w 9 3) (bits w 1 8)) else .error .reservedBits
  | 0x38 => if bits w 20 5 = 0x0#5 ∧ bits w 13 4 = 0x0#4 then .ok (.vvote (bits w 17 3) (bits w 12 1) (bits w 9 3) (bits w 1 8) (bits w 0 1)) else .error .reservedBits
  | 0x39 => .ok (.vmatch (bits w 17 8) (bits w 9 8) (bits w 1 8) (bits w 0 1))
  | 0x3a => if bits w 20 5 = 0x0#5 ∧ bits w 9 8 = 0x0#8 ∧ bits w 0 1 = 0x0#1 then .ok (.elect (bits w 17 3) (bits w 1 8)) else .error .reservedBits
  | 0x3b =>
    if bits w 0 1 = 0x0#1 then .ok (.vred (bits w 17 8) (bits w 13 4) (bits w 9 4) (bits w 1 8))
    else if bits w 0 1 = 0x1#1 then .ok (.vscan (bits w 17 8) (bits w 13 4) (bits w 9 4) (bits w 1 8))
    else .error .unassignedMinor
  | _ => .error .unassignedMajor

/-- Majors 0x40 to 0x5F (R271): floating-point and conversion words. -/
def decodeFloat (w : Word) : Except DecodeError Instr :=
  match opcode w with
  | 0x40 | 0x41 | 0x42 | 0x43 =>
    if bits w 0 1 = 0x0#1 then .ok (.fadd (bits w 25 2) (bits w 17 8) (bits w 9 8) (bits w 1 8))
    else if bits w 0 1 = 0x1#1 then .ok (.fsub (bits w 25 2) (bits w 17 8) (bits w 9 8) (bits w 1 8))
    else .error .unassignedMinor
  | 0x44 | 0x45 | 0x46 | 0x47 => if bits w 0 1 = 0x0#1 then .ok (.fdiv (bits w 25 2) (bits w 17 8) (bits w 9 8) (bits w 1 8)) else .error .reservedBits
  | 0x48 | 0x49 | 0x4a | 0x4b =>
    if bits w 0 1 = 0x0#1 then .ok (.ffma (bits w 25 2) (bits w 17 8) (bits w 9 8) (bits w 1 8))
    else if bits w 0 1 = 0x1#1 then .ok (.fmul (bits w 25 2) (bits w 17 8) (bits w 9 8) (bits w 1 8))
    else .error .unassignedMinor
  | 0x4c =>
    if bits w 0 1 = 0x0#1 then .ok (.fmin (bits w 17 8) (bits w 9 8) (bits w 1 8))
    else if bits w 0 1 = 0x1#1 then .ok (.fmax (bits w 17 8) (bits w 9 8) (bits w 1 8))
    else .error .unassignedMinor
  | 0x4d =>
    if bits w 23 2 = 0x0#2 ∧ bits w 0 1 = 0x0#1 then .ok (.fcmp (bits w 20 3) (bits w 17 3) (bits w 9 8) (bits w 1 8))
    else if bits w 23 2 = 0x1#2 ∧ bits w 9 1 = 0x0#1 ∧ bits w 0 2 = 0x0#2 then .ok (.dcmp (bits w 20 3) (bits w 17 3) (bits w 10 7) (bits w 2 7))
    else if bits w 24 1 = 0x1#1 ∧ bits w 17 1 = 0x0#1 ∧ bits w 0 1 = 0x0#1 then .ok (.hcmp2 (bits w 23 1) (bits w 20 3) (bits w 18 2) (bits w 9 8) (bits w 1 8))
    else .error .unassignedMinor
  | 0x4e =>
    match (bits w 4 5).toNat with
    | 0 => if bits w 3 1 = 0x0#1 then .ok (.frnd (bits w 17 8) (bits w 9 8) (bits w 0 3)) else .error .reservedBits
    | 1 => if bits w 0 4 = 0x0#4 then .ok (.fclass (bits w 17 8) (bits w 9 8)) else .error .reservedBits
    | 2 => if bits w 0 4 = 0x0#4 then .ok (.frcp (bits w 17 8) (bits w 9 8)) else .error .reservedBits
    | 3 => if bits w 3 1 = 0x0#1 then .ok (.fsqrt (bits w 17 8) (bits w 9 8) (bits w 0 3)) else .error .reservedBits
    | 4 => if bits w 0 4 = 0x0#4 then .ok (.frsq (bits w 17 8) (bits w 9 8)) else .error .reservedBits
    | 5 => if bits w 0 4 = 0x0#4 then .ok (.fexp2 (bits w 17 8) (bits w 9 8)) else .error .reservedBits
    | 6 => if bits w 0 4 = 0x0#4 then .ok (.flog2 (bits w 17 8) (bits w 9 8)) else .error .reservedBits
    | 7 => .ok (.fmovm (bits w 17 8) (bits w 9 8) (bits w 2 2) (bits w 0 2))
    | 8 => if bits w 17 1 = 0x0#1 ∧ bits w 9 1 = 0x0#1 ∧ bits w 3 1 = 0x0#1 then .ok (.dsqrt (bits w 18 7) (bits w 10 7) (bits w 0 3)) else .error .reservedBits
    | 9 => if bits w 17 1 = 0x0#1 ∧ bits w 9 1 = 0x0#1 ∧ bits w 3 1 = 0x0#1 then .ok (.drnd (bits w 18 7) (bits w 10 7) (bits w 0 3)) else .error .reservedBits
    | _ => .error .unassignedMinor
  | 0x4f => .ok (.hadd2 (bits w 17 8) (bits w 9 8) (bits w 1 8) (bits w 0 1))
  | 0x50 => .ok (.hmul2 (bits w 17 8) (bits w 9 8) (bits w 1 8) (bits w 0 1))
  | 0x51 => .ok (.hfma2 (bits w 17 8) (bits w 9 8) (bits w 1 8) (bits w 0 1))
  | 0x52 => .ok (.hmin2 (bits w 17 8) (bits w 9 8) (bits w 1 8) (bits w 0 1))
  | 0x53 => .ok (.hmax2 (bits w 17 8) (bits w 9 8) (bits w 1 8) (bits w 0 1))
  | 0x54 =>
    if bits w 0 2 = 0x0#2 then .ok (.dadd (bits w 18 7) (bits w 17 1 ++ bits w 9 1) (bits w 10 7) (bits w 2 7))
    else if bits w 0 2 = 0x1#2 then .ok (.dsub (bits w 18 7) (bits w 17 1 ++ bits w 9 1) (bits w 10 7) (bits w 2 7))
    else if bits w 0 2 = 0x2#2 then .ok (.dmul (bits w 18 7) (bits w 17 1 ++ bits w 9 1) (bits w 10 7) (bits w 2 7))
    else if bits w 0 2 = 0x3#2 then .ok (.dfma (bits w 18 7) (bits w 17 1 ++ bits w 9 1) (bits w 10 7) (bits w 2 7))
    else .error .unassignedMinor
  | 0x55 =>
    if bits w 0 2 = 0x0#2 then .ok (.ddiv (bits w 18 7) (bits w 17 1 ++ bits w 9 1) (bits w 10 7) (bits w 2 7))
    else if bits w 17 1 = 0x0#1 ∧ bits w 9 1 = 0x0#1 ∧ bits w 0 2 = 0x1#2 then .ok (.dmin (bits w 18 7) (bits w 10 7) (bits w 2 7))
    else if bits w 17 1 = 0x0#1 ∧ bits w 9 1 = 0x0#1 ∧ bits w 0 2 = 0x2#2 then .ok (.dmax (bits w 18 7) (bits w 10 7) (bits w 2 7))
    else .error .unassignedMinor
  | 0x58 | 0x59 | 0x5a | 0x5b | 0x5c =>
    if bits w 0 1 = 0x0#1 then .ok (.cvt (bits w 25 3) (bits w 17 8) (bits w 9 8) (bits w 5 4) (bits w 1 4))
    else if bits w 0 1 = 0x1#1 then .ok (.cvtd (bits w 25 3) (bits w 17 8) (bits w 9 8) (bits w 5 4) (bits w 1 4))
    else .error .unassignedMinor
  | 0x5d => if bits w 9 1 = 0x0#1 ∧ bits w 0 2 = 0x0#2 then .ok (.drel (bits w 17 8) (bits w 10 7) (bits w 2 7)) else .error .reservedBits
  | 0x5e => if bits w 6 3 = 0x0#3 then .ok (.qdxb (bits w 17 8) (bits w 9 8) (bits w 5 1) (bits w 4 1) (bits w 3 1) (bits w 0 3)) else .error .reservedBits
  | 0x5f => .ok (.dqdxb (bits w 17 8) (bits w 9 8) (bits w 1 8) (bits w 0 1))
  | _ => .error .unassignedMajor

/-- Majors 0x60 to 0x77 (R271): memory, atomic and synchronisation words. -/
def decodeMemory (w : Word) : Except DecodeError Instr :=
  match opcode w with
  | 0x60 => if bits w 9 1 = 0x0#1 then .ok (.ld (bits w 17 8) (bits w 10 7) (bits w 6 3) (bits w 0 6)) else .error .reservedBits
  | 0x61 => if bits w 7 3 = 0x0#3 then .ok (.ldSigned (bits w 17 8) (bits w 10 7) (bits w 6 1) (bits w 0 6)) else .error .reservedBits
  | 0x62 => if bits w 9 1 = 0x0#1 then .ok (.st (bits w 17 8) (bits w 10 7) (bits w 6 3) (bits w 0 6)) else .error .reservedBits
  | 0x63 => .ok (.ldt (bits w 17 8) (bits w 9 8) (bits w 6 3) (bits w 0 6))
  | 0x64 => if bits w 7 2 = 0x0#2 then .ok (.ldtSigned (bits w 17 8) (bits w 9 8) (bits w 6 1) (bits w 0 6)) else .error .reservedBits
  | 0x65 => .ok (.stt (bits w 17 8) (bits w 9 8) (bits w 6 3) (bits w 0 6))
  | 0x66 => if bits w 0 2 = 0x0#2 then .ok (.xld (bits w 17 8) (bits w 9 8) (bits w 2 7)) else .error .reservedBits
  | 0x67 => if bits w 0 2 = 0x0#2 then .ok (.xst (bits w 17 8) (bits w 9 8) (bits w 2 7)) else .error .reservedBits
  | 0x68 =>
    match (bits w 4 5).toNat with
    | 0 => if bits w 17 8 = 0x0#8 ∧ bits w 9 1 = 0x0#1 ∧ bits w 0 4 = 0x0#4 then .ok (.cflush (bits w 10 7)) else .error .reservedBits
    | 1 => if bits w 17 8 = 0x0#8 ∧ bits w 9 1 = 0x0#1 ∧ bits w 0 4 = 0x0#4 then .ok (.cinv (bits w 10 7)) else .error .reservedBits
    | _ => .error .unassignedMinor
  | 0x70 => if bits w 1 2 = 0x0#2 then .ok (.atom (bits w 17 8) (bits w 9 8) (bits w 5 4) (bits w 3 2) (bits w 0 1)) else .error .reservedBits
  | 0x71 => if bits w 1 2 = 0x0#2 then .ok (.red (bits w 17 8) (bits w 9 8) (bits w 5 4) (bits w 3 2) (bits w 0 1)) else .error .reservedBits
  | 0x72 => if bits w 1 2 = 0x0#2 then .ok (.atomf (bits w 17 8) (bits w 9 8) (bits w 5 4) (bits w 3 2) (bits w 0 1)) else .error .reservedBits
  | 0x73 => if bits w 1 2 = 0x0#2 then .ok (.redf (bits w 17 8) (bits w 9 8) (bits w 5 4) (bits w 3 2) (bits w 0 1)) else .error .reservedBits
  | 0x74 => if bits w 17 8 = 0x0#8 ∧ bits w 9 8 = 0x0#8 ∧ bits w 4 5 = 0x0#5 ∧ bits w 2 2 = 0x0#2 then .ok (.fence (bits w 0 2)) else .error .reservedBits
  | 0x75 => if bits w 9 1 = 0x0#1 ∧ bits w 0 3 = 0x0#3 then .ok (.waitc (bits w 17 8) (bits w 10 7) (bits w 5 4) (bits w 3 2)) else .error .reservedBits
  | 0x76 =>
    match (bits w 4 5).toNat with
    | 0 => if bits w 17 8 = 0x0#8 ∧ bits w 0 4 = 0x0#4 then .ok (.bref (bits w 9 8)) else .error .reservedBits
    | 1 => if bits w 17 8 = 0x0#8 ∧ bits w 0 4 = 0x0#4 then .ok (.bfree (bits w 9 8)) else .error .reservedBits
    | 2 => if bits w 17 8 = 0x0#8 then .ok (.barr (bits w 9 8) (bits w 0 4)) else .error .reservedBits
    | 3 => if bits w 0 4 = 0x0#4 then .ok (.barrReg (bits w 17 8) (bits w 9 8)) else .error .reservedBits
    | 4 => if bits w 0 4 = 0x0#4 then .ok (.bexp (bits w 17 8) (bits w 9 8)) else .error .reservedBits
    | 5 => if bits w 17 8 = 0x0#8 ∧ bits w 3 1 = 0x0#1 then .ok (.bwait (bits w 9 8) (bits w 0 3)) else .error .reservedBits
    | 6 => if bits w 3 1 = 0x0#1 then .ok (.btest (bits w 17 8) (bits w 9 8) (bits w 0 3)) else .error .reservedBits
    | 7 => if bits w 17 8 = 0x0#8 ∧ bits w 9 8 = 0x0#8 ∧ bits w 0 4 = 0x0#4 then .ok (.tbar) else .error .reservedBits
    | 8 => if bits w 17 8 = 0x0#8 ∧ bits w 9 8 = 0x0#8 ∧ bits w 0 4 = 0x0#4 then .ok (.cbar) else .error .reservedBits
    | 9 => if bits w 3 1 = 0x0#1 then .ok (.bsnnew (bits w 17 8) (bits w 9 8) (bits w 0 3)) else .error .reservedBits
    | 10 => if bits w 17 1 = 0x0#1 ∧ bits w 3 1 = 0x0#1 then .ok (.bsnpost (bits w 18 7) (bits w 9 8) (bits w 0 3)) else .error .reservedBits
    | 11 => if bits w 3 1 = 0x0#1 then .ok (.bsnfill (bits w 17 8) (bits w 9 8) (bits w 0 3)) else .error .reservedBits
    | 12 => if bits w 17 8 = 0x0#8 ∧ bits w 3 1 = 0x0#1 then .ok (.bsnrel (bits w 9 8) (bits w 0 3)) else .error .reservedBits
    | 13 => if bits w 17 8 = 0x0#8 ∧ bits w 0 4 = 0x0#4 then .ok (.bsnfree (bits w 9 8)) else .error .reservedBits
    | _ => .error .unassignedMinor
  | 0x77 => if bits w 12 5 = 0x0#5 then .ok (.balloc (bits w 17 8) (bits w 9 3) (bits w 0 9)) else .error .reservedBits
  | _ => .error .unassignedMajor

/-- Majors 0x78 to 0x7F (R271, R274): engine, clutch, layer, visibility, system and hint words. -/
def decodeSystem (w : Word) : Except DecodeError Instr :=
  match opcode w with
  | 0x78 =>
    match (bits w 4 5).toNat with
    | 0 => if bits w 9 1 = 0x0#1 then .ok (.brdhLin (bits w 17 8) (bits w 10 7) (bits w 3 1) (bits w 0 3)) else .error .reservedBits
    | 1 => if bits w 9 1 = 0x0#1 then .ok (.brdhTen (bits w 17 8) (bits w 10 7) (bits w 3 1) (bits w 0 3)) else .error .reservedBits
    | 2 => if bits w 9 1 = 0x0#1 then .ok (.tcpy (bits w 17 8) (bits w 10 7) (bits w 3 1) (bits w 0 3)) else .error .reservedBits
    | 3 => if bits w 9 1 = 0x0#1 ∧ bits w 3 1 = 0x0#1 then .ok (.twb (bits w 17 8) (bits w 10 7) (bits w 0 3)) else .error .reservedBits
    | 4 => if bits w 17 8 = 0x0#8 ∧ bits w 3 1 = 0x0#1 then .ok (.gath (bits w 9 8) (bits w 0 3)) else .error .reservedBits
    | 5 => if bits w 17 8 = 0x0#8 ∧ bits w 3 1 = 0x0#1 then .ok (.scat (bits w 9 8) (bits w 0 3)) else .error .reservedBits
    | 6 => if bits w 9 1 = 0x0#1 ∧ bits w 3 1 = 0x0#1 then .ok (.moor (bits w 17 8) (bits w 10 7) (bits w 0 3)) else .error .reservedBits
    | 7 => if bits w 9 1 = 0x0#1 ∧ bits w 0 4 = 0x0#4 then .ok (.unmoor (bits w 17 8) (bits w 10 7)) else .error .reservedBits
    | _ => .error .unassignedMinor
  | 0x79 =>
    match (bits w 4 5).toNat with
    | 0 => if bits w 3 1 = 0x0#1 then .ok (.mma (bits w 17 8) (bits w 9 8) (bits w 0 3)) else .error .reservedBits
    | 1 => .ok (.acld (bits w 17 8) (bits w 9 8) (bits w 0 4))
    | 2 => .ok (.acst (bits w 17 8) (bits w 9 8) (bits w 0 4))
    | 3 => if bits w 17 8 = 0x0#8 ∧ bits w 0 4 = 0x0#4 then .ok (.acz (bits w 9 8)) else .error .reservedBits
    | 4 => if bits w 3 1 = 0x0#1 then .ok (.acq (bits w 17 8) (bits w 9 8) (bits w 0 3)) else .error .reservedBits
    | 5 => if bits w 0 4 = 0x0#4 then .ok (.acflg (bits w 17 8) (bits w 9 8)) else .error .reservedBits
    | _ => .error .unassignedMinor
  | 0x7a =>
    match (bits w 4 5).toNat with
    | 0 => if bits w 17 8 = 0x0#8 ∧ bits w 9 1 = 0x0#1 ∧ bits w 3 1 = 0x0#1 then .ok (.wopen (bits w 10 7) (bits w 0 3)) else .error .reservedBits
    | 1 => if bits w 17 2 = 0x0#2 ∧ bits w 9 1 = 0x0#1 ∧ bits w 3 1 = 0x0#1 then .ok (.wapp (bits w 19 6) (bits w 10 7) (bits w 0 3)) else .error .reservedBits
    | 2 => if bits w 17 2 = 0x0#2 ∧ bits w 9 1 = 0x0#1 ∧ bits w 3 1 = 0x0#1 then .ok (.wtake (bits w 19 6) (bits w 10 7) (bits w 0 3)) else .error .reservedBits
    | _ => .error .unassignedMinor
  | 0x7b => if bits w 17 8 = 0x0#8 ∧ bits w 9 8 = 0x0#8 ∧ bits w 4 5 = 0x0#5 ∧ bits w 0 4 = 0x0#4 then .ok (.tend) else .error .reservedBits
  | 0x7c =>
    match (bits w 4 5).toNat with
    | 0 => if bits w 9 1 = 0x0#1 ∧ bits w 3 1 = 0x0#1 then .ok (.clins (bits w 17 8) (bits w 10 7) (bits w 0 3)) else .error .reservedBits
    | 1 => if bits w 9 1 = 0x0#1 ∧ bits w 3 1 = 0x0#1 then .ok (.clrem (bits w 17 8) (bits w 10 7) (bits w 0 3)) else .error .reservedBits
    | 2 => if bits w 9 1 = 0x0#1 ∧ bits w 3 1 = 0x0#1 then .ok (.clnext (bits w 17 8) (bits w 10 7) (bits w 0 3)) else .error .reservedBits
    | 3 => if bits w 17 1 = 0x0#1 ∧ bits w 9 1 = 0x0#1 ∧ bits w 0 4 = 0x0#4 then .ok (.clcnt (bits w 18 7) (bits w 10 7)) else .error .reservedBits
    | 4 => if bits w 9 1 = 0x0#1 ∧ bits w 3 1 = 0x0#1 then .ok (.clgrow (bits w 17 8) (bits w 10 7) (bits w 0 3)) else .error .reservedBits
    | 5 => if bits w 17 2 = 0x0#2 ∧ bits w 9 1 = 0x0#1 ∧ bits w 0 4 = 0x0#4 then .ok (.clstat (bits w 19 6) (bits w 10 7)) else .error .reservedBits
    | 8 => if bits w 9 1 = 0x0#1 ∧ bits w 3 1 = 0x0#1 then .ok (.frag (bits w 17 8) (bits w 10 7) (bits w 0 3)) else .error .reservedBits
    | 9 => if bits w 9 1 = 0x0#1 ∧ bits w 0 4 = 0x0#4 then .ok (.frrd (bits w 17 8) (bits w 10 7)) else .error .reservedBits
    | 10 => if bits w 17 2 = 0x0#2 ∧ bits w 9 1 = 0x0#1 ∧ bits w 1 3 = 0x0#3 then .ok (.rslv (bits w 19 6) (bits w 10 7) (bits w 0 1)) else .error .reservedBits
    | 11 => if bits w 9 1 = 0x0#1 ∧ bits w 0 4 = 0x0#4 then .ok (.frclr (bits w 17 8) (bits w 10 7)) else .error .reservedBits
    | 12 => if bits w 9 1 = 0x0#1 ∧ bits w 3 1 = 0x0#1 then .ok (.pooladd (bits w 17 8) (bits w 10 7) (bits w 0 3)) else .error .reservedBits
    | 13 => if bits w 9 1 = 0x0#1 ∧ bits w 0 4 = 0x0#4 then .ok (.poolst (bits w 17 8) (bits w 10 7)) else .error .reservedBits
    | 16 => if bits w 9 1 = 0x0#1 ∧ bits w 0 4 = 0x0#4 then .ok (.isect (bits w 17 8) (bits w 10 7)) else .error .reservedBits
    | 17 => if bits w 9 8 = 0x0#8 ∧ bits w 0 4 = 0x0#4 then .ok (.isnext (bits w 17 8)) else .error .reservedBits
    | 18 => if bits w 9 8 = 0x0#8 ∧ bits w 0 4 = 0x0#4 then .ok (.tcov (bits w 17 8)) else .error .reservedBits
    | _ => .error .unassignedMinor
  | 0x7d =>
    match (bits w 4 5).toNat with
    | 0 => .ok (.mfs (bits w 17 8) (bits w 0 4 ++ bits w 9 8))
    | 1 => .ok (.mts (bits w 17 8) (bits w 0 4 ++ bits w 9 8))
    | 2 => if bits w 17 8 = 0x0#8 ∧ bits w 0 4 = 0x0#4 then .ok (.trap (bits w 9 8)) else .error .reservedBits
    | 3 => if bits w 17 8 = 0x0#8 ∧ bits w 9 8 = 0x0#8 ∧ bits w 0 4 = 0x0#4 then .ok (.eret) else .error .reservedBits
    | 4 => if bits w 17 8 = 0x0#8 ∧ bits w 9 8 = 0x0#8 ∧ bits w 0 4 = 0x0#4 then .ok (.brk) else .error .reservedBits
    | 8 => if bits w 17 2 = 0x0#2 ∧ bits w 9 8 = 0x0#8 ∧ bits w 3 1 = 0x0#1 then .ok (.evpop (bits w 19 6) (bits w 0 3)) else .error .reservedBits
    | 9 => if bits w 17 2 = 0x0#2 ∧ bits w 9 8 = 0x0#8 ∧ bits w 3 1 = 0x0#1 then .ok (.evpeek (bits w 19 6) (bits w 0 3)) else .error .reservedBits
    | 10 => if bits w 17 8 = 0x0#8 ∧ bits w 3 1 = 0x0#1 then .ok (.trel (bits w 9 8) (bits w 0 3)) else .error .reservedBits
    | 11 => if bits w 17 8 = 0x0#8 ∧ bits w 3 1 = 0x0#1 then .ok (.tkill (bits w 9 8) (bits w 0 3)) else .error .reservedBits
    | 12 => if bits w 17 8 = 0x0#8 ∧ bits w 9 8 = 0x0#8 ∧ bits w 0 4 = 0x0#4 then .ok (.idle) else .error .reservedBits
    | _ => .error .unassignedMinor
  | 0x7f =>
    match (bits w 21 4).toNat with
    | 0 => .ok (.hintImm20 (bits w 0 21))
    | 1 => if bits w 4 17 = 0x0#17 then .ok (.hintGuard (bits w 3 1) (bits w 0 3)) else .error .malformedHint
    | 2 => if bits w 8 13 = 0x0#13 then .ok (.hintC4 (bits w 0 8)) else .error .malformedHint
    | 3 => if bits w 2 19 = 0x0#19 then .ok (.hintCache (bits w 0 2)) else .error .malformedHint
    | 4 => if bits w 2 19 = 0x0#19 then .ok (.hintScope (bits w 0 2)) else .error .malformedHint
    | 5 => if bits w 4 17 = 0x0#17 then .ok (.hintDxbd (bits w 0 4)) else .error .malformedHint
    | _ => .error .malformedHint
  | _ => .error .unassignedMajor

/-- The row of the opcode table a word belongs to, by its fixed bits. -/
def decodeRow (w : Word) : Except DecodeError Instr :=
  if opcode w < 0x40 then decodeInteger w
  else if opcode w < 0x60 then decodeFloat w
  else if opcode w < 0x78 then decodeMemory w
  else decodeSystem w

/-- Decoding of an instruction word: its row, when every field holds an assigned value (R269 to R274). -/
def decode (w : Word) : Except DecodeError Instr :=
  match decodeRow w with
  | .ok i =>
    if i.wellFormed then .ok i
    else if opcode w = 0x7F then .error .malformedHint
    else .error .unassignedField
  | .error e => .error e

/-- The little-endian word of four bytes (R7). -/
def wordOfBytes (b0 b1 b2 b3 : Byte) : Word := b3 ++ b2 ++ b1 ++ b0

/-- The bytes of a word, lowest address first (R7). -/
def bytesOfWord (w : Word) : List Byte := [bits w 0 8, bits w 8 8, bits w 16 8, bits w 24 8]

/-- Decoding of the bytes at an address: the instruction and the bytes after it. -/
def decodeBytes : List Byte → Except DecodeError (Instr × List Byte)
  | b0 :: b1 :: b2 :: b3 :: rest =>
    match decode (wordOfBytes b0 b1 b2 b3) with
    | .ok i => .ok (i, rest)
    | .error e => .error e
  | _ => .error .shortWord

/-- What a lane runs at a word: the decoded instruction, or the row that stands for a refused word. -/
def instrOfWord (w : Word) : Instr :=
  match decode w with
  | .ok i => i
  | .error .malformedHint => .malformedHint w
  | .error _ => .wordLevelIllegal w

/-- The word of an instruction (R268, R271). A device event has no word. -/
def encode : Instr → Word
  | .iadd d a b => 0x1#7 ++ d ++ a ++ b ++ 0x0#1
  | .iaddi d a i => 0x2#7 ++ d ++ a ++ i
  | .isub d a b => 0x3#7 ++ d ++ a ++ b ++ 0x0#1
  | .imul d a b => 0x4#7 ++ d ++ a ++ b ++ 0x0#1
  | .imulh d a b m => 0x5#7 ++ d ++ a ++ b ++ m
  | .imad d a b => 0x6#7 ++ d ++ a ++ b ++ 0x0#1
  | .imin d a b m => 0x7#7 ++ d ++ a ++ b ++ m
  | .imax d a b m => 0x8#7 ++ d ++ a ++ b ++ m
  | .iand d a b => 0x9#7 ++ d ++ a ++ b ++ 0x0#1
  | .iandi d a i => 0xa#7 ++ d ++ a ++ i
  | .ior d a b => 0xb#7 ++ d ++ a ++ b ++ 0x0#1
  | .iori d a i => 0xc#7 ++ d ++ a ++ i
  | .ixor d a b => 0xd#7 ++ d ++ a ++ b ++ 0x0#1
  | .ixori d a i => 0xe#7 ++ d ++ a ++ i
  | .ishl d a b => 0xf#7 ++ d ++ a ++ b ++ 0x0#1
  | .ishli d a i => 0x10#7 ++ d ++ a ++ i
  | .ishr d a b => 0x11#7 ++ d ++ a ++ b ++ 0x0#1
  | .ishri d a i => 0x12#7 ++ d ++ a ++ i
  | .isar d a b => 0x13#7 ++ d ++ a ++ b ++ 0x0#1
  | .isari d a i => 0x14#7 ++ d ++ a ++ i
  | .irol d a b => 0x15#7 ++ d ++ a ++ b ++ 0x0#1
  | .inot d a => 0x16#7 ++ d ++ a ++ 0x0#5 ++ 0x0#4
  | .iabs d a => 0x16#7 ++ d ++ a ++ 0x1#5 ++ 0x0#4
  | .ipopc d a => 0x16#7 ++ d ++ a ++ 0x2#5 ++ 0x0#4
  | .iclz d a => 0x16#7 ++ d ++ a ++ 0x3#5 ++ 0x0#4
  | .ibrev d a => 0x16#7 ++ d ++ a ++ 0x4#5 ++ 0x0#4
  | .ibfx d a b m => 0x17#7 ++ d ++ a ++ b ++ m
  | .ibfi d a b => 0x18#7 ++ d ++ a ++ b ++ 0x0#1
  | .iadd64 d a b => 0x19#7 ++ d ++ 0x0#1 ++ a ++ 0x0#1 ++ b ++ 0x0#2
  | .isub64 d a b => 0x1a#7 ++ d ++ 0x0#1 ++ a ++ 0x0#1 ++ b ++ 0x0#2
  | .imul64 d a b => 0x1b#7 ++ d ++ 0x0#1 ++ a ++ 0x0#1 ++ b ++ 0x0#2
  | .lea d s a b m => 0x1c#7 ++ d ++ s.extractLsb' 1 1 ++ a ++ s.extractLsb' 0 1 ++ b ++ m
  | .mov d a => 0x1d#7 ++ d ++ a ++ 0x0#9
  | .movi d i => 0x1e#7 ++ d ++ 0x0#8 ++ i
  | .movk d k => 0x1f#7 ++ d ++ 0x0#4 ++ k ++ 0x0#9
  | .isel p d a b m => 0x4#4 ++ p ++ d ++ a ++ b ++ m
  | .icmp t c p a b => 0x28#7 ++ t ++ c ++ p ++ a ++ b ++ 0x0#1
  | .icmpi t c p a i => 0x29#7 ++ t ++ c ++ p ++ a ++ i
  | .pand p x q y r => 0x2a#7 ++ 0x0#5 ++ p ++ 0x0#4 ++ x ++ q ++ 0x0#4 ++ y ++ r ++ 0x0#1
  | .por p x q y r => 0x2a#7 ++ 0x1#5 ++ p ++ 0x0#4 ++ x ++ q ++ 0x0#4 ++ y ++ r ++ 0x0#1
  | .pxor p x q y r => 0x2a#7 ++ 0x2#5 ++ p ++ 0x0#4 ++ x ++ q ++ 0x0#4 ++ y ++ r ++ 0x0#1
  | .pnot p x q => 0x2a#7 ++ 0x3#5 ++ p ++ 0x0#4 ++ x ++ q ++ 0x0#9
  | .pget d => 0x2b#7 ++ d ++ 0x0#17
  | .pset a => 0x2b#7 ++ 0x0#8 ++ a ++ 0x1#9
  | .brp p s o => 0x30#7 ++ p ++ s ++ o
  | .br o => 0x30#7 ++ 0x0#4 ++ o
  | .call o => 0x31#7 ++ 0x0#4 ++ o
  | .brx a => 0x32#7 ++ 0x0#8 ++ a ++ 0x0#5 ++ 0x0#4
  | .callx p a => 0x33#7 ++ 0x0#5 ++ p ++ a ++ 0x0#5 ++ 0x0#4
  | .nop => 0x34#7 ++ 0x0#8 ++ 0x0#8 ++ 0x0#5 ++ 0x0#4
  | .ret => 0x34#7 ++ 0x0#8 ++ 0x0#8 ++ 0x1#5 ++ 0x0#4
  | .exit => 0x34#7 ++ 0x0#8 ++ 0x0#8 ++ 0x2#5 ++ 0x0#4
  | .yield => 0x34#7 ++ 0x0#8 ++ 0x0#8 ++ 0x3#5 ++ 0x0#4
  | .jset j => 0x35#7 ++ 0x0#8 ++ 0x0#8 ++ 0x0#5 ++ j
  | .jclr j => 0x35#7 ++ 0x0#8 ++ 0x0#8 ++ 0x1#5 ++ j
  | .jwait j => 0x35#7 ++ 0x0#8 ++ 0x0#8 ++ 0x2#5 ++ j
  | .jdrop j => 0x35#7 ++ 0x0#8 ++ 0x0#8 ++ 0x3#5 ++ j
  | .jmask d j => 0x35#7 ++ d ++ 0x0#8 ++ 0x4#5 ++ j
  | .vshfl d a b m => 0x36#7 ++ d ++ a ++ b ++ m
  | .vbal d x p b => 0x37#7 ++ d ++ 0x0#4 ++ x ++ p ++ b ++ 0x0#1
  | .vvote q x p b m => 0x38#7 ++ 0x0#5 ++ q ++ 0x0#4 ++ x ++ p ++ b ++ m
  | .vmatch d a b m => 0x39#7 ++ d ++ a ++ b ++ m
  | .elect p b => 0x3a#7 ++ 0x0#5 ++ p ++ 0x0#8 ++ b ++ 0x0#1
  | .vred d op t b => 0x3b#7 ++ d ++ op ++ t ++ b ++ 0x0#1
  | .vscan d op t b => 0x3b#7 ++ d ++ op ++ t ++ b ++ 0x1#1
  | .fadd r d a b => 0x10#5 ++ r ++ d ++ a ++ b ++ 0x0#1
  | .fsub r d a b => 0x10#5 ++ r ++ d ++ a ++ b ++ 0x1#1
  | .fdiv r d a b => 0x11#5 ++ r ++ d ++ a ++ b ++ 0x0#1
  | .ffma r d a b => 0x12#5 ++ r ++ d ++ a ++ b ++ 0x0#1
  | .fmul r d a b => 0x12#5 ++ r ++ d ++ a ++ b ++ 0x1#1
  | .fmin d a b => 0x4c#7 ++ d ++ a ++ b ++ 0x0#1
  | .fmax d a b => 0x4c#7 ++ d ++ a ++ b ++ 0x1#1
  | .fcmp c p a b => 0x4d#7 ++ 0x0#2 ++ c ++ p ++ a ++ b ++ 0x0#1
  | .dcmp c p a b => 0x4d#7 ++ 0x1#2 ++ c ++ p ++ a ++ 0x0#1 ++ b ++ 0x0#2
  | .hcmp2 t c p a b => 0x4d#7 ++ 0x1#1 ++ t ++ c ++ p ++ 0x0#1 ++ a ++ b ++ 0x0#1
  | .frnd d a r => 0x4e#7 ++ d ++ a ++ 0x0#5 ++ 0x0#1 ++ r
  | .fclass d a => 0x4e#7 ++ d ++ a ++ 0x1#5 ++ 0x0#4
  | .frcp d a => 0x4e#7 ++ d ++ a ++ 0x2#5 ++ 0x0#4
  | .fsqrt d a r => 0x4e#7 ++ d ++ a ++ 0x3#5 ++ 0x0#1 ++ r
  | .frsq d a => 0x4e#7 ++ d ++ a ++ 0x4#5 ++ 0x0#4
  | .fexp2 d a => 0x4e#7 ++ d ++ a ++ 0x5#5 ++ 0x0#4
  | .flog2 d a => 0x4e#7 ++ d ++ a ++ 0x6#5 ++ 0x0#4
  | .fmovm d a t o => 0x4e#7 ++ d ++ a ++ 0x7#5 ++ t ++ o
  | .dsqrt d a r => 0x4e#7 ++ d ++ 0x0#1 ++ a ++ 0x0#1 ++ 0x8#5 ++ 0x0#1 ++ r
  | .drnd d a r => 0x4e#7 ++ d ++ 0x0#1 ++ a ++ 0x0#1 ++ 0x9#5 ++ 0x0#1 ++ r
  | .hadd2 d a b m => 0x4f#7 ++ d ++ a ++ b ++ m
  | .hmul2 d a b m => 0x50#7 ++ d ++ a ++ b ++ m
  | .hfma2 d a b m => 0x51#7 ++ d ++ a ++ b ++ m
  | .hmin2 d a b m => 0x52#7 ++ d ++ a ++ b ++ m
  | .hmax2 d a b m => 0x53#7 ++ d ++ a ++ b ++ m
  | .dadd d r a b => 0x54#7 ++ d ++ r.extractLsb' 1 1 ++ a ++ r.extractLsb' 0 1 ++ b ++ 0x0#2
  | .dsub d r a b => 0x54#7 ++ d ++ r.extractLsb' 1 1 ++ a ++ r.extractLsb' 0 1 ++ b ++ 0x1#2
  | .dmul d r a b => 0x54#7 ++ d ++ r.extractLsb' 1 1 ++ a ++ r.extractLsb' 0 1 ++ b ++ 0x2#2
  | .dfma d r a b => 0x54#7 ++ d ++ r.extractLsb' 1 1 ++ a ++ r.extractLsb' 0 1 ++ b ++ 0x3#2
  | .ddiv d r a b => 0x55#7 ++ d ++ r.extractLsb' 1 1 ++ a ++ r.extractLsb' 0 1 ++ b ++ 0x0#2
  | .dmin d a b => 0x55#7 ++ d ++ 0x0#1 ++ a ++ 0x0#1 ++ b ++ 0x1#2
  | .dmax d a b => 0x55#7 ++ d ++ 0x0#1 ++ a ++ 0x0#1 ++ b ++ 0x2#2
  | .cvt r d a t s => 0xb#4 ++ r ++ d ++ a ++ t ++ s ++ 0x0#1
  | .cvtd r d a t s => 0xb#4 ++ r ++ d ++ a ++ t ++ s ++ 0x1#1
  | .drel d a b => 0x5d#7 ++ d ++ a ++ 0x0#1 ++ b ++ 0x0#2
  | .qdxb d a x f h p => 0x5e#7 ++ d ++ a ++ 0x0#3 ++ x ++ f ++ h ++ p
  | .dqdxb d a b m => 0x5f#7 ++ d ++ a ++ b ++ m
  | .ld d a z o => 0x60#7 ++ d ++ a ++ 0x0#1 ++ z ++ o
  | .ldSigned d a z o => 0x61#7 ++ d ++ a ++ 0x0#3 ++ z ++ o
  | .st d a z o => 0x62#7 ++ d ++ a ++ 0x0#1 ++ z ++ o
  | .ldt d a z o => 0x63#7 ++ d ++ a ++ z ++ o
  | .ldtSigned d a z o => 0x64#7 ++ d ++ a ++ 0x0#2 ++ z ++ o
  | .stt d a z o => 0x65#7 ++ d ++ a ++ z ++ o
  | .xld d a b => 0x66#7 ++ d ++ a ++ b ++ 0x0#2
  | .xst d a b => 0x67#7 ++ d ++ a ++ b ++ 0x0#2
  | .cflush a => 0x68#7 ++ 0x0#8 ++ a ++ 0x0#1 ++ 0x0#5 ++ 0x0#4
  | .cinv a => 0x68#7 ++ 0x0#8 ++ a ++ 0x0#1 ++ 0x1#5 ++ 0x0#4
  | .atom d a o z m => 0x70#7 ++ d ++ a ++ o ++ z ++ 0x0#2 ++ m
  | .red d a o z m => 0x71#7 ++ d ++ a ++ o ++ z ++ 0x0#2 ++ m
  | .atomf d a o z m => 0x72#7 ++ d ++ a ++ o ++ z ++ 0x0#2 ++ m
  | .redf d a o z m => 0x73#7 ++ d ++ a ++ o ++ z ++ 0x0#2 ++ m
  | .fence s => 0x74#7 ++ 0x0#8 ++ 0x0#8 ++ 0x0#5 ++ 0x0#2 ++ s
  | .waitc d a c z => 0x75#7 ++ d ++ a ++ 0x0#1 ++ c ++ z ++ 0x0#3
  | .balloc d p i => 0x77#7 ++ d ++ 0x0#5 ++ p ++ i
  | .bref a => 0x76#7 ++ 0x0#8 ++ a ++ 0x0#5 ++ 0x0#4
  | .bfree a => 0x76#7 ++ 0x0#8 ++ a ++ 0x1#5 ++ 0x0#4
  | .barr a n => 0x76#7 ++ 0x0#8 ++ a ++ 0x2#5 ++ n
  | .barrReg d a => 0x76#7 ++ d ++ a ++ 0x3#5 ++ 0x0#4
  | .bexp d a => 0x76#7 ++ d ++ a ++ 0x4#5 ++ 0x0#4
  | .bwait a p => 0x76#7 ++ 0x0#8 ++ a ++ 0x5#5 ++ 0x0#1 ++ p
  | .btest d a p => 0x76#7 ++ d ++ a ++ 0x6#5 ++ 0x0#1 ++ p
  | .tbar => 0x76#7 ++ 0x0#8 ++ 0x0#8 ++ 0x7#5 ++ 0x0#4
  | .cbar => 0x76#7 ++ 0x0#8 ++ 0x0#8 ++ 0x8#5 ++ 0x0#4
  | .bsnnew d a p => 0x76#7 ++ d ++ a ++ 0x9#5 ++ 0x0#1 ++ p
  | .bsnpost d a p => 0x76#7 ++ d ++ 0x0#1 ++ a ++ 0xa#5 ++ 0x0#1 ++ p
  | .bsnfill d a p => 0x76#7 ++ d ++ a ++ 0xb#5 ++ 0x0#1 ++ p
  | .bsnrel a p => 0x76#7 ++ 0x0#8 ++ a ++ 0xc#5 ++ 0x0#1 ++ p
  | .bsnfree a => 0x76#7 ++ 0x0#8 ++ a ++ 0xd#5 ++ 0x0#4
  | .brdhLin d a e p => 0x78#7 ++ d ++ a ++ 0x0#1 ++ 0x0#5 ++ e ++ p
  | .brdhTen d a e p => 0x78#7 ++ d ++ a ++ 0x0#1 ++ 0x1#5 ++ e ++ p
  | .tcpy d a b p => 0x78#7 ++ d ++ a ++ 0x0#1 ++ 0x2#5 ++ b ++ p
  | .twb d a p => 0x78#7 ++ d ++ a ++ 0x0#1 ++ 0x3#5 ++ 0x0#1 ++ p
  | .gath a p => 0x78#7 ++ 0x0#8 ++ a ++ 0x4#5 ++ 0x0#1 ++ p
  | .scat a p => 0x78#7 ++ 0x0#8 ++ a ++ 0x5#5 ++ 0x0#1 ++ p
  | .moor d a p => 0x78#7 ++ d ++ a ++ 0x0#1 ++ 0x6#5 ++ 0x0#1 ++ p
  | .unmoor d a => 0x78#7 ++ d ++ a ++ 0x0#1 ++ 0x7#5 ++ 0x0#4
  | .mma d a p => 0x79#7 ++ d ++ a ++ 0x0#5 ++ 0x0#1 ++ p
  | .acld d a c => 0x79#7 ++ d ++ a ++ 0x1#5 ++ c
  | .acst d a c => 0x79#7 ++ d ++ a ++ 0x2#5 ++ c
  | .acz a => 0x79#7 ++ 0x0#8 ++ a ++ 0x3#5 ++ 0x0#4
  | .acq d a p => 0x79#7 ++ d ++ a ++ 0x4#5 ++ 0x0#1 ++ p
  | .acflg d a => 0x79#7 ++ d ++ a ++ 0x5#5 ++ 0x0#4
  | .wopen a p => 0x7a#7 ++ 0x0#8 ++ a ++ 0x0#1 ++ 0x0#5 ++ 0x0#1 ++ p
  | .wapp d a p => 0x7a#7 ++ d ++ 0x0#2 ++ a ++ 0x0#1 ++ 0x1#5 ++ 0x0#1 ++ p
  | .wtake d a p => 0x7a#7 ++ d ++ 0x0#2 ++ a ++ 0x0#1 ++ 0x2#5 ++ 0x0#1 ++ p
  | .tend => 0x7b#7 ++ 0x0#8 ++ 0x0#8 ++ 0x0#5 ++ 0x0#4
  | .clins d a p => 0x7c#7 ++ d ++ a ++ 0x0#1 ++ 0x0#5 ++ 0x0#1 ++ p
  | .clrem d a p => 0x7c#7 ++ d ++ a ++ 0x0#1 ++ 0x1#5 ++ 0x0#1 ++ p
  | .clnext d a p => 0x7c#7 ++ d ++ a ++ 0x0#1 ++ 0x2#5 ++ 0x0#1 ++ p
  | .clcnt d a => 0x7c#7 ++ d ++ 0x0#1 ++ a ++ 0x0#1 ++ 0x3#5 ++ 0x0#4
  | .clgrow d a p => 0x7c#7 ++ d ++ a ++ 0x0#1 ++ 0x4#5 ++ 0x0#1 ++ p
  | .clstat d a => 0x7c#7 ++ d ++ 0x0#2 ++ a ++ 0x0#1 ++ 0x5#5 ++ 0x0#4
  | .frag d a p => 0x7c#7 ++ d ++ a ++ 0x0#1 ++ 0x8#5 ++ 0x0#1 ++ p
  | .frrd d a => 0x7c#7 ++ d ++ a ++ 0x0#1 ++ 0x9#5 ++ 0x0#4
  | .rslv d a f => 0x7c#7 ++ d ++ 0x0#2 ++ a ++ 0x0#1 ++ 0xa#5 ++ 0x0#3 ++ f
  | .frclr d a => 0x7c#7 ++ d ++ a ++ 0x0#1 ++ 0xb#5 ++ 0x0#4
  | .pooladd d a p => 0x7c#7 ++ d ++ a ++ 0x0#1 ++ 0xc#5 ++ 0x0#1 ++ p
  | .poolst d a => 0x7c#7 ++ d ++ a ++ 0x0#1 ++ 0xd#5 ++ 0x0#4
  | .isect d a => 0x7c#7 ++ d ++ a ++ 0x0#1 ++ 0x10#5 ++ 0x0#4
  | .isnext d => 0x7c#7 ++ d ++ 0x0#8 ++ 0x11#5 ++ 0x0#4
  | .tcov d => 0x7c#7 ++ d ++ 0x0#8 ++ 0x12#5 ++ 0x0#4
  | .mfs d n => 0x7d#7 ++ d ++ n.extractLsb' 0 8 ++ 0x0#5 ++ n.extractLsb' 8 4
  | .mts d n => 0x7d#7 ++ d ++ n.extractLsb' 0 8 ++ 0x1#5 ++ n.extractLsb' 8 4
  | .trap n => 0x7d#7 ++ 0x0#8 ++ n ++ 0x2#5 ++ 0x0#4
  | .eret => 0x7d#7 ++ 0x0#8 ++ 0x0#8 ++ 0x3#5 ++ 0x0#4
  | .brk => 0x7d#7 ++ 0x0#8 ++ 0x0#8 ++ 0x4#5 ++ 0x0#4
  | .evpop d p => 0x7d#7 ++ d ++ 0x0#2 ++ 0x0#8 ++ 0x8#5 ++ 0x0#1 ++ p
  | .evpeek d p => 0x7d#7 ++ d ++ 0x0#2 ++ 0x0#8 ++ 0x9#5 ++ 0x0#1 ++ p
  | .trel a p => 0x7d#7 ++ 0x0#8 ++ a ++ 0xa#5 ++ 0x0#1 ++ p
  | .tkill a p => 0x7d#7 ++ 0x0#8 ++ a ++ 0xb#5 ++ 0x0#1 ++ p
  | .idle => 0x7d#7 ++ 0x0#8 ++ 0x0#8 ++ 0xc#5 ++ 0x0#4
  | .hintImm20 i => 0x7f#7 ++ 0x0#4 ++ i
  | .hintGuard x p => 0x7f#7 ++ 0x1#4 ++ 0x0#17 ++ x ++ p
  | .hintC4 c => 0x7f#7 ++ 0x2#4 ++ 0x0#13 ++ c
  | .hintCache k => 0x7f#7 ++ 0x3#4 ++ 0x0#19 ++ k
  | .hintScope s => 0x7f#7 ++ 0x4#4 ++ 0x0#19 ++ s
  | .hintDxbd d => 0x7f#7 ++ 0x5#4 ++ 0x0#17 ++ d
  | .wordLevelIllegal w => w
  | .malformedHint w => w
  | _ => 0#32

/-- The instruction the decoder reads from a table word of `nbits` bits. -/
def decodeTableWord (_nbits w : Nat) : Option Instr :=
  match decodeBytes (bytesOfWord (BitVec.ofNat 32 w)) with
  | .ok (i, _) => some i
  | .error _ => none

end Sys2Proof
end

