-- ==== Sys2Proof/Config.lean ====
section
/-! DEFINITION. What is fixed for one device, and the free values: constants without a body, so that nothing in Lean
can evaluate one or prove a value of it. Each is named in a log entry of notes/assumptions. -/

namespace Sys2Proof.Config

/-- The level of the BOOTSEL pin, true for the host (R39). -/
opaque bootselHost : Bool
/-- The silicon revision that IDENT_REV shows (R42). -/
opaque identRev : Word
/-- The output of the PUF of a die, 4 for the IOD (R35). -/
opaque pufOutput : Nat → List Byte
/-- The bytes of DIK_PUB (R35, R42). -/
opaque dikPub : Nat → Byte
/-- The measurement of the ROM, MEAS[0] (R35, R42). -/
opaque measRom : Nat → Byte
/-- The digest of a vendor root key in a slot of the ROM, 0 to 3 (R38). -/
opaque romKeyDigest : Nat → List Byte
/-- Prirrista's vendor ID in the PCI-SIG registry (R44). -/
opaque vendorId : Nat
/-- The bytes of an SPDM answer with its MCTP framing: the number of the request among the ten of R44, the number of the
free value, what R44 fixes of the answer, the request. -/
opaque spdmAnswer : Nat → Nat → List SpdmFact → List Byte → List Byte
/-- Whether a FINISH verifies in its session, for the free value of this number (R44). -/
opaque spdmAuthentic : Nat → List Byte → Bool
/-- The public key whose private part the requester has proved in the session, for the free value of this number; no
bytes where it has proved none (R44). -/
opaque requesterKey : Nat → List Byte → List Byte
/-- The sectors, 1 to 4 after clamping, that a line of these bytes takes in the memory-side cache (R63). -/
opaque mscSectors : List Byte → Nat
/-- The set of the memory-side cache a line falls in (R62). -/
opaque mscSet : Nat → Nat
/-- The line at a place, 0 to 7, of a row of a bank of a stack (R65). -/
opaque rowLine : Nat → Nat → Nat → Nat → Nat
/-- The bytes of the group state a save writes: the number of the free value, the place of the byte (R155). -/
opaque savedGroup : Nat → Nat → Byte
/-- The bytes of half a node that lies at no readable address, for the free value of this number (R228, R363). -/
opaque unreadNode : Nat → Nat → Byte
/-- The bytes that a flit of these bytes takes after network compression (R70). -/
opaque netCompressed : List Byte → Nat
/-- The line a full L1 gives up, as an index into the lines it holds, for the free value of this number (R72). -/
opaque l1Victim : Nat → Nat
/-- A free number, for a choice or an order that the spec leaves open. -/
opaque freeMove : Nat → Nat
/-- The stores that agents of the host side make to host memory in the CCLK of this draw: device address and bytes
(R58). -/
opaque hostStores : Nat → List (Nat × List Byte)
/-- The events that reach the device from outside in the CCLK of this draw. -/
opaque inputs : Nat → List Instr
/-- A free Boolean: whether an event whose time the spec leaves open waits for a later CCLK. -/
opaque freeBool : Nat → Bool

end Sys2Proof.Config
end

