-- ==== Sys2Proof/Machine/Map.lean ====
section
/-! DEFINITION. Sparse tables: a list of keys and values in one canonical form, keys strictly rising. `put` and `del`
keep an entry for every key named; `set` also leaves out an entry that equals the value an unlisted key reads as, so
that equal tables are equal lists. -/

namespace Sys2Proof.Machine

/-- A sparse table. -/
abbrev NMap (α : Type) := List (Nat × α)

namespace NMap

variable {α : Type}

/-- The entry of a key. -/
def find? : NMap α → Nat → Option α
  | [], _ => none
  | (k, v) :: m, q => if q = k then some v else find? m q

/-- The value of a key, `d` where no entry stands. -/
def get (d : α) (m : NMap α) (q : Nat) : α := (m.find? q).getD d

/-- The table with an entry for the key. -/
def put : NMap α → Nat → α → NMap α
  | [], q, x => [(q, x)]
  | (k, v) :: m, q, x =>
    if q < k then (q, x) :: (k, v) :: m
    else if q = k then (q, x) :: m
    else (k, v) :: put m q x

/-- The table without an entry for the key. -/
def del (m : NMap α) (q : Nat) : NMap α := m.filter fun e => decide (e.1 ≠ q)

/-- The table with the key holding `x`, in the form that leaves out the value `d` of an unlisted key. -/
def set [DecidableEq α] (d : α) (m : NMap α) (q : Nat) (x : α) : NMap α :=
  if x = d then del m q else put m q x

/-- The keys of a table rise strictly, all of them at or above `lo`. -/
def risesFrom : Nat → NMap α → Bool
  | _, [] => true
  | lo, (k, _) :: m => decide (lo ≤ k) && risesFrom (k + 1) m

/-- The canonical form: keys strictly rising, no entry equal to the value of an unlisted key. -/
def wf [DecidableEq α] (d : α) (m : NMap α) : Bool :=
  risesFrom 0 m && m.all fun e => decide (e.2 ≠ d)

end NMap

end Sys2Proof.Machine
end

