-- ==== Sys2Proof/Machine/State.lean ====
section
/-! DEFINITION. The state of the machine, plain data: everything the spec gives the device, and the state after
power-on. A table that lists nothing holds the value its field names for an unlisted key. -/

namespace Sys2Proof.Machine

/-! ### Traps and faults of the model -/

/-- Trap causes (R368). -/
inductive Cause where
  | illegal | access | align | pageFault | memErr | peerRef | peerLink | hostLink | dispatch | collMask | tadWait
  | barHandle | barCount | acsTile | engArg | record | wlDesc | clDesc | ltDesc | layerXY | layerPool | swTrap | brk
  deriving DecidableEq, Repr

/-- The code of a cause, as TRAPCAUSE holds it (R368). -/
def Cause.code : Cause → Word
  | .illegal => 0x01#32 | .access => 0x02#32 | .align => 0x03#32 | .pageFault => 0x04#32 | .memErr => 0x05#32
  | .peerRef => 0x06#32 | .peerLink => 0x07#32 | .hostLink => 0x08#32 | .dispatch => 0x09#32 | .collMask => 0x0A#32
  | .tadWait => 0x0B#32 | .barHandle => 0x0C#32 | .barCount => 0x0D#32 | .acsTile => 0x0E#32 | .engArg => 0x0F#32
  | .record => 0x10#32 | .wlDesc => 0x11#32 | .clDesc => 0x12#32 | .ltDesc => 0x13#32 | .layerXY => 0x14#32
  | .layerPool => 0x15#32 | .swTrap => 0x16#32 | .brk => 0x17#32

/-- Why the model stops with a fault. -/
inductive Fault where
  /-- Raised by an instruction word executed while no hardware thread is checked out; no step reaches it, since a step
  checks a thread out before it executes a word. Safe. -/
  | noAgent
  deriving DecidableEq, Repr

/-- Why the model gives an instruction no meaning. -/
inductive Refusal where
  /-- Raised by an arm of `exec` whose instruction has no meaning in this model yet. Safe. -/
  | notModelled (mnemonic : String)
  deriving DecidableEq, Repr

/-! ### Hardware threads -/

/-- The pending set of hint words of a lane (R275). -/
structure Hints where
  imm20 : Option (BitVec 21) := none
  guard : Option (BitVec 4) := none
  c4 : Option (BitVec 8) := none
  cache : Option (BitVec 2) := none
  scope : Option (BitVec 2) := none
  dxbd : Option (BitVec 4) := none
  /-- A kind appeared twice in the run. -/
  twice : Bool := false
  /-- The run holds a malformed hint word (R274). -/
  malformed : Bool := false
  /-- Address of the first hint word of the run (R175). -/
  first : Option DWord := none
  deriving DecidableEq, Repr

/-- A trap whose taking waits: for the read of dispatch entry 0 (R370), or until a stopped lane runs again (R172). -/
structure PendingTrap where
  cause : Cause
  pc : DWord
  addr : DWord
  deriving DecidableEq, Repr

/-! ### Pieces of an access -/

/-- A piece of an access: its virtual and physical address, its length, its region class and the CACHE bit. It lies in
one 32-byte sector of one page (R247). -/
structure Piece where
  va : Nat
  pa : Nat
  len : Nat
  cls : Nat
  cache : Bool
  deriving DecidableEq, Repr

/-- Who performs an access: its thread's core, address space, launch, team slot and lane; the cluster whose L1s are fused,
by origin core, CLUS_X, CLUS_Y (R186); and its cluster, by origin core and the grid place of its first team (R141). -/
structure Who where
  core : Nat
  asid : Nat
  launch : Nat
  slot : Nat
  lane : Nat
  fused : Option (Nat × Nat × Nat) := none
  cluster : Nat × Nat × Nat × Nat := (core, 0, 0, 0)
  deriving DecidableEq, Repr

/-- An access that its lane has begun and performs piece by piece (R247): the pieces left, each with the bytes a store
writes to it, and what the pieces performed have returned, by virtual address. -/
structure Parts where
  left : List (Piece × List Byte)
  got : List (Nat × List Byte) := []
  deriving DecidableEq, Repr

/-- A replayable page fault an agent is parked on (R135). -/
structure PageWait where
  asid : Nat
  /-- Virtual address divided by 4,096. -/
  page : Nat
  /-- The address within the page at which the access first touches it. -/
  addr : Nat
  write : Bool
  fetch : Bool
  deriving DecidableEq, Repr

/-- The condition of a WAITC (R327). -/
structure CondWait where
  pa : Nat
  size : Nat
  /-- The region class of its page, 1 or 2 (R71). -/
  cls : Nat := 2
  cond : Nat
  value : DWord
  dest : Nat
  /-- The lane holds a monitor of the home slice (R194); without one it re-reads (R195). -/
  monitor : Bool
  /-- Its address space and the page of its word, and the hints of its word, for a lane that performs it again after an
  invalidation (R134). -/
  asid : Nat := 0
  page : Nat := 0
  hints : Hints := {}
  deriving DecidableEq, Repr

/-- A WTAKE a lane is parked in (R160). -/
structure TakeWait where
  /-- Physical addresses of the list descriptor and of its domain descriptor. -/
  list : Nat
  domain : Nat
  dest : Nat
  pred : BitVec 3
  /-- The first address of the list's items, and their number (R157). -/
  base : Nat
  cap : Nat
  /-- Its address space, the pages of the two descriptors and the hints of its word, for a lane that performs it again
  (R134). -/
  asid : Nat := 0
  pages : List Nat := []
  hints : Hints := {}
  deriving DecidableEq, Repr

/-- What a parked lane waits for (R172). -/
inductive Wait where
  | rejoin (j : Nat)
  /-- A collective: its instruction, its address, the address a trap saves, its mask and the values the lane issued
  (R170, R175). -/
  | collective (i : Instr) (pc at_ : DWord) (mask : BitVec 8) (x : DWord) (sel : Word)
  | teamBarrier
  | clusterBarrier
  /-- BWAIT: the owning core, the entry, the phase selector, the handle register and the predicate (R191). -/
  | barrier (core entry : Nat) (psel : BitVec 3) (reg : Nat) (pred : BitVec 3)
  /-- BSNFILL: the core, the basin, the destination and the predicate (R193). -/
  | basin (core entry dest : Nat) (pred : BitVec 3)
  | cond (w : CondWait)
  | take (w : TakeWait)
  | page (w : PageWait)
  /-- A trap that waits for the read of dispatch entry 0 (R370). -/
  | entry0 (w : PageWait) (t : PendingTrap)
  /-- At an instruction that has issued and has not completed, which R172 does not call parked (R153, R277): it goes on once
  the completion of an aperture access returns (R55), an earlier lane of its bundle has performed it (R354), or an earlier
  operation on its tile has completed (R348). -/
  | peer
  /-- Between the parts of its instruction, whose word it keeps: other agents act before it goes on (R198, R228, R247,
  R343). -/
  | mid (word : Word)
  /-- IDLE of a keeper context (R373). -/
  | idle
  deriving DecidableEq, Repr

/-- Whether a lane runs (R172, R176). -/
inductive Status where
  | ready
  | parked (w : Wait)
  /-- Stopped by a trap without a handler (R176). -/
  | stopped
  | ended
  deriving DecidableEq, Repr

/-- Whether a lane stands between the parts of its instruction. -/
def Status.isMid : Status → Bool
  | .parked (.mid _) => true
  | _ => false

/-- A hardware thread: a lane of a team, a lane of a tadpole, or a context of a keeper core. -/
structure Agent where
  /-- v0 to v255; an unlisted register reads 0. -/
  v : NMap Word := []
  /-- p0 to p7; bit 0 is not read (R3). -/
  p : BitVec 8 := 0#8
  pc : DWord := 0#64
  link : DWord := 0#64
  hints : Hints := {}
  trapCause : Word := 0#32
  trapPc : DWord := 0#64
  trapAddr : DWord := 0#64
  handler : Bool := false
  eseqLast : Word := 0#32
  status : Status := .ready
  /-- CCLK the lane has been ready since it last issued or became ready (R149). -/
  wait : Nat := 0
  starving : Bool := false
  /-- CCLK since which the lane is fetch-waiting (R164). -/
  fetchSince : Option Nat := none
  /-- Loop buffer: addresses and words, oldest first (R164). -/
  loopBuf : List (DWord × Word) := []
  /-- Registers the scoreboard holds until a value arrives (R277). -/
  held : List Nat := []
  /-- Timestamps of stores and atomics whose completion has not returned (R75). -/
  stores : List DWord := []
  /-- CCLK until which a YIELD holds the lane back (R295). -/
  yieldUntil : Option Nat := none
  /-- CCLK at which the lane parked. -/
  parkedAt : Nat := 0
  /-- Physical address of the domain descriptor the lane participates in (R158). -/
  domain : Option Nat := none
  /-- Aperture accesses of the current instruction, by their number in `net` (R54). -/
  netIds : List Nat := []
  /-- Answers that aperture loads of the current instruction have returned, in its order, and how many of them this
  performance of it has taken. -/
  netGot : List (List Byte) := []
  netUsed : Nat := 0
  pendTrap : Option PendingTrap := none
  /-- Its registers lie in the save region; what answers have written since, which stands after the restore (R156, R172). -/
  away : Bool := false
  late : List (Nat × Word) := []
  /-- The pending sets of the other lanes of the bundle it issued in, as the bundle was formed (R20, R275). -/
  mates : List Hints := []
  /-- The access of its current instruction that is performed piece by piece (R247). -/
  parts : Option Parts := none
  deriving DecidableEq, Repr

/-! ### Storage and objects of a core -/

/-- A line of an L1 (R72 to R75, R186). Its key is the physical line address. -/
structure L1Line where
  asid : Nat
  /-- Virtual page of the access that filled it. -/
  page : Nat
  /-- Region class: 0 private, 1 read-shared, 2 coherent. -/
  cls : Nat
  data : List Byte
  dirty : Bool
  wts : DWord
  rts : DWord
  /-- CCLK at which the copy was taken from its home (R239). -/
  since : Nat := 0
  /-- Its poisoned sectors, 0 to 3 (R80). -/
  poison : List Nat := []
  deriving DecidableEq, Repr

/-- A barrier of a core's pool (R189). -/
structure Barrier where
  allocated : Bool := false
  launch : Nat := 0
  /-- The cluster of the team that allocated it: its origin core and the grid place of its first team (R141, R188). -/
  cluster : Nat × Nat × Nat × Nat := (0, 0, 0, 0)
  expect : Nat := 0
  arrived : Nat := 0
  balance : Int := 0
  phases : Word := 0#32
  refs : Nat := 0
  err : Bool := false
  maxTs : DWord := 0#64
  closeTs : DWord := 0#64
  gen : BitVec 11 := 0#11
  deriving DecidableEq, Repr

/-- A basin of a core (R193). -/
structure Basin where
  allocated : Bool := false
  launch : Nat := 0
  /-- Entries of its slot barriers. -/
  slots : List Nat := []
  wp : Word := 0#32
  rp : Word := 0#32
  gen : BitVec 11 := 0#11
  deriving DecidableEq, Repr

/-- A tensor shape record (R208). -/
structure TensorRec where
  base : Nat
  scales : Nat
  format : Nat
  rank : Nat
  bank : Nat
  fill : Word
  extent : List Nat
  /-- Distances in bits of dimensions 1 to 6. -/
  pitch : List Nat
  tile : List Nat
  deriving DecidableEq, Repr

/-- The source of a bulk read (R202). -/
inductive BulkSource where
  | linear (addr bytes : Nat)
  | tensor (rec : TensorRec) (coords : List Int)
  deriving DecidableEq, Repr

/-- A gather block (R341). -/
structure GatherBlock where
  xaddr : Nat
  gbase : Nat
  stride : Nat
  bound : Nat
  count : Nat
  rowlen : Nat
  taddr : Nat
  deriving DecidableEq, Repr

/-- An MMA parameter block (R346). -/
structure MmaBlock where
  shape : Nat
  semi : Nat
  acc : Nat
  init : Bool
  ga : Nat
  ra : Nat
  gb : Nat
  rb : Nat
  tile : Nat
  deriving DecidableEq, Repr

/-- An ACQ block (R349), with the D field of its DXBD hint. -/
structure AcqBlock where
  dxb4 : Bool
  rs : Bool
  acc : Nat
  tile : Nat
  row0 : Nat
  nrows : Nat
  extent : Nat
  codes : Nat
  scales : Nat
  satAddr : Option Nat
  d : Nat
  deriving DecidableEq, Repr

/-- What an engine operation does (R202, R211, R213, R216). -/
inductive OpKind where
  /-- A bulk read: its source, the handler's address, the 16-byte argument, `.ev`. -/
  | bulk (src : BulkSource) (entry : Nat) (arg : List Word) (ev : Bool)
  | tcpy (rec : TensorRec) (coords : List Int) (dst : Nat)
  | twb (rec : TensorRec) (coords : List Int) (src : Nat)
  | gath (b : GatherBlock)
  | scat (b : GatherBlock)
  /-- An MMA; the register of the issuing lane its number went to, with the value before; and, once its operands are
  read, the registers of A and of B by operand lane (R217). -/
  | mma (b : MmaBlock) (was : Nat × Word) (regs : Option (List (List Word) × List (List Word)))
  | acq (b : AcqBlock)
  /-- The staging of a team (R148). -/
  | stage
  deriving DecidableEq, Repr

/-- Where an engine operation stands (R214, R215). -/
inductive OpPhase where
  | running
  /-- A unit, at the address `unit`, has met a translation fault, or poison, at an address; no further unit starts. -/
  | faulted (unit addr : Nat) (w : Option PageWait)
  /-- In the hands of the firmware, which waits for a replay of the page. -/
  | slow (unit addr : Nat) (w : Option PageWait)
  /-- Ending in error: the address and the kind and STATUS of its event record; its tadpoles may still run. -/
  | failed (addr kind status : Nat)
  deriving DecidableEq, Repr

/-- A byte of global memory an operation will write: for each of its bits, from 0 up, the bit address in the team's
memory it is taken from, none for a bit left as it is (R209, R211, R213). -/
structure DstByte where
  va : Nat
  pa : Nat
  src : List (Option Nat)
  deriving DecidableEq, Repr

/-- An operation in an engine queue of a core (R199). Queue 0 is copy, 1 gather, 2 matrix; the staging of the team in a
slot stands outside the queues, as 8 + slot (R148). -/
structure EngineOp where
  seq : Word
  queue : Nat
  kind : OpKind
  slot : Nat
  lane : Nat
  launch : Nat
  asid : Nat
  /-- The barrier it posts: owning core and entry. -/
  bar : Option (Nat × Nat)
  /-- A TCPY into a basin posts a slot barrier the basin holds: no reference of its own (R340). -/
  ownRef : Bool := true
  ets : DWord
  cache : Option (BitVec 2) := none
  phase : OpPhase := .running
  /-- Bursts of a bulk read (R202). -/
  units : Nat := 0
  /-- Bursts of a bulk read delivered, failed or found wholly outside, by number; rows of another operation done, or of
  a TWB or SCAT made ready to write. -/
  unitsDone : List Nat := []
  /-- The firmware performs what is left of it, in ascending unit order (R214). -/
  ascending : Bool := false
  /-- Bursts that had started when a unit failed, and finish or fail in their turn (R214). -/
  started : List Nat := []
  /-- A tadpole of the bulk read ended by a trap (R206). -/
  tadTrapped : Bool := false
  /-- Bytes a TWB or SCAT has still to write to lines it owns, in writing order (R78). -/
  dst : List DstByte := []
  deriving DecidableEq, Repr

/-- A tadpole in its slot (R203). -/
structure Tadpole where
  seq : Word
  burst : Nat
  /-- Team slot and lane of the issuer. -/
  slot : Nat
  lane : Nat
  lanes : NMap Agent
  /-- A lane of it has trapped: it ends after the bundle in which it did (R175, R177). -/
  trapped : Bool := false
  deriving DecidableEq, Repr

/-- An event record (R179), with the launch its tag stands for. -/
structure EventRec where
  kind : Nat
  ltag : Nat
  slot : Nat
  lane : Option Nat
  src : Nat
  bar : Option Nat
  status : BitVec 16
  addr : DWord
  launch : Nat
  /-- The firmware has written this record's fault record (R181). -/
  reported : Bool := false
  deriving DecidableEq, Repr

/-- A context of a keeper core (R178). Context 0 is the firmware context. -/
structure KeeperCtx where
  launch : Option Nat
  ag : Agent
  /-- k registers of its launch (R167), and whether they have been read. -/
  k : NMap DWord := []
  kReady : Bool := false
  /-- Records delivered and not yet taken (R180). -/
  records : List EventRec := []
  deriving DecidableEq, Repr

/-- A storage region of a victim (R154). -/
inductive Region where
  | tmem
  | acs
  | vrf (berth : Nat)
  deriving DecidableEq, Repr

/-- Where a team stands between placement and the release of its slot (R148, R153, R182). -/
inductive TeamPhase where
  /-- Storage reserved; regions it claims may still have to be saved, then staging runs (R148, R154). -/
  | staging
  | running
  /-- Its last lane has ended; the slot is still held (R182). -/
  | retired
  deriving DecidableEq, Repr

/-- A team in its slot of a core. -/
structure Team where
  launch : Nat
  number : Nat
  x : Nat
  y : Nat
  z : Nat
  /-- Place in the cluster and the cluster's origin core; (0, 0) and its own core without clusters (R146). -/
  ci : Nat := 0
  cj : Nat := 0
  origin : Nat
  nlanes : Nat
  regs : Nat
  tmem : Nat
  ftz : Bool
  /-- Start berth when it was placed (R144). -/
  berth : Nat
  /-- Each group's share of its berth's VRF, as numbers of 256-byte blocks, and its place among the berth's groups (R143,
  R155). -/
  vrf : List (List Nat × Nat)
  tmBase : Nat
  tiles : List Nat
  phase : TeamPhase := .staging
  /-- Victims' regions it claims and that are not yet saved: victim slot and region (R154). -/
  claims : List (Nat × Region) := []
  held : Bool := false
  preempted : Bool := false
  /-- Regions of this team that have been saved (R154), and the pts recorded with them (R76). -/
  saved : List Region := []
  savedPts : DWord := 0#64
  /-- Its staging, once begun (R148): unit 0 reads ARGS, unit i copies staging entry i − 1. -/
  stage : Option EngineOp := none
  /-- Its staging has completed; a team of a cluster waits for the others (R146, R148). -/
  staged : Bool := false
  startTime : Nat := 0
  /-- The largest pts of the cores of its cluster's teams that have ended while lanes wait at the cluster barrier (R192). -/
  arrivedTs : DWord := 0#64
  lanes : NMap Agent := []
  /-- j registers: key 16 × group + j. -/
  masks : NMap (BitVec 8) := []
  /-- Masks that the bundle under way has set to 0 by JCLR, which releases no lane (R168), by their keys. -/
  cleared : List Nat := []
  k : NMap DWord := []
  tm : NMap Byte := []
  /-- Words of the ACS grant: 4,096 × tile + 64 × row + column (R184). -/
  acs : NMap Word := []
  acsFlags : NMap (BitVec 3) := []
  deriving DecidableEq, Repr

/-- A compute core with its keeper core and engines. -/
structure Core where
  started : Bool := false
  deepIdle : Bool := false
  pts : DWord := 0#64
  startBerth : Nat := 0
  /-- CCLK of the last bundle, and the start of the issue ramp (R34). -/
  lastIssue : Nat := 0
  rampStart : Option Nat := none
  /-- CCLK at which the core last held anything (R33). -/
  lastHeld : Nat := 0
  l1 : NMap L1Line := []
  /-- The instruction cache: blocks of 64 bytes by physical address divided by 64, each with the launch that fetched it
  (R2, R25, R164). -/
  icache : NMap (Nat × List Byte) := []
  teams : NMap Team := []
  tads : NMap Tadpole := []
  barriers : NMap Barrier := []
  basins : NMap Basin := []
  ceIssue : Word := 0#32
  meIssue : Word := 0#32
  eseqCe : Word := 0#32
  eseqMe : Word := 0#32
  /-- Completed operations above ESEQ, with their ets: queue counter (false copy, true matrix), number, ets (R200). -/
  doneOps : List (Bool × Word × DWord) := []
  /-- Largest ets of completions at or below ESEQ.CE and ESEQ.ME (R76). -/
  ceTs : DWord := 0#64
  meTs : DWord := 0#64
  ops : List EngineOp := []
  /-- Launch tags: tag to launch (R179). -/
  tags : NMap Nat := []
  eq : List EventRec := []
  /-- Records units hold while the EQ is full, or until they enter it (R179). -/
  eqHeld : List EventRec := []
  contexts : NMap KeeperCtx := []
  deriving DecidableEq, Repr

/-! ### The memory system -/

/-- A line of an L2 slice (R67 to R69, R74, R78). -/
structure L2Line where
  /-- Physical address divided by 128. -/
  line : Nat
  wts : DWord
  rts : DWord
  dirty : Bool := false
  /-- 0 evict-first, 1 normal, 2 evict-last (R68). -/
  cls : Nat := 1
  /-- CCLK at which the mooring lease ends, two FCLK each (R26), and the launch that last moored it (R69). -/
  moor : Option (Nat × Nat) := none
  /-- The engine operation that owns it: core, queue and sequence number (R78). -/
  owner : Option (Nat × Nat × Word) := none
  deriving DecidableEq, Repr

/-- A line held by the memory-side cache (R62 to R66). -/
structure MscLine where
  line : Nat
  /-- Physical line of the set, 0 to 15, and sectors taken. -/
  phys : Nat
  sectors : Nat
  pinned : Bool := false
  dirty : Bool := false
  /-- Order of last use. -/
  used : Nat := 0
  deriving DecidableEq, Repr

/-- The activations of a row in the refresh window, and whether it has been promoted in it (R65, R66). -/
structure RowCount where
  count : Nat := 0
  promoted : Bool := false
  deriving DecidableEq, Repr

/-- A monitor of a slice: its word, its condition and the lanes that share it (R194). -/
structure Monitor where
  pa : Nat
  size : Nat
  cond : Nat
  value : DWord
  lanes : List AgentRef
  deriving DecidableEq, Repr

/-- What an aperture access asks of the peer (R55). -/
inductive NetKind where
  | load (size : Nat)
  | store (bytes : List Byte)
  /-- An atomic: floating-point, operation, size in bytes, operand, compare value, whether the old value returns. -/
  | atomic (float : Bool) (op size : Nat) (operand compare : BitVec 128) (returns : Bool)
  deriving DecidableEq, Repr

/-- An atomic that has read its word and not written it yet (R198). -/
structure Rmw where
  agent : AgentRef
  /-- What it does to its word, as an access that is shipped to a peer says it. -/
  ask : NetKind
  /-- The unit that performs it (R197): 0 the home slice or the fabric port, 1 + c the atomic unit of core c. -/
  unit : Nat
  /-- The piece of memory it works on, and the value it read. -/
  piece : Piece
  old : List Byte
  /-- The scope of its word, and who performs it (R235). -/
  scope : BitVec 2
  who : Who
  /-- A sub-byte XST (R321). -/
  xst : Bool
  deriving DecidableEq, Repr

/-- A MOOR whose slices have not all answered: the lines still to reserve, and those reserved (R343). -/
structure Mooring where
  agent : AgentRef
  left : List Nat
  held : List Nat := []
  deriving DecidableEq, Repr

/-- An ownership request that waits at a home (R78). -/
structure OwnReq where
  line : Nat
  core : Nat
  queue : Nat
  seq : Word
  deriving DecidableEq, Repr

/-- An error detected and not yet reported (R81): its source, its record's ADDR, its LAYER, uncorrected. -/
structure ErrorEvent where
  source : Nat
  addr : DWord
  layer : Nat
  uncorrected : Bool
  deriving DecidableEq, Repr

/-- The memory registers of a die (R83). -/
structure DieMem where
  hrcThresh : BitVec 16 := 512#16
  scrubEn : Bool := true
  hrcEn : Bool := true
  elogWr : Word := 0#32
  elogRd : Word := 0#32
  elogOvf : Word := 0#32
  mscEvict : Word := 0#32
  mscCascade : Word := 0#32
  hrcPromote : Word := 0#32
  hrcSkip : Word := 0#32
  netRaw : Word := 0#32
  netSent : Word := 0#32
  /-- Bytes below a whole 64-byte unit of NET_RAW and NET_SENT. -/
  netRawRest : Nat := 0
  netSentRest : Nat := 0
  /-- The first FCLK, counted from power-on, in which no source of the die has reported yet (R81, R82). -/
  fclk : Nat := 0
  corr : NMap Word := []
  uncorr : NMap Word := []
  /-- Error log slots, bytes 32 × slot + offset (R84). -/
  elog : NMap Byte := []
  errWait : List ErrorEvent := []
  deriving DecidableEq, Repr

/-- A cached translation (R134): address space and virtual page, the entry's address, the entry, its level. -/
structure TlbEntry where
  asid : Nat
  page : Nat
  pte : DWord
  level : Nat
  deriving DecidableEq, Repr

/-! ### The links -/

/-- Aperture states (R53). -/
inductive ApState where
  | off | open_ | draining | fencing
  deriving DecidableEq, Repr

/-- The registers of an aperture (R53), and the shadow of GEN and STATE the dies hold (R54). -/
structure Aperture where
  gen : BitVec 8 := 0#8
  size : BitVec 5 := 0#5
  state : ApState := .off
  refused : BitVec 16 := 0#16
  accel : BitVec 10 := 0#10
  ports : BitVec 12 := 0#12
  rbase : BitVec 52 := 0#52
  shadowGen : BitVec 8 := 0#8
  shadowState : ApState := .off
  /-- CCLK at which draining began (R56). -/
  drainAt : Nat := 0
  deriving DecidableEq, Repr

/-- Where an aperture access stands (R54 to R57). -/
inductive NetPhase where
  /-- In the network of its die, not yet at the IOD. -/
  | inNetwork
  /-- Accepted and forwarded to the peer. -/
  | accepted
  /-- Completed, with the bytes that returned. -/
  | done (bytes : List Byte)
  /-- Refused: the cause its lane takes. -/
  | refused (c : Cause)
  deriving DecidableEq, Repr

/-- An aperture access between its core and its completion (R54). -/
structure NetAccess where
  agent : AgentRef
  core : Nat
  slot : Nat
  launch : Nat
  aperture : Nat
  va : Nat
  offset : Nat
  /-- The accelerator and the remote physical address the access goes to, once the IOD has accepted it (R53). -/
  accel : BitVec 10 := 0#10
  remote : Nat := 0
  stamp : BitVec 8
  kind : NetKind
  phase : NetPhase := .inNetwork
  /-- The engine operation that waits for it: queue and sequence number. -/
  engine : Option (Nat × Word) := none
  deriving DecidableEq, Repr

/-- A host port (R51). -/
structure HostPort where
  corr : BitVec 16 := 0#16
  width : BitVec 4 := 0#4
  cxl : Bool := false
  speed : BitVec 3 := 0#3
  deriving DecidableEq, Repr

/-- A UALink port (R51). -/
structure PeerPort where
  retry : BitVec 16 := 0#16
  up : Bool := false
  deriving DecidableEq, Repr

/-! ### The command interface -/

/-- A launch record (R127). -/
structure LaunchRec where
  code : Nat := 0
  dtab : Nat := 0
  dtlen : Nat := 0
  regs8 : Nat := 0
  args8 : Nat := 0
  tmem : Nat := 0
  gridX : Nat := 0
  gridY : Nat := 0
  gridZ : Nat := 0
  teamX : Nat := 0
  teamY : Nat := 0
  teamZ : Nat := 0
  clusX : Nat := 1
  clusY : Nat := 1
  flags : Nat := 0
  nstage : Nat := 0
  ndep : Nat := 0
  stage : Nat := 0
  args : Nat := 0
  deps : Nat := 0
  indirect : Nat := 0
  keeper : Nat := 0
  doneAddr : Nat := 0
  doneSeq : DWord := 0#64
  sink : Nat := 0
  deriving DecidableEq, Repr

/-- A record at QRD while the queue has not taken it (R130). -/
structure PendingRec where
  record : LaunchRec
  slotAddr : Nat
  /-- Dependency entries not yet met: address, VALUE, COND. -/
  unmet : List (Nat × Word × Nat)
  /-- Largest wts of the words read (R133). -/
  depTs : DWord := 0#64
  /-- CCLK of the last reading. -/
  readAt : Nat := 0
  deriving DecidableEq, Repr

/-- A launch queue (R124). -/
structure Queue where
  en : Bool := false
  err : Bool := false
  prio : BitVec 3 := 0#3
  asid : BitVec 6 := 0#6
  base : BitVec 52 := 0#52
  size : BitVec 4 := 4#4
  qwr : Word := 0#32
  qrd : Word := 0#32
  pending : Option PendingRec := none
  deriving DecidableEq, Repr

/-- A fault record before its index and its V bit are known (R136). -/
structure FaultRec where
  cause : Nat
  src : Nat
  die : Nat
  core : Nat
  lane : Nat
  team : Nat
  aux0 : Nat := 0
  aux1 : Nat := 0
  addr : Nat := 0
  launch : Word := 0#32
  asid : Nat := 0
  queue : Nat := 0xFF
  deriving DecidableEq, Repr

/-- A launch that has been taken (R127 to R132, R141). -/
structure Launch where
  record : LaunchRec
  queue : Nat
  asid : Nat
  prio : Nat
  /-- Order of taking (R142). -/
  order : Nat
  /-- Units handed out so far (R141). -/
  nextUnit : Nat := 0
  faulted : Bool := false
  stopped : Bool := false
  /-- Largest wts of the dependency and count words (R133). -/
  depTs : DWord := 0#64
  /-- Largest pts of the cores that ran it when a team ended (R132). -/
  endTs : DWord := 0#64
  /-- Cores whose L1 it used (R72). -/
  cores : List Nat := []
  deriving DecidableEq, Repr

/-- A page table root (R124). -/
structure PtRoot where
  root : BitVec 52 := 0#52
  valid : Bool := false
  deriving DecidableEq, Repr

/-- An invalidation started and not complete (R134). -/
structure Inval where
  asid : Nat
  all : Bool
  page : Nat
  pages : Nat
  deriving DecidableEq, Repr

/-- The registers of the command interface beside the queues and roots (R124). -/
structure Cmd where
  fqBase : BitVec 52 := 0#52
  fqSize : BitVec 4 := 4#4
  fqWr : Word := 0#32
  fqRd : Word := 0#32
  /-- Records that wait for room in the fault queue (R135); the launch a record replaces a sink record of. -/
  fqHeld : List (FaultRec × Option Nat) := []
  /-- Pages with an outstanding PAGEFAULT record: address space and page (R135). -/
  faultsOut : List (Nat × Nat) := []
  replayLo : Word := 0#32
  replayHi : Word := 0#32
  invalLo : Word := 0#32
  invalHi : Word := 0#32
  invalDone : Word := 0#32
  invalWait : List Inval := []
  intStat : BitVec 6 := 0#6
  intMask : BitVec 6 := 0x3F#6
  lastQueue : Nat := 63
  taken : Nat := 0
  deriving DecidableEq, Repr

/-- A unit a die scheduler holds and has not placed (R141). -/
structure HeldUnit where
  launch : Nat
  unit : Nat
  /-- CCLK since which it is the first unplaced unit of its launch on the die (R147). -/
  since : Nat
  deriving DecidableEq, Repr

/-- A die scheduler (R142 to R147). -/
structure Die where
  held : List HeldUnit := []
  lastCore : Nat := 159
  /-- The cluster that drains, by launch and unit, and the cores of its target (R147). -/
  drain : Option (Nat × Nat × List Nat) := none
  deriving DecidableEq, Repr

/-! ### The management controller -/

/-- SPDM exchange of one port: version sent, algorithms negotiated, session state, requests answered (R44). -/
structure Spdm where
  versionSent : Bool := false
  capabilitiesSent : Bool := false
  negotiated : Bool := false
  /-- 0 no session, 1 key exchanged, 2 established. -/
  session : Nat := 0
  /-- The requester of the session has proved possession of the key that OWNER_HASH names (R44). -/
  owner : Bool := false
  answered : Nat := 0
  deriving DecidableEq, Repr

/-- The SMC (R26 to R44). -/
structure Smc where
  phase : BitVec 4 := 0#4
  fail : BitVec 8 := 0#8
  dieSup : BitVec 4 := 0#4
  rows : BitVec 8 := 0#8
  hotDie : BitVec 8 := 0#8
  tMax : BitVec 8 := 0#8
  hbmMax : BitVec 8 := 0#8
  pStep : BitVec 4 := 0#4
  tStep : BitVec 4 := 0#4
  floor : BitVec 4 := 0#4
  step : BitVec 4 := 0#4
  nextStep : BitVec 4 := 0#4
  below : Nat := 0
  capHost : BitVec 12 := 2800#12
  capMgmt : BitVec 12 := 2800#12
  pwrNow : Word := 0#32
  deepEn : Bool := false
  /-- Body of the accepted configuration record (R37). -/
  config : List Byte := []
  /-- The configuration record fetched from the network source while the firmware record is not (R39). -/
  fetched : Option (List Byte) := none
  measConfig : List Byte := List.replicate 48 0#8
  measFirmware : List Byte := List.replicate 48 0#8
  stagingDie : Nat := 0
  trained : Bool := false
  hostSource : Bool := false
  fetchFails : Nat := 0
  sourcesFailed : Nat := 0
  /-- SPDM state by port: 0 the management port, 1 the host. -/
  spdm : NMap Spdm := []
  deriving DecidableEq, Repr

/-! ### What leaves the device -/

/-- An answer of the management port (R43, R44). -/
structure MgmtAnswer where
  port : Nat
  seq : Nat
  body : List Byte
  /-- What R44 fixes of the SPDM answer it carries. -/
  shows : List SpdmFact := []
  deriving DecidableEq, Repr

/-- A completion to the host or a peer: the tag, whether it is an error, the bytes (R48, R52, R55). -/
structure Completion where
  agent : Nat
  tag : Nat
  error : Bool
  bytes : List Byte
  deriving DecidableEq, Repr

/-- A report of a port's AER (R48): a write or a read that reached no memory, and its device address. -/
structure AerReport where
  write : Bool
  addr : Nat
  deriving DecidableEq, Repr

/-- An item of a work list reserved and not yet written (R159). -/
structure WlItem where
  /-- The thread that appended it and whom it belongs to, and in a tadpole the bulk read that bore it (R132, R205, R206). -/
  agent : AgentRef
  who : Who
  bulk : Option Word := none
  /-- Physical address and virtual page of the domain descriptor. -/
  domain : Nat
  domainPage : Nat := 0
  /-- Where the item lies, and its bytes. -/
  piece : Piece
  bytes : List Byte
  deriving DecidableEq, Repr

/-! ### The machine -/

/-- One move of the agenda: which agent acts next (log entry 1). -/
inductive Move where
  /-- A berth forms its bundle (R150). -/
  | issue (core berth : Nat)
  /-- One lane of the current bundle, or a keeper context, executes its word. -/
  | lane (r : AgentRef)
  /-- The lanes of a bundle whose items a list takes as one run execute their word, nothing between them (R159). -/
  | together (rs : List AgentRef)
  /-- The tests that follow a bundle of some groups of a core's team: rejoin masks and collectives (R169, R170). -/
  | endBundle (core slot : Nat) (groups : List Nat)
  /-- The next context of a keeper core takes its turn (R178). -/
  | keeperTurn (core : Nat)
  /-- A tadpole that a trap has ended leaves its slot (R177). -/
  | tadEnd (core slot : Nat)
  /-- A device event. -/
  | event (i : Instr)
  /-- An agent of the host side writes host memory (R58). -/
  | hostStore (pa : Nat) (bytes : List Byte)
  deriving DecidableEq, Repr

/-- The whole machine. -/
structure State where
  /-- CYCLES: CCLK since power-on (R366). -/
  cclk : Nat := 0
  /-- The die base timestamp, in step on all dies (R74). -/
  bts : DWord := 0#64
  smc : Smc := {}
  /-- The boot staging windows (R50); an unlisted byte is 0. -/
  cfgWin : NMap Byte := []
  fwWin : NMap Byte := []
  hostWin : BitVec 12 := 0#12
  /-- log2 of the memory BAR's size (R48). -/
  barLog2 : Nat := 39
  hostPorts : NMap HostPort := []
  peerPorts : NMap PeerPort := []
  d2dRetry : BitVec 16 := 0#16
  d2dFailed : Bool := false
  inReject : Word := 0#32
  /-- The inbound allow bitmap, by word (R49). -/
  allow : NMap Word := []
  apertures : NMap Aperture := []
  net : NMap NetAccess := []
  netNext : Nat := 0
  /-- The largest timestamp of what a store to host or peer memory, or a store of the host or a peer, follows (R240). -/
  outTs : DWord := 0#64
  /-- Bytes of local and host memory by physical address (R46); an unlisted byte reads 0. -/
  mem : List Host.Cell := []
  /-- Poisoned 32-byte sectors, by physical address divided by 32 (R80). -/
  poison : NMap Bool := []
  /-- L2 sets by 1,024 × slice + set, slice 64 × die + j; lines oldest first (R67). -/
  l2 : NMap (List L2Line) := []
  /-- Memory timestamps of the slices (R76). -/
  mts : NMap DWord := []
  ownWait : List OwnReq := []
  /-- Atomics between their read and their write (R198). -/
  rmws : List Rmw := []
  /-- MOORs whose slices have not all answered (R343). -/
  moors : List Mooring := []
  /-- Condition monitors in use; those of a slice are the ones whose word it homes (R194). -/
  monitors : List Monitor := []
  /-- Sets of the memory-side caches by 32,768 × stack + set (R62). -/
  msc : NMap (List MscLine) := []
  mscClock : Nat := 0
  /-- Activations in the refresh window, by 2^48 × stack + 2^32 × bank + row (R65). -/
  rowAct : NMap RowCount := []
  tlb : List TlbEntry := []
  dieMem : NMap DieMem := []
  queues : NMap Queue := []
  ptroots : NMap PtRoot := []
  cmd : Cmd := {}
  launches : NMap Launch := []
  dies : NMap Die := []
  cores : NMap Core := []
  wlItems : NMap WlItem := []
  wlNext : Nat := 0
  mgmtOut : List MgmtAnswer := []
  hostOut : List Completion := []
  peerOut : List Completion := []
  aer : List AerReport := []
  /-- MSI-X vectors sent, oldest first (R140). -/
  msix : List Nat := []
  /-- The thread whose word is being executed, checked out of its table. -/
  cur : AgentRef := .none
  ag : Agent := {}
  agenda : List Move := []
  /-- Events whose time has not come, which a later CCLK takes up again. -/
  delayed : List Instr := []
  /-- Free values drawn so far (log entry 5). -/
  free : Nat := 0
  deriving DecidableEq, Repr

/-- The machine at power-on (R39, R42, R51, R53, R74, R83, R124); the BOOTSEL pin names the first boot source (R39). -/
def State.reset : State := { smc := { hostSource := Config.bootselHost } }

end Sys2Proof.Machine
end

