-- ==== Sys2Proof/Machine/Memory.lean ====
section
/-! DEFINITION. Memory: bytes and poison, the physical map, the L2 with its leases and mooring, the memory-side cache
and the L1s (R46, R60 to R80, R186). One access is one step; the data of a local line is held once, and the L2 and
the memory-side cache hold what the spec says of the line beside its data. -/

namespace Sys2Proof.Machine

/-! ### Numbers and bytes -/

/-- The greater of two timestamps (R74). -/
def tmax (a b : DWord) : DWord := if a.toNat ≤ b.toNat then b else a

/-- The little-endian number of some bytes (R7). -/
def leNat : List Byte → Nat
  | [] => 0
  | b :: bs => b.toNat + 256 * leNat bs

/-- The `n` little-endian bytes of a number (R7). -/
def leBytes : Nat → Nat → List Byte
  | 0, _ => []
  | n + 1, x => BitVec.ofNat 8 x :: leBytes n (x / 256)

/-- The byte memory holds at a physical address; one nothing has written reads 0 (log entry 2). -/
def State.byteAt (s : State) (pa : Nat) : Byte := NMap.get 0#8 s.mem pa

/-- The bytes of memory from an address up. -/
def State.bytesAt (s : State) (pa : Nat) : Nat → List Byte
  | 0 => []
  | n + 1 => s.byteAt pa :: s.bytesAt (pa + 1) n

/-- A little-endian number of `n` bytes of memory. -/
def State.numAt (s : State) (pa n : Nat) : Nat := leNat (s.bytesAt pa n)

/-- The canonical form of memory: addresses strictly rising, no entry that reads as an unlisted address does. -/
def Memory.wf (m : List Host.Cell) : Bool := NMap.wf 0#8 m

/-- Memory with bytes written from an address up. -/
def putBytes (m : NMap Byte) (pa : Nat) : List Byte → NMap Byte
  | [] => m
  | b :: bs => putBytes (NMap.set 0#8 m pa b) (pa + 1) bs

/-- The state with bytes of memory written. -/
def State.pokeBytes (s : State) (pa : Nat) (bs : List Byte) : State := { s with mem := putBytes s.mem pa bs }

/-! ### The physical map -/

/-- The ranges of the physical address space (R46). -/
inductive PaRange where
  | local_
  | registers
  /-- An aperture and the offset in its slot. -/
  | aperture (n x : Nat)
  | host
  | unassigned
  deriving DecidableEq, Repr

/-- The range of a physical address (R46). -/
def paRange (pa : Nat) : PaRange :=
  if pa < 0x8000000000 then .local_
  else if pa < 0x1000000000000 then .unassigned
  else if pa < 0x1000010000000 then .registers
  else if pa < 0x8000000000000 then .unassigned
  else if pa < 0x8400000000000 then .aperture ((pa - 0x8000000000000) / 2 ^ 40) ((pa - 0x8000000000000) % 2 ^ 40)
  else if pa < 0xC000000000000 then .unassigned
  else if pa < 0x10000000000000 then .host
  else .unassigned

/-- The die that homes a local address (R60). -/
def homeDie (pa : Nat) : Nat := pa / 2 ^ 37 % 4

/-- The slice that homes a local address, 64 × die + slice (R60). -/
def homeSlice (pa : Nat) : Nat := homeDie pa * 64 + pa / 2 ^ 12 % 64

/-- The stack of a local address (R60). -/
def homeStack (pa : Nat) : Nat := 2 * homeDie pa + pa / 2 ^ 12 % 2

/-- The memory channel of a local address within its die (R60). -/
def homeChannel (pa : Nat) : Nat := 8 * (pa / 2 ^ 12 % 2) + pa / 2 ^ 13 % 8

/-- The key of the L2 set of a line (R67). -/
def l2Key (line : Nat) : Nat :=
  homeSlice (line * 128) * 1024 + (line % 32 + 32 * (line * 128 / 2 ^ 18 % 32))

/-- The die of a core. -/
def dieOfCore (core : Nat) : Nat := core / 160

/-! ### Parts of the state -/

def State.core (s : State) (c : Nat) : Core := NMap.get {} s.cores c

def State.setCore (s : State) (c : Nat) (x : Core) : State := { s with cores := s.cores.put c x }

def State.modCore (s : State) (c : Nat) (f : Core → Core) : State := s.setCore c (f (s.core c))

def State.dieMemOf (s : State) (d : Nat) : DieMem := NMap.get {} s.dieMem d

def State.modDieMem (s : State) (d : Nat) (f : DieMem → DieMem) : State :=
  { s with dieMem := s.dieMem.put d (f (s.dieMemOf d)) }

def State.aperture (s : State) (n : Nat) : Aperture := NMap.get {} s.apertures n

def State.modAperture (s : State) (n : Nat) (f : Aperture → Aperture) : State :=
  { s with apertures := s.apertures.put n (f (s.aperture n)) }

def State.launch (s : State) (n : Nat) : Option Launch := s.launches.find? n

def State.modLaunch (s : State) (n : Nat) (f : Launch → Launch) : State :=
  match s.launch n with
  | some l => { s with launches := s.launches.put n (f l) }
  | none => s

def State.team (s : State) (c slot : Nat) : Option Team := (s.core c).teams.find? slot

def State.setTeam (s : State) (c slot : Nat) (t : Team) : State :=
  s.modCore c fun k => { k with teams := k.teams.put slot t }

def State.modTeam (s : State) (c slot : Nat) (f : Team → Team) : State :=
  match s.team c slot with
  | some t => s.setTeam c slot (f t)
  | none => s

/-- The program timestamp of a core raised to `t` (R74). -/
def State.raisePts (s : State) (c : Nat) (t : DWord) : State := s.modCore c fun k => { k with pts := tmax k.pts t }

/-- A draw of the next free value's number (log entry 5). -/
def State.drawn (s : State) : State := { s with free := s.free + 1 }

/-- Moves put at the front of the agenda. -/
def State.first (s : State) (ms : List Move) : State := { s with agenda := ms ++ s.agenda }

/-- Moves put at the end of the agenda. -/
def State.later (s : State) (ms : List Move) : State := { s with agenda := s.agenda ++ ms }

/-! ### Poison -/

/-- Whether the sector that holds an address is poisoned (R80). -/
def State.poisoned (s : State) (pa : Nat) : Bool := NMap.get false s.poison (pa / 32)

/-- The lowest of `n` addresses from `pa` that lies in a poisoned sector (R80). -/
def State.firstPoison (s : State) (pa : Nat) : Nat → Option Nat
  | 0 => none
  | n + 1 => if s.poisoned pa then some pa else s.firstPoison (pa + 1) n

/-- Poison cleared in every sector that a write of `n` bytes covers whole (R80). -/
def State.cleanSectors (s : State) (pa n : Nat) : State :=
  { s with poison := (List.range (n / 32 + 1)).foldl (fun m i =>
      let sec := (pa + 31) / 32 + i
      if pa ≤ sec * 32 ∧ sec * 32 + 32 ≤ pa + n then m.del sec else m) s.poison }

/-- The poisoned sectors of a line, 0 to 3 (R80). -/
def State.poisonOf (s : State) (line : Nat) : List Nat := (List.range 4).filter fun i => NMap.get false s.poison (4 * line + i)

/-- An event that waits to be reported by its source (R81). -/
def State.noteError (s : State) (die : Nat) (e : ErrorEvent) : State :=
  (s.modDieMem die fun d => { d with errWait := d.errWait ++ [e] }).later [.event (.errorLogReport die)]

/-- The event of a sector (R81, R84): its source is the memory channel of its address. -/
def sectorError (pa layer : Nat) (uncorrected : Bool) : ErrorEvent :=
  { source := homeChannel pa, addr := BitVec.ofNat 64 (pa % 2 ^ 52 / 32 * 32), layer := layer, uncorrected := uncorrected }

/-- The event of a poisoned sector that an access has read (R81, R84: LAYER 5). -/
def State.notePoison (s : State) (pa : Nat) : State :=
  if paRange pa = .local_ then s.noteError (homeDie pa) (sectorError pa 5 true) else s

/-- The events of the poisoned sectors that `n` bytes from `pa` lie in, one each, lowest first (R81). -/
def State.notePoisons (s : State) (pa n : Nat) : State :=
  ((List.range (n / 32 + 2)).filter fun i => decide ((pa / 32 + i) * 32 < pa + n) && s.poisoned ((pa / 32 + i) * 32)).foldl
    (fun (s : State) i => s.notePoison ((pa / 32 + i) * 32)) s

/-! ### The memory-side cache -/

/-- The key of a line's set in its stack's memory-side cache (R62). -/
def mscKey (line : Nat) : Nat := homeStack (line * 128) * 32768 + Config.mscSet line % 32768

/-- The sectors a line takes (R63). -/
def State.mscNeed (s : State) (line : Nat) : Nat := min 4 (max 1 (Config.mscSectors (s.bytesAt (line * 128) 128)))

/-- Free sectors of a physical line of a set (R63). -/
def mscFree (ls : List MscLine) (p : Nat) : Nat :=
  4 - ((ls.filter fun l => l.phys = p).map MscLine.sectors).sum

/-- Whether a physical line holds a pinned line. -/
def mscPinned (ls : List MscLine) (p : Nat) : Bool := ls.any fun l => l.phys = p && l.pinned

/-- The least recently used line among some. -/
def mscOldest : List MscLine → Option MscLine
  | [] => none
  | l :: ls =>
    match mscOldest ls with
    | none => some l
    | some m => if m.used < l.used then some m else some l

/-- The victim physical line: no pinned line, its most recently used line used longest ago, lowest on a tie (R64). -/
def mscVictim (ls : List MscLine) : Nat :=
  let age := fun p => ((ls.filter fun l => l.phys = p).map MscLine.used).foldl max 0
  ((List.range 16).filter fun p => !mscPinned ls p).foldl
    (fun best p => match best with
      | none => some p
      | some q => if age p < age q then some p else some q) none |>.getD 0

/-- Lines evicted, least recently used first among those `ok` holds of, until `fits`: the rest and the count (R64). -/
def mscEvictUntil (ok : MscLine → Bool) (fits : List MscLine → Bool) : Nat → List MscLine → List MscLine × Nat
  | 0, ls => (ls, 0)
  | n + 1, ls =>
    if fits ls then (ls, 0)
    else match mscOldest (ls.filter ok) with
      | none => (ls, 0)
      | some v =>
        let r := mscEvictUntil ok fits n (ls.filter fun l => l.line ≠ v.line)
        (r.1, r.2 + 1)

/-- A fill of `new` into a set (R64): the set after it and the lines evicted. -/
def mscFill (ls : List MscLine) (new : MscLine) : List MscLine × Nat :=
  let place := (List.range 16).find? fun p => !mscPinned ls p && decide (new.sectors ≤ mscFree ls p)
  match place with
  | some p =>
    if ls.length < 32 then (ls ++ [{ new with phys := p }], 0)
    else
      let r := mscEvictUntil (fun l => !l.pinned) (fun l => decide (l.length < 32)) 1 ls
      (r.1 ++ [{ new with phys := p }], r.2)
  | none =>
    let p := mscVictim ls
    let r := mscEvictUntil (fun l => l.phys = p) (fun l => decide (new.sectors ≤ mscFree l p)) 4 ls
    (r.1 ++ [{ new with phys := p }], r.2)

/-- A write to a held line that now needs `need` sectors (R64). -/
def mscGrow (ls : List MscLine) (old : MscLine) (need : Nat) : List MscLine × Nat :=
  let rest := ls.filter fun l => l.line ≠ old.line
  let grown := { old with sectors := need, dirty := true }
  if need ≤ mscFree rest old.phys then (rest ++ [grown], 0)
  else
    match (List.range 16).find? fun p => p ≠ old.phys && decide (need ≤ mscFree rest p)
        && rest.all fun l => l.phys ≠ p || l.pinned == old.pinned with
    | some p => (rest ++ [{ grown with phys := p }], 0)
    | none =>
      if old.pinned then
        let p := mscVictim rest
        let r := mscEvictUntil (fun l => l.phys = p) (fun l => l.all fun x => x.phys ≠ p) 4 rest
        (r.1 ++ [{ grown with phys := p }], r.2)
      else
        let r := mscEvictUntil (fun l => l.phys = old.phys) (fun l => decide (need ≤ mscFree l old.phys)) 3 rest
        (r.1 ++ [grown], r.2)

/-- The eviction counters of a die after one write or fill that evicted `n` lines (R64). -/
def DieMem.countEvictions (d : DieMem) (n : Nat) : DieMem :=
  { d with mscEvict := d.mscEvict + BitVec.ofNat 32 n, mscCascade := if 2 ≤ n then d.mscCascade + 1#32 else d.mscCascade }

/-- The memory-side cache after the L2 misses on a line or writes it back (R62 to R64). -/
def State.mscAccess (s : State) (line : Nat) (write : Bool) : State :=
  let key := mscKey line
  let ls := NMap.get [] s.msc key
  let need := s.mscNeed line
  let now := s.mscClock + 1
  let r := match ls.find? fun l => l.line = line with
    | some l =>
      let used := ls.map fun (x : MscLine) => if x.line = line then { x with used := now } else x
      if write then mscGrow used { l with used := now } need else (used, 0)
    | none => mscFill ls { line := line, phys := 0, sectors := need, dirty := write, used := now }
  let s := { s with msc := s.msc.put key r.1, mscClock := now }
  if r.2 = 0 then s else s.modDieMem (homeDie (line * 128)) fun d => d.countEvictions r.2

/-! ### The L2 -/

/-- The memory timestamp of a slice (R76). -/
def State.mtsOf (s : State) (slice : Nat) : DWord := NMap.get 0#64 s.mts slice

/-- The line of the L2, or the line as a fill would make it (R76). -/
def State.l2Line (s : State) (line : Nat) : L2Line :=
  match (NMap.get [] s.l2 (l2Key line)).find? fun l => l.line = line with
  | some l => l
  | none => { line := line, wts := s.mtsOf (homeSlice (line * 128)), rts := s.mtsOf (homeSlice (line * 128)) }

def State.l2Holds (s : State) (line : Nat) : Bool := (NMap.get [] s.l2 (l2Key line)).any fun l => l.line = line

/-- The L2 with a line it holds changed. -/
def State.modL2 (s : State) (line : Nat) (f : L2Line → L2Line) : State :=
  { s with l2 := s.l2.put (l2Key line) ((NMap.get [] s.l2 (l2Key line)).map fun l => if l.line = line then f l else l) }

/-- The line a full set gives up: the oldest evict-first, else the oldest normal, else the oldest evict-last line that
is neither moored nor owned by an engine (R67). -/
def l2Victim (ls : List L2Line) : Option L2Line :=
  let free := ls.filter fun l => l.moor.isNone && l.owner.isNone
  match free.find? fun l => l.cls = 0 with
  | some l => some l
  | none => match free.find? fun l => l.cls = 1 with
    | some l => some l
    | none => free.head?

/-- A line evicted from its set: the slice's memory timestamp takes its lease end, and a dirty line is written to the
memory-side cache (R62, R76). -/
def State.l2Evict (s : State) (v : L2Line) : State :=
  let slice := homeSlice (v.line * 128)
  let ls := (NMap.get [] s.l2 (l2Key v.line)).filter fun l => l.line ≠ v.line
  let m := tmax (s.mtsOf slice) v.rts
  let s := { s with l2 := s.l2.put (l2Key v.line) ls, mts := s.mts.put slice m }
  if v.dirty then s.mscAccess v.line true else s

/-- The class a CACHE hint names (R68, R274). -/
def hintClass (hint : Option (BitVec 2)) : Nat :=
  match hint with
  | some h => h.toNat
  | none => 1

/-- The class of a present line after an access (R68). -/
def touchedClass (l : L2Line) (hint : Option (BitVec 2)) : Nat :=
  match hint with
  | none => l.cls
  | some h => if l.moor.isSome || l.cls == 2 then l.cls else h.toNat

/-- The L2 after an access that brings a line in and names a class (R67, R68, R76). -/
def State.l2Touch (s : State) (line : Nat) (hint : Option (BitVec 2)) (write : Bool) : State :=
  if s.l2Holds line then
    s.modL2 line fun l => { l with cls := touchedClass l hint, dirty := l.dirty || write }
  else
    let ls := NMap.get [] s.l2 (l2Key line)
    let s := if ls.length < 16 then s else
      match l2Victim ls with
      | some v => s.l2Evict v
      | none => s
    let s := s.mscAccess line false
    let new := { s.l2Line line with cls := hintClass hint, dirty := write }
    { s with l2 := s.l2.put (l2Key line) (NMap.get [] s.l2 (l2Key line) ++ [new]) }

/-- What a slice sends toward an L1 counted before and after compression, in units of 64 bytes (R70). -/
def DieMem.countNet (d : DieMem) (bs : List Byte) : DieMem :=
  let raw := d.netRawRest + bs.length
  let sent := d.netSentRest + Config.netCompressed bs
  { d with netRaw := d.netRaw + BitVec.ofNat 32 (raw / 64), netRawRest := raw % 64,
           netSent := d.netSent + BitVec.ofNat 32 (sent / 64), netSentRest := sent % 64 }

/-- Bytes of local memory sent from their home toward an L1 (R70). -/
def State.netCount (s : State) (pa n : Nat) : State :=
  s.modDieMem (homeDie pa) fun d => d.countNet (s.bytesAt pa n)

/-! ### Writes at a home -/

/-- The condition of a WAITC on a word (R327). -/
def condHolds (cond size : Nat) (w v : DWord) : Bool :=
  let bitsOf := 8 * size
  let sw := if size = 4 then (w.truncate 32 : BitVec 32).toInt else w.toInt
  let sv := if size = 4 then (v.truncate 32 : BitVec 32).toInt else v.toInt
  match cond with
  | 0 => w.toNat % 2 ^ bitsOf == v.toNat % 2 ^ bitsOf
  | 1 => w.toNat % 2 ^ bitsOf != v.toNat % 2 ^ bitsOf
  | 2 => decide (v.toNat % 2 ^ bitsOf ≤ w.toNat % 2 ^ bitsOf)
  | 3 => decide (v.toNat % 2 ^ bitsOf < w.toNat % 2 ^ bitsOf)
  | 4 => decide (sv ≤ sw)
  | _ => decide (sv < sw)

/-- The thread a reference names, in its table. -/
def State.agentAt (s : State) : AgentRef → Option Agent
  | .none => none
  | .lane c slot l => (s.team c slot).bind fun t => t.lanes.find? l
  | .tad c slot l => ((s.core c).tads.find? slot).bind fun t => t.lanes.find? l
  | .keeper c k => ((s.core c).contexts.find? k).map KeeperCtx.ag

/-- The state with the thread a reference names replaced in its table. -/
def State.putAgent (s : State) (r : AgentRef) (a : Agent) : State :=
  match r with
  | .none => s
  | .lane c slot l => s.modTeam c slot fun t => { t with lanes := t.lanes.put l a }
  | .tad c slot l => match (s.core c).tads.find? slot with
    | some t => s.modCore c fun k => { k with tads := k.tads.put slot { t with lanes := t.lanes.put l a } }
    | none => s
  | .keeper c n => match (s.core c).contexts.find? n with
    | some x => s.modCore c fun k => { k with contexts := k.contexts.put n { x with ag := a } }
    | none => s

def State.modAgent (s : State) (r : AgentRef) (f : Agent → Agent) : State :=
  match s.agentAt r with
  | some a => s.putAgent r (f a)
  | none => s

/-- The core of a thread. -/
def coreOfRef : AgentRef → Nat
  | .none => 0
  | .lane c _ _ => c
  | .tad c _ _ => c
  | .keeper c _ => c

/-- The word a loop buffer holds at an address: the one delivered last (R164). -/
def Agent.wordAt (a : Agent) (pc : DWord) : Option Word :=
  (a.loopBuf.reverse.find? fun (e : DWord × Word) => e.1 == pc).map Prod.snd

/-- A thread made ready again (R172): its wait starts from 0. -/
def Agent.wake (a : Agent) : Agent := { a with status := .ready, wait := 0, starving := false }

/-- One v register of a thread. -/
def Agent.reg (a : Agent) (r : Nat) : Word := NMap.get 0#32 a.v r

/-- A thread with one v register written. -/
def Agent.setReg (a : Agent) (r : Nat) (x : Word) : Agent := { a with v := NMap.set 0#32 a.v r x }

/-- A thread with a pair written (R3). -/
def Agent.setPair (a : Agent) (r : Nat) (x : DWord) : Agent := (a.setReg r (bits x 0 32)).setReg (r + 1) (bits x 32 32)

/-- A v register written by an answer that reaches its thread while it waits: kept apart too where the register's VRF
share has been saved, so that it stands after the restore (R154, R156, R172). -/
def Agent.putReg (a : Agent) (r : Nat) (x : Word) : Agent :=
  let a' := a.setReg r x
  if a.away then { a' with late := a.late ++ [(r, x)] } else a'

/-- A pair written by an answer (R172). -/
def Agent.putPair (a : Agent) (r : Nat) (x : DWord) : Agent := (a.putReg r (bits x 0 32)).putReg (r + 1) (bits x 32 32)

/-- A thread with a predicate written; a write to p0 is discarded (R3). -/
def Agent.setPred (a : Agent) (p : BitVec 3) (b : Bool) : Agent :=
  if p = 0#3 then a
  else { a with p := if b then a.p ||| (1#8 <<< p.toNat) else a.p &&& ~~~(1#8 <<< p.toNat) }

/-- A lane parked in WAITC woken with a value (R194, R327). -/
def State.wakeCond (s : State) (value wts : DWord) (size : Nat) (r : AgentRef) : State :=
  match s.agentAt r with
  | some a =>
    match a.status with
    | .parked (.cond w) =>
      let a := if size = 8 then a.putPair w.dest value else a.putReg w.dest (bits value 0 32)
      (s.putAgent r a.wake).raisePts (coreOfRef r) wts
    | _ => s
  | none => s

/-- The monitors tested against a write performed at its home (R194): one that matches is freed and wakes its lanes. -/
def State.testMonitors (s : State) (pa n : Nat) : State :=
  s.monitors.foldl (fun s m =>
    if m.pa < pa + n && pa < m.pa + m.size then
      let w := BitVec.ofNat 64 (s.numAt m.pa m.size)
      if condHolds m.cond m.size w m.value then
        let s := { s with monitors := s.monitors.filter fun x => x ≠ m }
        m.lanes.foldl (fun s r => s.wakeCond w (s.l2Line (m.pa / 128)).wts m.size r) s
      else s
    else s) s

/-- The queues whose unmet dependency words the slice of an address homes read them again (R130). -/
def State.rereadDeps (s : State) (pa : Nat) : State :=
  s.queues.foldl (fun s e =>
    match e.2.pending with
    | some p =>
      if p.unmet.any fun d => paRange d.1 == .local_ && homeSlice d.1 == homeSlice pa then
        s.later [.event (.dependencyRead e.1)]
      else s
    | none => s) s

/-- An atomic that reads its word in the L1 of its unit: a private line of a page with CACHE 1 (R197). -/
def Rmw.inL1 (r : Rmw) : Bool := r.piece.cls == 0 && r.unit != 0 && r.piece.cache && paRange r.piece.pa == .local_

/-- Some bytes meet the word of an atomic. -/
def Rmw.meets (r : Rmw) (pa n : Nat) : Bool := decide (r.piece.pa < pa + n) && decide (pa < r.piece.pa + r.piece.len)

/-- Atomics between their read and their write take the value a write at the home has given their word: they read after
it (R236). What one has read in an L1 the write leaves. -/
def State.reread (s : State) (pa n : Nat) : State :=
  { s with rmws := s.rmws.map fun (r : Rmw) =>
      if r.meets pa n && !r.inL1 then { r with old := s.bytesAt r.piece.pa r.piece.len } else r }

/-- The state after a write that may fall between the read and the write of the atomics `ok` holds of (R198, R321): they
keep the value they read. -/
def State.sparing (s t : State) (ok : Rmw → Bool) : State :=
  { t with rmws := t.rmws.map fun (r : Rmw) =>
      match s.rmws.find? fun (x : Rmw) => x.agent = r.agent with
      | some x => if ok x then x else r
      | none => r }

/-- Bytes written to memory at their home, the poison of whole sectors cleared, monitors tested (R80, R130, R194). -/
def State.homeWrite (s : State) (pa : Nat) (bs : List Byte) : State :=
  ((((s.pokeBytes pa bs).reread pa bs.length).cleanSectors pa bs.length).testMonitors pa bs.length).rereadDeps pa

/-- Bytes written to host memory through the IOD (R52, R58). -/
def State.hostWrite (s : State) (pa : Nat) (bs : List Byte) : State := (s.pokeBytes pa bs).reread pa bs.length

/-- One bit of a team's memory, by bit address. -/
def Team.tmBit (t : Team) (a : Nat) : Bool := (NMap.get 0#8 t.tm (a / 8)).getLsbD (a % 8)

/-- The byte an operation writes: bits taken from team memory, the others as they stand (R209). -/
def DstByte.value (d : DstByte) (t : Team) (old : Byte) : Byte :=
  BitVec.ofNat 8 (((List.range 8).map fun i =>
    let b := match d.src.getD i none with
      | some a => t.tmBit a
      | none => old.getLsbD i
    if b then 2 ^ i else 0).sum)

/-- The bytes an operation writes to one line, in order, as one write: the poison of the sectors it covers whole
cleared, monitors tested (R80, R194). -/
def State.writeDst (s : State) (t : Team) (line : Nat) (ds : List DstByte) : State :=
  let s := ds.foldl (fun (s : State) d => s.pokeBytes d.pa [d.value t (s.byteAt d.pa)]) s
  let s := (List.range 4).foldl (fun (s : State) i =>
    if (List.range 32).all fun j => ds.any fun d => d.pa == 128 * line + 32 * i + j
    then s.cleanSectors (128 * line + 32 * i) 32 else s) s
  if ds.isEmpty then s else ((s.reread (128 * line) 128).testMonitors (128 * line) 128).rereadDeps (128 * line)

/-- The counter of a queue: the copy and gather queues share one (R200). -/
def counterOf (queue : Nat) : Nat := if queue = 1 then 0 else queue

/-- Whether an operation is the one a queue and a sequence number name. -/
def EngineOp.is (o : EngineOp) (queue : Nat) (seq : Word) : Bool := counterOf o.queue == counterOf queue && o.seq == seq

/-- The operations of a core with one changed. -/
def State.modOp (s : State) (core queue : Nat) (seq : Word) (f : EngineOp → EngineOp) : State :=
  s.modCore core fun k => { k with ops := k.ops.map fun o => if o.is queue seq then f o else o }

/-- The operation of a core a queue and a sequence number name. -/
def State.op (s : State) (core queue : Nat) (seq : Word) : Option EngineOp :=
  (s.core core).ops.find? fun o => o.is queue seq

/-- The timestamps of a line after a store or atomic with lower bound `t`: one past its lease (R75, R76). -/
def storeTs (t : DWord) (l : L2Line) : DWord := tmax t (l.rts + 1#64)

/-- A line stamped by a write at logical time `w` (R75, R76). -/
def State.stamp (s : State) (line : Nat) (w : DWord) : State := s.modL2 line fun l => { l with wts := w, rts := w }

/-- The engine that owns a line writes what it holds of the line and releases it: at its own time, or at a recall
(R76, R78). -/
def State.releaseLine (s : State) (line : Nat) : State :=
  match (s.l2Line line).owner with
  | none => s
  | some (core, queue, seq) =>
    let s := match s.op core queue seq with
      | none => s
      | some o =>
        match s.team core o.slot with
        | none => s
        | some t =>
          let mine := o.dst.filter fun (d : DstByte) => d.pa / 128 = line
          let w := storeTs o.ets (s.l2Line line)
          let s := ((s.l2Touch line o.cache true).stamp line w).writeDst t line mine
          s.modOp core queue seq fun o => { o with ets := w, dst := o.dst.filter fun (d : DstByte) => d.pa / 128 ≠ line }
    let s := s.modL2 line fun l => { l with owner := none }
    if s.ownWait.isEmpty then s else s.later [.event (.ownershipGrant line)]

end Sys2Proof.Machine
end

