-- ==== Sys2Proof/Machine/Access.lean ====
section
/-! DEFINITION. Translation, and the accesses of a thread, an engine and the device to global memory: the four-level
walk (R134), the region classes (R71 to R73), the leases (R75, R76) and where an access of each scope is performed
(R197, R316). -/

namespace Sys2Proof.Machine

/-! ### Translation -/

/-- The permission an access needs (R317). -/
inductive Need where
  | rd | wr | rw | ex
  deriving DecidableEq, Repr

/-- Whether the access writes, for the DIRTY bit and for AUX0 of a PAGEFAULT record (R137). -/
def Need.writes : Need → Bool
  | .wr | .rw => true
  | .rd | .ex => false

/-- A bit of a page table entry. -/
def pteBit (e : DWord) (i : Nat) : Bool := e.getLsbD i

/-- The physical address bits 51:12 of an entry (R134). -/
def ptePpn (e : DWord) : Nat := e.toNat / 4096 % 2 ^ 40

/-- Whether an entry that maps a page grants what an access needs (R134). -/
def pteGrants (e : DWord) : Need → Bool
  | .rd => pteBit e 2
  | .wr => pteBit e 3
  | .rw => pteBit e 2 && pteBit e 3
  | .ex => pteBit e 4

/-- Bits 63:52 and 11 of an entry are zero (R134). -/
def pteZeros (e : DWord) : Bool := e.toNat / 2 ^ 52 == 0 && !pteBit e 11

/-- The layout of an entry that names a table: valid, LEAF 0, bits 10:2 zero (R134). -/
def pteTable (e : DWord) : Bool := pteBit e 0 && !pteBit e 1 && pteZeros e && e.toNat / 4 % 512 == 0

/-- Bytes a leaf of a level maps, as a power of two (R134). -/
def leafLog (level : Nat) : Nat := 12 + 9 * level

/-- The sixteen entries of a 64 KiB page: identical level-0 leaves with P64, aligned, with an aligned PPN; the PPN of
the member is that of the page (R134). -/
def State.p64Ok (s : State) (addr : Nat) (e : DWord) : Bool :=
  ptePpn e % 16 == 0 &&
  (List.range 16).all fun i =>
    let x := s.numAt (addr / 128 * 128 + 8 * i) 8
    let mask := 2 ^ 64 - 1 - 768
    Nat.land x mask == Nat.land e.toNat mask

/-- The layout of a leaf of a level (R134): none at level 3, P64 at level 0 only, the PPN aligned to the page. -/
def State.leafOk (s : State) (addr level : Nat) (e : DWord) : Bool :=
  pteBit e 0 && pteBit e 1 && pteZeros e && decide (level ≤ 2) &&
  (if level = 0 then !pteBit e 10 || s.p64Ok addr e
   else !pteBit e 10 && ptePpn e * 4096 % 2 ^ leafLog level == 0)

/-- The index of an address in a table of a level (R134). -/
def vaIndex (va level : Nat) : Nat :=
  if level = 3 then va / 2 ^ 39 % 131072 else va / 2 ^ leafLog level % 512

/-- The walk from a table of a level: the entry's address, the entry, its level, or none for a translation fault. -/
def State.walk (s : State) (va : Nat) : Nat → Nat → Option (Nat × DWord × Nat)
  | 0, table =>
    let addr := table + 8 * vaIndex va 0
    let e := BitVec.ofNat 64 (s.numAt addr 8)
    if s.leafOk addr 0 e then some (addr, e, 0) else none
  | level + 1, table =>
    let addr := table + 8 * vaIndex va (level + 1)
    let e := BitVec.ofNat 64 (s.numAt addr 8)
    if pteBit e 1 then
      if s.leafOk addr (level + 1) e then some (addr, e, level + 1) else none
    else if pteTable e then s.walk va level (ptePpn e * 4096)
    else none

/-- The root of an address space (R124). -/
def State.ptroot (s : State) (asid : Nat) : PtRoot := NMap.get {} s.ptroots asid

/-- ACC, and DIRTY on a write, set in an entry by a device-scope atomic (R134). -/
def State.markPte (s : State) (addr : Nat) (e : DWord) (write : Bool) : State × DWord :=
  let e' := e ||| (if write then 0x300#64 else 0x100#64)
  if e' = e then (s, e)
  else
    let bs := leBytes 8 e'.toNat
    (if paRange addr = .local_ then
      let s := (s.releaseLine (addr / 128)).l2Touch (addr / 128) none true
      (s.stamp (addr / 128) (storeTs 0#64 (s.l2Line (addr / 128)))).homeWrite addr bs
     else s.hostWrite addr bs, e')

/-- The physical address an entry of a level gives a virtual address (R134). -/
def pteTarget (e : DWord) (level va : Nat) : Nat :=
  if level = 0 && pteBit e 10 then ptePpn e / 16 * 65536 + va % 65536
  else ptePpn e * 4096 / 2 ^ leafLog level * 2 ^ leafLog level + va % 2 ^ leafLog level

/-- What a translation gives: the physical address, the region class and the CACHE bit (R134). -/
structure Mapped where
  pa : Nat
  cls : Nat
  cache : Bool
  deriving DecidableEq, Repr

def mappedOf (e : DWord) (level va : Nat) : Mapped :=
  { pa := pteTarget e level va, cls := e.toNat / 32 % 4, cache := pteBit e 7 }

/-- The walk of an access, which sets ACC and DIRTY and caches the entry; none is a translation fault (R134). -/
def State.translateWalk (s : State) (asid : Nat) (need : Need) (va : Nat) : Option (State × Mapped) :=
  let root := s.ptroot asid
  if !root.valid then none
  else match s.walk va 3 root.root.toNat with
    | none => none
    | some (addr, e, level) =>
      if !pteGrants e need then none
      else
        let r := s.markPte addr e need.writes
        let entry : TlbEntry := { asid := asid, page := va / 4096, pte := r.2, level := level }
        let rest := r.1.tlb.filter fun (t : TlbEntry) => !(t.asid = asid && t.page = va / 4096)
        some ({ r.1 with tlb := entry :: rest }, mappedOf r.2 level va)

/-- The translation of an address: from the cached entry of its page when that grants the access, otherwise by a
walk (R134); none is a translation fault, as everywhere in a space whose root is not valid (R124). -/
def State.translate (s : State) (asid : Nat) (need : Need) (va : Nat) : Option (State × Mapped) :=
  match s.tlb.find? fun t => t.asid = asid && t.page = va / 4096 && (s.ptroot asid).valid with
  | some t =>
    if pteGrants t.pte need && (!need.writes || pteBit t.pte 9) then some (s, mappedOf t.pte t.level va)
    else s.translateWalk asid need va
  | none => s.translateWalk asid need va

/-! ### The pieces of an access -/

/-- The length of the piece of an access that starts at an address, at most up to the next multiple of `unit`. -/
def pieceLen (unit va n : Nat) : Nat := min n (unit - va % unit)

/-- The pieces of `n` bytes from `va`, every page translated before any of them is performed; a page that does not
translate gives the address within it at which the access first touches it (R135, R247). `fuel` bounds the pieces. -/
def State.pieces (s : State) (asid : Nat) (need : Need) : Nat → Nat → Nat → State × (Sum Nat (List Piece))
  | 0, _, _ => (s, .inr [])
  | fuel + 1, va, n =>
    if n = 0 then (s, .inr [])
    else match s.translate asid need va with
      | none => (s, .inl va)
      | some (s, m) =>
        let len := pieceLen 32 va n
        match s.pieces asid need fuel (va + len) (n - len) with
        | (s, .inl a) => (s, .inl a)
        | (s, .inr ps) => (s, .inr ({ va := va, pa := m.pa, len := len, cls := m.cls, cache := m.cache } :: ps))

/-- Whether row 7 of R317 refuses a piece: region class 3, a write to a read-shared page, the register range or an
unassigned range, an aperture offset beyond its window (R46, R53, R71). -/
def State.refuses (s : State) (write : Bool) (p : Piece) : Bool :=
  p.cls == 3 || (p.cls == 1 && write) ||
  match paRange p.pa with
  | .registers | .unassigned => true
  | .aperture n x => decide (2 ^ (min (s.aperture n).size.toNat 28 + 12) ≤ x + p.len - 1)
  | .local_ | .host => false

/-- Both host ports are down (R59). -/
def State.hostDown (s : State) : Bool :=
  (NMap.get {} s.hostPorts 0 : HostPort).width == 0#4 && (NMap.get {} s.hostPorts 1 : HostPort).width == 0#4

/-! ### The L1s -/

/-- The core whose L1 holds a line for an agent (R186). -/
def Who.l1Core (w : Who) (line : Nat) : Nat :=
  match w.fused with
  | none => w.core
  | some (o, cx, cy) => let p := line % (cx * cy); o + p % cx + 16 * (p / cx)

/-- The copy of a line an L1 holds. -/
def State.l1Line (s : State) (core line : Nat) : Option L1Line := (s.core core).l1.find? line

/-- An L1 with its entry of a line set. -/
def State.l1Set (s : State) (core line : Nat) (c : L1Line) : State :=
  s.modCore core fun k => { k with l1 := k.l1.put line c }

/-- An L1 without its copy of a line. -/
def State.l1Drop (s : State) (core line : Nat) : State := s.modCore core fun k => { k with l1 := k.l1.del line }

/-- A dirty private copy written to its home, poisoned sectors as such; it stays as a clean copy (R72, R80, R328). -/
def State.l1WriteBack (s : State) (core line : Nat) : State :=
  match s.l1Line core line with
  | some c =>
    if c.dirty then
      let s := (s.releaseLine line).l2Touch line none true
      let s := s.homeWrite (line * 128) c.data
      let bad := c.poison.foldl (fun m i => NMap.put m (4 * line + i) true) s.poison
      { s with poison := bad }.l1Set core line { c with dirty := false }
    else s
  | none => s

/-- The L1 of a core before it takes another copy of a line: a dirty private copy is evicted first (R72). -/
def State.l1Clear (s : State) (core line : Nat) : State :=
  if (s.l1Line core line).any fun (c : L1Line) => c.dirty then (s.l1WriteBack core line).l1Drop core line else s

/-- An L1 with a copy of a line; a full L1 gives up a line that a free value names, a dirty one written back
(R72; 2,048 lines of 256 KiB). -/
def State.l1Put (s : State) (core line : Nat) (c : L1Line) : State :=
  let held := (s.core core).l1
  let s := if held.length < 2048 || (held.find? line).isSome then s
    else
      let v := (held.getD (Config.l1Victim s.free % held.length) (0, c)).1
      ((s.drawn).l1WriteBack core v).l1Drop core v
  s.l1Set core line c

/-- Some bytes of a line's data replaced from an offset up. -/
def spliceBytes (data : List Byte) (off : Nat) (bs : List Byte) : List Byte :=
  data.take off ++ bs ++ data.drop (off + bs.length)

/-! ### Loads and stores of one piece of local memory -/

/-- Whether an access of a scope to a piece uses the L1 (R316): not at `.sys`, not where CACHE is 0. -/
def usesL1 (scope : BitVec 2) (p : Piece) : Bool := scope != 3#2 && p.cache

/-- A load of a coherent line at its home that leaves a copy in the L1; the home sends the data only where the copy
the L1 holds has another write timestamp (R70, R75). -/
def State.renew (s : State) (w : Who) (p : Piece) (hint : Option (BitVec 2)) : State :=
  let line := p.pa / 128
  let c := w.l1Core line
  let s := ((s.l1Clear c line).releaseLine line).l2Touch line hint false
  let l := s.l2Line line
  let q := tmax (s.core w.core).pts l.wts
  let held := (s.l1Line c line).any fun (x : L1Line) => x.cls == 2 && x.wts == l.wts
  let s := s.modL2 line fun l => { l with rts := tmax l.rts (q + 1023#64) }
  let copy : L1Line := { asid := w.asid, page := p.va / 4096, cls := 2, data := s.bytesAt (line * 128) 128,
                         dirty := false, wts := l.wts, rts := q + 1023#64, since := s.cclk, poison := s.poisonOf line }
  ((if held then s else s.netCount (line * 128) 128).l1Put c line copy).raisePts w.core q

/-- A load performed at the home with no copy taken (R316): a coherent line takes the lease of a load (R75). -/
def State.homeLoad (s : State) (w : Who) (p : Piece) (hint : Option (BitVec 2)) : State :=
  let line := p.pa / 128
  let s := ((s.releaseLine line).l2Touch line hint false).netCount p.pa p.len
  if p.cls = 2 then
    let q := tmax (s.core w.core).pts (s.l2Line line).wts
    (s.modL2 line fun l => { l with rts := tmax l.rts (q + 1023#64) }).raisePts w.core q
  else s

/-- A fill of the L1 with a private or read-shared line (R72, R73). -/
def State.l1Fill (s : State) (w : Who) (p : Piece) (hint : Option (BitVec 2)) : State :=
  let line := p.pa / 128
  let c := w.l1Core line
  let s := ((s.l1Clear c line).releaseLine line).l2Touch line hint false
  let copy : L1Line := { asid := w.asid, page := p.va / 4096, cls := p.cls, data := s.bytesAt (line * 128) 128,
                         dirty := false, wts := 0#64, rts := 0#64, since := s.cclk, poison := s.poisonOf line }
  (s.netCount (line * 128) 128).l1Put c line copy

/-- The bytes of a piece a copy holds. -/
def L1Line.read (c : L1Line) (p : Piece) : List Byte := (c.data.drop (p.pa % 128)).take p.len

/-- The copy that serves a load of one piece of local memory at a scope: of a coherent line one whose lease the core's
pts has not passed, taken less than 65,536 CCLK ago (R72 to R75, R239, R316). -/
def State.l1Hit (s : State) (w : Who) (scope : BitVec 2) (p : Piece) : Option L1Line :=
  if usesL1 scope p && paRange p.pa == .local_ then
    (s.l1Line (w.l1Core (p.pa / 128)) (p.pa / 128)).filter fun c =>
      if p.cls = 2 then
        c.cls == 2 && decide ((s.core w.core).pts.toNat ≤ c.rts.toNat) && decide (s.cclk < c.since + 65536)
      else c.cls != 2
  else none

/-- A load of one piece of local memory at a scope (R72 to R75, R316). -/
def State.loadLocal (s : State) (w : Who) (scope : BitVec 2) (hint : Option (BitVec 2)) (p : Piece) :
    State × List Byte :=
  match s.l1Hit w scope p with
  | some c => (if p.cls = 2 then s.raisePts w.core c.wts else s, c.read p)
  | none =>
    let s := if !usesL1 scope p then s.homeLoad w p hint else if p.cls = 2 then s.renew w p hint else s.l1Fill w p hint
    (s, s.bytesAt p.pa p.len)

/-- What the home of a piece waits for before it answers a load that no copy serves: the line's release by an engine
that owns it, and the eviction of a dirty copy that a copy of the load replaces (R72, R78). -/
def State.readied (s : State) (w : Who) (scope : BitVec 2) (p : Piece) : State :=
  let line := p.pa / 128
  if paRange p.pa ≠ .local_ || (s.l1Hit w scope p).isSome then s
  else (if usesL1 scope p then s.l1Clear (w.l1Core line) line else s).releaseLine line

/-- The lowest byte of a piece in a poisoned sector of the copy that serves it, or of memory (R80). -/
def State.pieceBad (s : State) (w : Who) (scope : BitVec 2) (p : Piece) : Option Nat :=
  match s.l1Hit w scope p with
  | some c => ((List.range p.len).map (p.pa + ·)).find? fun a => c.poison.contains (a / 32 % 4)
  | none => s.firstPoison p.pa p.len

/-- A copy that an L1 holds of a coherent line after a write at logical time `t` (R75). -/
def State.l1Refresh (s : State) (core line : Nat) (t : DWord) : State :=
  match s.l1Line core line with
  | some c => s.l1Set core line { c with
      cls := 2, data := s.bytesAt (line * 128) 128, dirty := false, wts := t, rts := t, since := s.cclk,
      poison := s.poisonOf line }
  | none => s

/-- A write performed at its home, of a coherent line with the timestamps of a store (R75): the state and the
timestamp its completion carries. -/
def State.storeHome (s : State) (w : Who) (p : Piece) (hint : Option (BitVec 2)) (bs : List Byte) : State × DWord :=
  let line := p.pa / 128
  let s := ((if p.cls = 2 then s.l1Clear (w.l1Core line) line else s).releaseLine line).l2Touch line hint true
  if p.cls = 2 then
    let t := storeTs (s.core w.core).pts (s.l2Line line)
    let s := (s.stamp line t).homeWrite p.pa bs
    (s.l1Refresh (w.l1Core line) line t, t)
  else (s.homeWrite p.pa bs, 0#64)

/-- The bytes of a write, and the poison of the sectors it covers whole, in a copy. -/
def L1Line.write (c : L1Line) (p : Piece) (bs : List Byte) : L1Line :=
  let off := p.pa % 128
  { c with
    data := spliceBytes c.data off bs,
    poison := c.poison.filter fun i => !(decide (off ≤ 32 * i) && decide (32 * i + 32 ≤ off + bs.length)) }

/-- A copy of a line that is not coherent, where an L1 holds one, with bytes of a write performed at the home. -/
def State.l1Update (s : State) (core : Nat) (p : Piece) (bs : List Byte) : State :=
  match s.l1Line core (p.pa / 128) with
  | some c => if c.cls = 2 then s else s.l1Set core (p.pa / 128) (c.write p bs)
  | none => s

/-- Two agents that lie in one instance of the narrower of two scopes (R235). -/
def Who.shares (w x : Who) (a b : BitVec 2) : Bool :=
  let m := min a.toNat b.toNat
  decide (2 ≤ m) || (w.launch == x.launch && w.core == x.core && w.slot == x.slot)
    || (m == 1 && w.launch == x.launch && w.cluster == x.cluster)

/-- Atomics that have read their word in an L1 take what a store of their instance has put there (R236). -/
def State.rereadL1 (s : State) (w : Who) (scope : BitVec 2) (c : Nat) (p : Piece) : State :=
  { s with rmws := s.rmws.map fun (r : Rmw) =>
      if r.meets p.pa p.len && r.inL1 && !r.xst && w.shares r.who scope r.scope
          && { r.who with core := r.unit - 1 }.l1Core (p.pa / 128) == c then
        match s.l1Line c (p.pa / 128) with
        | some x => { r with old := x.read r.piece }
        | none => r
      else r }

/-- A store of one piece of local memory at a scope (R72, R75, R316). A private line takes it in the L1; at its home, a
copy of the line that the L1 holds takes its bytes too, so that the lane reads its own write (R237). An atomic at a unit
outside the store's instances may have read its word before it and write it after it (R198, R321). -/
def State.storeLocal (s : State) (w : Who) (scope : BitVec 2) (hint : Option (BitVec 2)) (p : Piece) (bs : List Byte) :
    State × DWord :=
  let line := p.pa / 128
  let c := w.l1Core line
  if p.cls = 0 && usesL1 scope p then
    let s := if (s.l1Line c line).any fun (x : L1Line) => x.cls != 2 then s else s.l1Fill w p hint
    match s.l1Line c line with
    | some x =>
      ((s.l1Set c line { x.write p bs with cls := 0, asid := w.asid, page := p.va / 4096, dirty := true }).rereadL1 w scope c p,
        0#64)
    | none => (s, 0#64)
  else
    let r := s.storeHome w p hint bs
    let t := s.sparing r.1 fun (x : Rmw) => x.xst || !w.shares x.who scope x.scope
    (if p.cls = 2 then t else (t.l1Update c p bs).rereadL1 w scope c p, r.2)

end Sys2Proof.Machine
end

