-- ==== Sys2Proof/Machine/Report.lean ====
section
/-! DEFINITION. What the device reports: interrupts (R140), the fault queue and the fault sinks (R135 to R139), event
records (R179), and the device's own accesses to physical memory (R52, R76). -/

namespace Sys2Proof.Machine

/-! ### Accesses of the device, the host and peers to physical memory -/

/-- A load by an agent outside every team (R52, R76). -/
def State.deviceLoad (s : State) (pa n : Nat) : State × List Byte :=
  if paRange pa = .local_ then
    let s := (s.releaseLine (pa / 128)).l2Touch (pa / 128) none false
    let s := s.modL2 (pa / 128) fun l => { l with rts := tmax l.rts s.bts }
    (s, s.bytesAt pa n)
  else (s, s.bytesAt pa n)

/-- A store by an agent outside every team, with a lower bound of its timestamp (R52, R76). -/
def State.deviceStoreAt (s : State) (t : DWord) (pa : Nat) (bs : List Byte) : State :=
  if paRange pa = .local_ then
    let line := pa / 128
    let s := (s.releaseLine line).l2Touch line none true
    (s.stamp line (storeTs t (s.l2Line line))).homeWrite pa bs
  else { s.hostWrite pa bs with outTs := tmax s.outTs t }

/-- A store by an agent outside every team (R76). -/
def State.deviceStore (s : State) (pa : Nat) (bs : List Byte) : State := s.deviceStoreAt s.bts pa bs

/-! ### Interrupts -/

/-- An INT_STAT bit set by an event: the message of its vector is sent when the bit rises unmasked (R140). -/
def State.setInt (s : State) (n : Nat) : State :=
  let s' := { s with cmd := { s.cmd with intStat := s.cmd.intStat ||| (1#6 <<< n) } }
  if s.cmd.intStat.getLsbD n || s.cmd.intMask.getLsbD n then s' else { s' with msix := s.msix ++ [n] }

/-! ### Fault records -/

/-- The 32 bytes of a fault record with its V byte (R136). -/
def FaultRec.bytes (r : FaultRec) (v : Nat) : List Byte :=
  leBytes 2 r.cause ++ leBytes 1 r.src ++ leBytes 1 r.die ++ leBytes 2 r.core ++ leBytes 2 r.lane ++ leBytes 4 r.team
    ++ leBytes 1 r.aux0 ++ leBytes 1 r.aux1 ++ leBytes 2 0 ++ leBytes 8 (r.addr % 2 ^ 56) ++ leBytes 4 r.launch.toNat
    ++ leBytes 1 r.asid ++ leBytes 1 r.queue ++ leBytes 1 0 ++ leBytes 1 v

/-- The V byte of the record of an index in a ring of 2^size records (R136). -/
def vByte (index size : Nat) : Nat := if index / 2 ^ size % 2 = 0 then 128 else 0

/-- A record stored as two 16-byte stores (R136). -/
def State.storeRecord (s : State) (pa : Nat) (r : FaultRec) (v : Nat) : State :=
  (s.deviceStore pa ((r.bytes v).take 16)).deviceStore (pa + 16) ((r.bytes v).drop 16)

/-- A record written to the fault queue ring at FQ_WR (R124, R135). -/
def State.fqWrite (s : State) (r : FaultRec) : State :=
  let size := s.cmd.fqSize.toNat
  let i := s.cmd.fqWr.toNat
  let s := s.storeRecord (s.cmd.fqBase.toNat + 32 * (i % 2 ^ size)) r (vByte i size)
  ({ s with cmd := { s.cmd with fqWr := s.cmd.fqWr + 1#32 } }).setInt 0

/-- Room in the fault queue ring. -/
def State.fqRoom (s : State) : Bool := decide ((s.cmd.fqWr - s.cmd.fqRd).toNat < 2 ^ s.cmd.fqSize.toNat)

/-- A record for the fault queue: written, or held in fault order while the ring is full (R135). `repl` names the
launch whose sink record it replaces (R139). -/
def State.fqPut (s : State) (r : FaultRec) (repl : Option Nat) : State :=
  if s.fqRoom && s.cmd.fqHeld.isEmpty then s.fqWrite r
  else { s with cmd := { s.cmd with fqHeld := s.cmd.fqHeld ++ [(r, repl)] } }

/-- Held records written while the ring has room (R135). `fuel` bounds them. -/
def State.fqDrain : Nat → State → State
  | 0, s => s
  | fuel + 1, s =>
    match s.cmd.fqHeld with
    | [] => s
    | (r, _) :: rest =>
      if s.fqRoom then (({ s with cmd := { s.cmd with fqHeld := rest } }).fqWrite r).fqDrain fuel else s

/-- A PAGEFAULT record, one outstanding for each address space and page (R135). -/
def State.notePage (s : State) (w : PageWait) (r : FaultRec) : State :=
  if s.cmd.faultsOut.contains (w.asid, w.page) then s
  else ({ s with cmd := { s.cmd with faultsOut := s.cmd.faultsOut ++ [(w.asid, w.page)] } }).fqPut r none

/-- Some bytes of memory all zero. -/
def State.zeroAt (s : State) (pa n : Nat) : Bool := (s.bytesAt pa n).all fun b => b == 0#8

/-- Whether the fault sink of a launch cannot take a record now (R139). -/
def State.sinkUnusable (s : State) (sink : Nat) : Bool :=
  sink % 64 != 0 || (paRange sink != .local_ && paRange sink != .host)
  || (paRange sink == .host && s.hostDown)
  || (let size := s.numAt (sink + 8) 1
      let wr := s.numAt sink 4
      decide (size < 2) || decide (16 < size) || !s.zeroAt (sink + 9) 3 || !s.zeroAt (sink + 16) 48
      || (s.firstPoison sink 64).isSome || (s.firstPoison (sink + 64 + 32 * (wr % 2 ^ size)) 32).isSome)

/-- A fault record for a launch's sink (R138), or for the fault queue while the sink is unusable (R139). -/
def State.sinkPut (s : State) (launch : Nat) (r : FaultRec) : State :=
  match s.launch launch with
  | none => s
  | some l =>
    let r := { r with launch := bits l.record.doneSeq 0 32, asid := l.asid, queue := l.queue }
    let s := s.modLaunch launch fun l => { l with faulted := true }
    let sink := l.record.sink
    if s.sinkUnusable sink then s.fqPut r (some launch)
    else
      let wr := s.numAt sink 4
      let rd := s.numAt (sink + 4) 4
      let size := s.numAt (sink + 8) 1
      let s := if (wr + 2 ^ 32 - rd) % 2 ^ 32 < 2 ^ size then
          (s.deviceStore sink (leBytes 4 ((wr + 1) % 2 ^ 32))).storeRecord (sink + 64 + 32 * (wr % 2 ^ size)) r
            (vByte wr size)
        else s.deviceStore (sink + 12) (leBytes 4 (min (2 ^ 32 - 1) (s.numAt (sink + 12) 4 + 1)))
      if (wr + 2 ^ 32 - rd) % 2 ^ 32 < 2 ^ size && Nat.testBit l.record.flags 3 then s.setInt 1 else s

/-! ### Event records -/

/-- The tag of a launch on a core (R179). -/
def Core.tagOf (k : Core) (launch : Nat) : Nat :=
  match List.find? (fun (e : Nat × Nat) => e.2 = launch) k.tags with
  | some e => e.1
  | none => 0

/-- An event record sent to a core's event queue: it enters when the queue has room, and waits behind earlier ones
otherwise (R179). The firmware context then takes it; a record aimed at a deep-idle row wakes the row (R33). -/
def State.sendEvent (s : State) (core : Nat) (r : EventRec) : State :=
  let k := s.core core
  let r := { r with ltag := k.tagOf r.launch }
  let s := if k.deepIdle then s.later [.event (.rowWake (dieOfCore core) (core % 160 / 16))] else s
  if k.eq.length < 256 && k.eqHeld.isEmpty && !k.deepIdle then
    (s.setCore core { k with eq := k.eq ++ [r] }).later [.event (.firmwareEvent core)]
  else (s.setCore core { k with eqHeld := k.eqHeld ++ [r] }).later [.event (.eqRecordEnqueue core)]

end Sys2Proof.Machine
end

