-- ==== Sys2Proof/Machine/Domain.lean ====
section
/-! DEFINITION. The termination detector: the lanes that participate in a domain, those it counts as blocked, its test,
and a lane that leaves a domain (R158, R161). -/

namespace Sys2Proof.Machine

/-! ### Lanes of all teams -/

/-- References of the lanes of a team that `f` holds of, in lane order. -/
def Team.refs (t : Team) (core slot : Nat) (f : Agent → Bool) : List AgentRef :=
  t.lanes.filterMap fun (e : Nat × Agent) => if f e.2 then some (.lane core slot e.1) else none

/-- The lanes of all teams that `f` holds of. -/
def State.lanesWhere (s : State) (f : Agent → Bool) : List AgentRef :=
  s.cores.flatMap fun (c : Nat × Core) => c.2.teams.flatMap fun (t : Nat × Team) => t.2.refs c.1 t.1 f

/-! ### Fields a unit keeps in memory -/

/-- A write of a unit at a home, as a device-scope atomic of a requester with program timestamp `t` (R76). -/
def State.unitWrite (s : State) (t : DWord) (pa : Nat) (bs : List Byte) : State := s.deviceStoreAt t pa bs

/-- The timestamp of a line at its home. -/
def State.wtsOf (s : State) (pa : Nat) : DWord := (s.l2Line (pa / 128)).wts

/-! ### Termination domains -/

/-- Bursts of a bulk read that had started when a unit of it failed, and are neither delivered nor failed (R214). -/
def EngineOp.startedLeft (o : EngineOp) : List Nat := o.started.filter fun b => !o.unitsDone.contains b

/-- An operation that may still bear a tadpole: a bulk read with bursts neither delivered, failed nor found wholly outside
(R158, R206); of one that ends in error, those it had started (R214, R215). -/
def EngineOp.mayBear (o : EngineOp) : Bool :=
  match o.phase with
  | .failed _ _ _ => !o.startedLeft.isEmpty
  | _ => decide (o.unitsDone.length < o.units)

/-- A tadpole of an operation is alive. -/
def Core.tadAlive (k : Core) (o : EngineOp) : Bool := o.queue == 0 && k.tads.any fun (e : Nat × Tadpole) => e.2.seq == o.seq

/-- Whether a participant is blocked: parked in WTAKE on a list of the domain, no bulk read of its left to bear a
tadpole, and none of its tadpoles left to append an item (R158, R207). -/
def State.blockedIn (s : State) (dom : Nat) (core slot lane : Nat) (a : Agent) : Bool :=
  a.domain == some dom &&
  (match a.status with
   | .parked (.take w) => w.domain == dom
   | _ => false) &&
  !(s.core core).ops.any fun (o : EngineOp) =>
    o.slot == slot && o.lane == lane && (o.mayBear || (s.core core).tadAlive o)

/-- Participants counted as blocked. -/
def State.blockedCount (s : State) (dom : Nat) : Nat :=
  ((s.cores.flatMap fun (c : Nat × Core) => c.2.teams.flatMap fun (t : Nat × Team) =>
    t.2.lanes.filter fun (l : Nat × Agent) => s.blockedIn dom c.1 t.1 l.1 l.2)).length

/-- A lane returned from WTAKE without an item (R353). -/
def State.takeNothing (s : State) (quiescent : Bool) (r : AgentRef) : State :=
  match s.agentAt r with
  | some a =>
    match a.status with
    | .parked (.take w) =>
      s.putAgent r ((a.putReg w.dest (if quiescent then 1#32 else 0#32)).setPred w.pred false).wake
    | _ => s
  | none => s

/-- Lanes parked in WTAKE on a domain. -/
def State.takersOf (s : State) (dom : Nat) : List AgentRef :=
  s.lanesWhere fun a => match a.status with
    | .parked (.take w) => w.domain == dom
    | _ => false

/-- The test of the termination detector, BLOCKED first brought up to date (R158, R161). -/
def State.tdTest (s : State) (t : DWord) (dom : Nat) : State :=
  let b := s.blockedCount dom
  let s := if s.numAt (dom + 8) 4 = b then s else s.unitWrite t (dom + 8) (leBytes 4 b)
  let parts := s.numAt (dom + 4) 4
  let flags := s.numAt (dom + 24) 4
  if s.numAt (dom + 12) 4 = 0 && s.numAt (dom + 16) 8 = 0 && 1 ≤ parts && s.numAt (dom + 8) 4 = parts
      && flags / 2 % 2 = 0 then
    let s := s.unitWrite t (dom + 24) (leBytes 4 (flags + 2))
    let s := (s.takersOf dom).foldl (fun s r => s.takeNothing true r) s
    let b := s.blockedCount dom
    if s.numAt (dom + 8) 4 = b then s else s.unitWrite t (dom + 8) (leBytes 4 b)
  else s

/-- What a thread holds of the units given up at its end: its monitors, the atomics and the MOORs it has begun. -/
def State.leaveUnits (s : State) (r : AgentRef) : State :=
  { s with
    monitors := s.monitors.filterMap fun (m : Monitor) =>
      let ls := m.lanes.filter fun x => x ≠ r
      if ls.isEmpty then none else some { m with lanes := ls },
    rmws := s.rmws.filter fun (x : Rmw) => x.agent ≠ r,
    moors := s.moors.filter fun (x : Mooring) => x.agent ≠ r }

/-- The routine contexts of a core whose launch `f` holds of are removed, with what they hold of the units (R178). -/
def State.dropContexts (s : State) (core : Nat) (f : Option Nat → Bool) : State :=
  ((s.core core).contexts.filter fun (e : Nat × KeeperCtx) => f e.2.launch).foldl
    (fun (s : State) e => (s.leaveUnits (.keeper core e.1)).modCore core fun k => { k with contexts := k.contexts.del e.1 }) s

/-- A write of a launch at a logical time: its completion lies above it (R132). -/
def State.wroteAt (s : State) (n : Nat) (t : DWord) : State := s.modLaunch n fun l => { l with endTs := tmax l.endTs t }

/-- A lane leaves the domain it participates in (R158, R351). -/
def State.leaveDomain (s : State) (r : AgentRef) : State :=
  match s.agentAt r with
  | some a =>
    match a.domain with
    | some dom =>
      let s := s.putAgent r { a with domain := none }
      let t := (s.core (coreOfRef r)).pts
      (s.unitWrite t (dom + 4) (leBytes 4 (s.numAt (dom + 4) 4 - 1))).tdTest t dom
    | none => s
  | none => s

/-- Every lane of a team leaves the domain it participates in: its team has stopped (R158, R176). -/
def State.stopDomains (s : State) (core slot : Nat) : State :=
  match s.team core slot with
  | none => s
  | some t => (t.refs core slot fun a => a.domain.isSome).foldl State.leaveDomain s

end Sys2Proof.Machine
end

