-- ==== Sys2Proof/Machine/Ops.lean ====
section
/-! DEFINITION. The operations every meaning shares: the thread being executed and its registers, who performs its
accesses, loads, stores and atomics at a virtual address, the words that raise ILLEGAL, taking a trap and returning
from one (R163 to R177, R275, R317, R334, R370, R371). -/

namespace Sys2Proof.Machine

/-! ### The thread being executed -/

/-- The kind of the thread being executed (R167). -/
inductive AgentKind where
  | team | tad | keeper
  deriving DecidableEq, Repr

def State.modAg (s : State) (f : Agent → Agent) : State := { s with ag := f s.ag }

/-- A v register of the thread. -/
def State.v (s : State) (r : Nat) : Word := s.ag.reg r

/-- A pair (R3): the odd register holds bits 63:32. -/
def State.pair (s : State) (r : Nat) : DWord := s.ag.reg (r + 1) ++ s.ag.reg r

/-- A predicate; p0 reads as true (R3). -/
def Agent.pred (a : Agent) (p : BitVec 3) : Bool := p = 0#3 || a.p.getLsbD p.toNat

def State.pred (s : State) (p : BitVec 3) : Bool := s.ag.pred p

/-- A predicate source after its inversion bit (R290). -/
def State.predX (s : State) (x : BitVec 1) (p : BitVec 3) : Bool := s.pred p ^^ (x == 1#1)

/-- The thread with a v register written. -/
def State.setV (s : State) (r : Nat) (x : Word) : State := s.modAg fun a => a.setReg r x

/-- The thread with a pair written. -/
def State.setPair (s : State) (r : Nat) (x : DWord) : State := s.modAg fun a => a.setPair r x

/-- The thread with a predicate written (R3). -/
def State.setP (s : State) (p : BitVec 3) (b : Bool) : State := s.modAg fun a => a.setPred p b

/-- The thread with consecutive registers written. -/
def State.setVs (s : State) (r : Nat) : List Word → State
  | [] => s
  | x :: xs => (s.setV r x).setVs (r + 1) xs

/-- Consecutive registers of the thread. -/
def State.vs (s : State) (r n : Nat) : List Word := (List.range n).map fun i => s.v (r + i)

/-- The thread past its word: the program counter at the next word, the pending set empty (R275). -/
def Agent.next (a : Agent) : Agent :=
  { a with pc := a.pc + 4#64, hints := {}, mates := [], parts := none, netGot := [], netUsed := 0 }

def State.advance (s : State) : State := s.modAg Agent.next

/-- The thread after a transfer of control (R275). -/
def State.jumpTo (s : State) (target : DWord) : State :=
  s.modAg fun a => { a with pc := target, hints := {}, mates := [], parts := none, netGot := [], netUsed := 0 }

/-- Marks registers that the scoreboard holds until their values arrive, and the return that releases them (R277). -/
def State.hold (s : State) (rs : List Nat) : State :=
  (s.modAg fun a => { a with held := a.held ++ rs }).later [.event (.loadReturn s.cur)]

/-- The core of the thread. -/
def State.coreNo (s : State) : Nat := coreOfRef s.cur

/-- The kind of the thread. -/
def State.kind (s : State) : AgentKind :=
  match s.cur with
  | .tad _ _ _ => .tad
  | .keeper _ _ => .keeper
  | _ => .team

/-- The team slot and the lane of the thread: a tadpole's are those of the issuer of its bulk read (R203). -/
def State.home (s : State) : Nat × Nat :=
  match s.cur with
  | .lane _ slot l => (slot, l)
  | .tad c slot _ => match (s.core c).tads.find? slot with
    | some t => (t.slot, t.lane)
    | none => (0, 0)
  | _ => (0, 0)

/-- The team the thread belongs to or was issued by (R203). -/
def State.myTeam (s : State) : Option Team :=
  match s.cur with
  | .lane c slot _ => s.team c slot
  | .tad c _ _ => s.team c s.home.1
  | _ => none

/-- The launch the thread belongs to; none in the firmware context. -/
def State.myLaunchNo (s : State) : Option Nat :=
  match s.cur with
  | .keeper c n => ((s.core c).contexts.find? n).bind KeeperCtx.launch
  | _ => s.myTeam.map Team.launch

def State.myLaunch (s : State) : Option Launch := s.myLaunchNo.bind s.launch

/-- The fused L1s of a team's cluster (R186). -/
def fusedOf (l : Launch) (t : Team) : Option (Nat × Nat × Nat) :=
  if Nat.testBit l.record.flags 0 && decide (1 < l.record.clusX * l.record.clusY) then
    some (t.origin, l.record.clusX, l.record.clusY) else none

/-- The cluster of a team: its origin core and the grid place of its first team (R141). -/
def Team.cluster (t : Team) : Nat × Nat × Nat × Nat := (t.origin, t.x - t.ci, t.y - t.cj, t.z)

/-- Who performs the thread's accesses. -/
def State.who (s : State) : Who :=
  { core := s.coreNo, asid := (s.myLaunch.map Launch.asid).getD 0, launch := s.myLaunchNo.getD 0,
    slot := s.home.1, lane := s.home.2,
    fused := match s.myLaunch, s.myTeam with
      | some l, some t => fusedOf l t
      | _, _ => none
    cluster := (s.myTeam.map Team.cluster).getD (s.coreNo, 0, 0, 0) }

/-- The FTZ bit: the team's, the issuing team's in a tadpole, 0 in the keeper core (R252, R300). -/
def State.ftz (s : State) : Bool := (s.myTeam.map Team.ftz).getD false

/-- Registers the thread reaches (R167). -/
def State.reach (s : State) : Nat :=
  match s.cur with
  | .lane c slot _ => ((s.team c slot).map Team.regs).getD 0
  | .tad _ _ _ => 16
  | .keeper _ _ => 64
  | .none => 0

/-- The lane number that LANEID reads: in the team, or 0 to 7 in a tadpole (R366). -/
def State.laneId (s : State) : Nat :=
  match s.cur with
  | .lane _ _ l => l
  | .tad _ _ l => l
  | _ => 0

/-- Team memory bytes the thread may address (R185): its team's, the issuer's in a tadpole, none in the keeper core. -/
def State.tmemSize (s : State) : Nat := (s.myTeam.map Team.tmem).getD 0

/-- A byte of the thread's team memory. -/
def State.tmByte (s : State) (a : Nat) : Byte := (s.myTeam.map fun t => NMap.get 0#8 t.tm a).getD 0#8

def State.tmBytes (s : State) (a : Nat) : Nat → List Byte
  | 0 => []
  | n + 1 => s.tmByte a :: s.tmBytes (a + 1) n

/-- A little-endian number of the thread's team memory. -/
def State.tmNum (s : State) (a n : Nat) : Nat := leNat (s.tmBytes a n)

/-- The state with the thread's team changed. -/
def State.modMyTeam (s : State) (f : Team → Team) : State :=
  match s.cur with
  | .lane c slot _ => s.modTeam c slot f
  | .tad c _ _ => s.modTeam c s.home.1 f
  | _ => s

/-- Bytes written to the thread's team memory. -/
def State.tmWrite (s : State) (a : Nat) (bs : List Byte) : State := s.modMyTeam fun t => { t with tm := putBytes t.tm a bs }

/-! ### What an instruction comes to for one lane -/

/-- The outcome of one instruction in one lane. -/
inductive Res where
  /-- Done: the lane goes on at the next word. -/
  | done (s : State)
  /-- A transfer of control (R275). -/
  | jump (s : State) (target : DWord)
  /-- The lane parks; it goes on at the next word once released (R172). -/
  | park (s : State) (w : Wait)
  /-- A replayable page fault: the lane parks at the instruction, its pending set kept (R135, R275). -/
  | page (s : State) (w : PageWait)
  /-- A precise trap: the instruction has no effect (R175). -/
  | trap (c : Cause) (addr : DWord)
  /-- The access reads a poisoned sector (R80, R81): the lowest virtual address of the access in it, and where it lies. -/
  | bad (va pa : Nat)
  /-- The lane waits at the instruction for a completion from a peer and then performs it (R55). -/
  | peer (s : State)
  /-- The lane has performed a part of the instruction; others may act before it goes on (R198, R247). -/
  | again (s : State)
  /-- The instruction has placed the lane itself: its end, or a stop of its team. -/
  | placed (s : State)

/-- The outcome of an access. -/
inductive Got (α : Type) where
  | ok (s : State) (x : α)
  | trap (c : Cause) (addr : DWord)
  | page (s : State) (w : PageWait)
  | bad (va pa : Nat)
  | peer (s : State)
  | again (s : State)

/-- An instruction that goes on with what an access gives. -/
def Got.then {α : Type} (g : Got α) (f : State → α → Res) : Res :=
  match g with
  | .ok s x => f s x
  | .trap c a => .trap c a
  | .page s w => .page s w
  | .bad va pa => .bad va pa
  | .peer s => .peer s
  | .again s => .again s

/-- An access that goes on with what another gives. -/
def Got.bind {α β : Type} (g : Got α) (f : State → α → Got β) : Got β :=
  match g with
  | .ok s x => f s x
  | .trap c a => .trap c a
  | .page s w => .page s w
  | .bad va pa => .bad va pa
  | .peer s => .peer s
  | .again s => .again s

/-- An access whose refusal gives way to a translation fault of another that is read with it (R335). -/
def Got.unlessPage {α β : Type} (g : Got α) (h : Got β) : Got α :=
  match g, h with
  | .trap _ _, .page s w => .page s w
  | .bad _ _, .page s w => .page s w
  | g, _ => g

/-- A check that raises a trap. -/
def Got.check {β : Type} (ok : Bool) (c : Cause) (addr : DWord) (g : Got β) : Got β :=
  if ok then g else .trap c addr

/-! ### Global memory at a virtual address -/

/-- Earlier stores and atomics of the lane complete: pts takes their timestamps (R75, R243). -/
def State.drain (s : State) : State :=
  (s.ag.stores.foldl (fun s t => s.raisePts s.coreNo t) s).modAg fun a => { a with stores := [] }

/-- A store of the lane is outstanding until its completion returns (R75). -/
def State.outstanding (s : State) (t : DWord) : State :=
  (s.modAg fun a => { a with stores := a.stores ++ [t] }).later [.event (.storeCompletion s.cur)]

/-- The first poisoned byte the pieces of an access read, by its virtual and its physical address (R80). -/
def State.poisonIn (s : State) (w : Who) (scope : BitVec 2) : List Piece → Option (Nat × Nat)
  | [] => none
  | p :: ps =>
    match s.pieceBad w scope p with
    | some a => some (p.va + (a - p.pa), a)
    | none => s.poisonIn w scope ps

/-- The homes of the pieces of a load ready to answer. -/
def State.ready (s : State) (w : Who) (scope : BitVec 2) (ps : List Piece) : State :=
  ps.foldl (fun s p => s.readied w scope p) s

/-- The aperture a piece lies in. -/
def Piece.aperture? (p : Piece) : Option (Nat × Nat) :=
  match paRange p.pa with
  | .aperture n x => some (n, x)
  | _ => none

/-- Whether a piece lies in host memory. -/
def Piece.isHost (p : Piece) : Bool := paRange p.pa == .host

/-- A new access in the network of the core's die, stamped with the shadow GEN of its aperture (R54). -/
def State.netSend (s : State) (w : Who) (n x va : Nat) (k : NetKind) (engine : Option (Nat × Word)) : State :=
  let a : NetAccess := { agent := s.cur, core := w.core, slot := w.slot, launch := w.launch, aperture := n, va := va,
                         offset := x, stamp := (s.aperture n).shadowGen, kind := k, engine := engine }
  ({ s with net := s.net.put s.netNext a, netNext := s.netNext + 1 }).later [.event (.peerAccessArrive s.netNext)]

/-- The tag of the code fetches of a berth from an aperture, 16 for the keeper core (R53, R165). -/
def fetchTag (berth : Nat) : Nat := 2 ^ 16 + berth

/-- Whether an aperture access fetches code for a berth. -/
def NetAccess.isFetch (a : NetAccess) : Bool :=
  a.engine.any fun e => decide (fetchTag 0 ≤ e.1) && decide (e.1 < fetchTag 16)

/-- The tag of the write of an item of a work list to an aperture (R159). -/
def itemTag (item : Nat) : Nat := 2 ^ 17 + item

/-- The item of a work list that an aperture access writes. -/
def NetAccess.item? (a : NetAccess) : Option Nat :=
  a.engine.bind fun e => if itemTag 0 ≤ e.1 then some (e.1 - itemTag 0) else none

/-- Whether an aperture access has not completed. -/
def NetAccess.out (a : NetAccess) : Bool :=
  match a.phase with
  | .inNetwork | .accepted => true
  | .done _ | .refused _ => false

/-- An earlier `.sys` access of the lane to another destination that has not completed (R55): `n` the aperture of the
next one, none for host memory. -/
def State.otherPeerBusy (s : State) (n : Option Nat) : Bool :=
  s.net.any fun e => e.2.out && e.2.agent == s.cur && e.2.engine.isNone && some e.2.aperture != n
    && !s.ag.netIds.contains e.1

/-- An earlier access of the lane to an aperture that has not completed, the loads of the current instruction apart. -/
def State.netBusy (s : State) : Bool :=
  s.net.any fun (e : Nat × NetAccess) => e.2.out && e.2.agent == s.cur && e.2.engine.isNone && !s.ag.netIds.contains e.1

/-- Whether an access waits for an earlier one of its lane that has not completed at a peer: one to another destination,
or a coherent or `.sys` access to local memory (R55, R75, R319). -/
def State.heldBack (s : State) (scope : BitVec 2) (ps : List Piece) : Bool :=
  ps.any fun p => match paRange p.pa with
    | .aperture n _ => s.otherPeerBusy (some n)
    | .host => s.otherPeerBusy none
    | _ => (p.cls == 2 || scope == 3#2) && s.netBusy

/-- The threads that wait as a thread does, at instructions issued and not completed: those of its team, or of the tadpoles
of its bulk read. -/
def State.peersOf (s : State) (r : AgentRef) : List AgentRef :=
  match r with
  | .lane c slot _ => ((s.team c slot).map fun t => t.refs c slot fun a => a.status == .parked .peer).getD []
  | .tad c slot _ => match (s.core c).tads.find? slot with
    | none => []
    | some t => (s.core c).tads.flatMap fun (e : Nat × Tadpole) =>
      if e.2.seq == t.seq then e.2.lanes.filterMap fun (l : Nat × Agent) =>
        if l.2.status == .parked .peer then some (.tad c e.1 l.1) else none
      else []
  | r => [r]

/-- Whether a word is a WAPP, whose bundle takes one run of its list (R159). -/
def isWapp (w : Word) : Bool :=
  match instrOfWord w with
  | .wapp _ _ _ => true
  | _ => false

/-- The moves of threads that perform a word: in their order, nothing between those of a WAPP (R159). -/
def movesOf (w : Option Word) (rs : List AgentRef) : List Move :=
  if w.any isWapp then [.together rs] else rs.map Move.lane

/-- A thread that waits at an instruction goes on with the word it has issued, also where its team has stopped meanwhile
(R55, R153); one without its word is ready again. The word of one that goes on is answered. -/
def State.resume (s : State) (r : AgentRef) : State × Option (DWord × Word) :=
  match s.agentAt r with
  | none => (s, none)
  | some a =>
    if a.status != .parked .peer then (s, none)
    else match a.pendTrap, a.wordAt a.pc with
      | none, some w => (s.putAgent r { a with status := .parked (.mid w) }, some (a.pc, w))
      | _, _ => (s.putAgent r a.wake, none)

/-- Threads that wait at an instruction go on, in their order; those at one word do so as its bundle issues. -/
def State.retry (s : State) : List AgentRef → State
  | [] => s
  | r :: rs =>
    match s.resume r with
    | (s, none) => s.retry rs
    | (s, some x) =>
      let same := rs.filter fun q => (s.agentAt q).any fun a =>
        a.status == .parked .peer && a.pendTrap.isNone && a.pc == x.1 && a.wordAt a.pc == some x.2
      ((same.foldl (fun (s : State) q => (s.resume q).1) s).later (movesOf (some x.2) (r :: same))).retry rs

/-- The answers to the lane's aperture accesses: none while one is out, otherwise the bytes or the refusal. -/
def State.netAnswer (s : State) : List Nat → Option (Sum Cause (List Byte))
  | [] => some (.inr [])
  | i :: is =>
    match s.net.find? i, s.netAnswer is with
    | some a, some rest =>
      match a.phase, rest with
      | .refused c, _ => some (.inl c)
      | .done bs, .inr more => some (.inr (bs ++ more))
      | .done _, .inl c => some (.inl c)
      | _, _ => none
    | _, _ => none

/-- The lane's aperture accesses taken out of the network. -/
def State.netClear (s : State) : State :=
  ({ s with net := s.ag.netIds.foldl (fun m i => m.del i) s.net }).modAg fun a => { a with netIds := [] }

/-- The lane's aperture accesses sent, and the lane waiting for them. -/
def State.netAsk (s : State) (w : Who) (reqs : List (Nat × Nat × Nat × NetKind)) : State :=
  reqs.foldl (fun s r =>
    let s' := s.netSend w r.1 r.2.1 r.2.2.1 r.2.2.2 none
    s'.modAg fun a => { a with netIds := a.netIds ++ [s.netNext] }) s

/-- The answers to a load's aperture accesses: taken when they have returned, otherwise asked for and waited for
(R55). -/
def State.netTake (s : State) (w : Who) (reqs : List (Nat × Nat × Nat × NetKind)) (at_ : DWord) : Got (List Byte) :=
  if s.ag.netIds.isEmpty then .peer (s.netAsk w reqs)
  else match s.netAnswer s.ag.netIds with
    | none => .peer s
    | some (.inl c) => .trap c at_
    | some (.inr bs) => .ok s.netClear bs

/-- One piece of a load performed; `answer` holds the bytes of an aperture piece. What the lane reads in host or peer
memory it observes (R240). -/
def State.loadPiece (s : State) (w : Who) (scope : BitVec 2) (hint : Option (BitVec 2)) (p : Piece) (answer : List Byte) :
    State × List Byte :=
  match paRange p.pa with
  | .local_ => s.loadLocal w scope hint p
  | .aperture _ _ => (s.raisePts w.core s.outTs, answer)
  | _ => (s.raisePts w.core s.outTs, s.bytesAt p.pa p.len)

/-- The bytes of the pieces of a load, those of aperture pieces taken from the answers. -/
def State.loadPieces (s : State) (w : Who) (scope : BitVec 2) (hint : Option (BitVec 2)) :
    List Piece → List Byte → State × List Byte
  | [], _ => (s, [])
  | p :: ps, answers =>
    let k := if p.aperture?.isSome then p.len else 0
    let r := s.loadPiece w scope hint p (answers.take k)
    let t := r.1.loadPieces w scope hint ps (answers.drop k)
    (t.1, r.2 ++ t.2)

/-- Bits 63:56 of every address of an access are zero (R317). -/
def vaOk (va n : Nat) : Bool := decide (va + n ≤ 2 ^ 56)

/-- The page fault of an access (R135). -/
def pageWait (w : Who) (addr : Nat) (write : Bool) : PageWait :=
  { asid := w.asid, page := addr / 4096, addr := addr, write := write, fetch := false }

/-- The pieces of a load that may be performed, with the answers of those in apertures: the checks of R317 in their
order, the waits for earlier accesses, for the answers and for the lines' homes. -/
def State.loadReady (s : State) (w : Who) (scope : BitVec 2) (va n : Nat) : Got (List Piece × List Byte) :=
  let at_ := BitVec.ofNat 64 va
  if !vaOk va n then .trap .access at_
  else match s.pieces w.asid .rd 66000 va n with
    | (s, .inl a) => .page s (pageWait w a false)
    | (s, .inr ps) =>
      if ps.any (s.refuses false) then .trap .access at_
      else if ps.any Piece.isHost && s.hostDown then .trap .hostLink at_
      else if s.heldBack scope ps then .peer s
      else
        let reqs := ps.filterMap fun p => p.aperture?.map fun a => (a.1, a.2, p.va, NetKind.load p.len)
        (if reqs.isEmpty then .ok s [] else s.netTake w reqs at_).bind fun s answers =>
          let s := s.ready w scope ps
          match s.poisonIn w scope ps with
          | some a => .bad a.1 a.2
          | none => .ok s (ps, answers)

/-- Something an instruction has read or chosen, kept until it ends: performed again after a wait, it goes on with it. -/
def State.recall (s : State) (x : List Byte) : State × List Byte :=
  match s.ag.netGot[s.ag.netUsed]? with
  | some bs => (s.modAg fun a => { a with netUsed := a.netUsed + 1 }, bs)
  | none => (s.modAg fun a => { a with netGot := a.netGot ++ [x], netUsed := a.netUsed + 1 }, x)

/-- Whether the instruction reads its next value now, and does not recall it. -/
def State.readsNow (s : State) : Bool := (s.ag.netGot[s.ag.netUsed]?).isNone

/-- A load of `n` bytes at a virtual address, performed whole (R317, R319). What it returns is kept until the
instruction ends: an instruction that waits goes on with it (R175). -/
def State.loadVA (s : State) (w : Who) (scope : BitVec 2) (hint : Option (BitVec 2)) (va n : Nat) : Got (List Byte) :=
  if !s.readsNow then .ok (s.recall []).1 (s.recall []).2
  else (s.loadReady w scope va n).bind fun s x =>
      let r := s.loadPieces w scope hint x.1 x.2
      let t := r.1.recall r.2
      .ok t.1 t.2

/-! ### Accesses performed in parts -/

/-- Whether other agents act between two parts of an instruction: a free choice, where the agenda holds a move that could
(R198, R228, R247). -/
def State.pauses (s : State) : Bool := !s.agenda.isEmpty && Config.freeBool s.free

/-- A piece with its bytes put among others in the order of their addresses. -/
def insertGot (x : Nat × List Byte) : List (Nat × List Byte) → List (Nat × List Byte)
  | [] => [x]
  | y :: ys => if x.1 < y.1 then x :: y :: ys else y :: insertGot x ys

/-- The pieces of a plain load performed one at a time in a free order (R247); `fuel` bounds them. -/
def State.loadParts (s : State) (w : Who) (scope : BitVec 2) (hint : Option (BitVec 2)) :
    Nat → Parts → Got (List Byte)
  | 0, x => .ok (s.modAg fun a => { a with parts := none }) (x.got.flatMap Prod.snd)
  | fuel + 1, x =>
    let i := Config.freeMove s.free % x.left.length
    match x.left[i]? with
    | none => .ok (s.modAg fun a => { a with parts := none }) (x.got.flatMap Prod.snd)
    | some (p, _) =>
      let s := s.drawn.readied w scope p
      match s.pieceBad w scope p with
      | some a => .bad (p.va + (a - p.pa)) a
      | none =>
        let r := s.loadPiece w scope hint p []
        let x : Parts := { left := x.left.eraseIdx i, got := insertGot (p.va, r.2) x.got }
        if !x.left.isEmpty && r.1.pauses then .again (r.1.drawn.modAg fun a => { a with parts := some x })
        else r.1.loadParts w scope hint fuel x

/-- A load or the element of an XLD: whole where it is one piece, or where no other agent can act between its pieces;
otherwise piece by piece (R247). -/
def State.loadPlain (s : State) (w : Who) (scope : BitVec 2) (hint : Option (BitVec 2)) (va n : Nat) :
    Got (List Byte) :=
  match s.ag.parts with
  | some x => s.loadParts w scope hint x.left.length x
  | none => (s.loadReady w scope va n).bind fun s x =>
      if x.1.length ≤ 1 || s.agenda.isEmpty || !x.2.isEmpty then
        let r := s.loadPieces w scope hint x.1 x.2
        .ok r.1 r.2
      else s.loadParts w scope hint x.1.length { left := x.1.map fun p => (p, []) }

/-- A record that reports a store to the launch's keeper core (R57, R59); a keeper context's store has no lane
(R179). -/
def State.storeReport (s : State) (w : Who) (lane : Option Nat) (kind : Nat) (status : BitVec 16) (va : Nat) (src : Nat) :
    State :=
  s.sendEvent w.core { kind := kind, ltag := 0, slot := w.slot, lane := lane, src := src, bar := none,
                       status := status, addr := BitVec.ofNat 64 va, launch := w.launch }

/-- The lane of the thread for a record, none for a keeper context (R179). -/
def State.laneOf (s : State) (w : Who) : Option Nat := if s.kind = .keeper then none else some w.lane

/-- What a store of the thread to host or peer memory follows, for those that observe it (R240). -/
def State.sendsOut (s : State) (w : Who) : State := { s with outTs := tmax s.outTs (s.core w.core).pts }

/-- One piece of a store performed (R72, R75, R57, R59). -/
def State.storePiece (s : State) (w : Who) (scope : BitVec 2) (hint : Option (BitVec 2)) (p : Piece) (bs : List Byte) :
    State :=
  match paRange p.pa with
  | .local_ =>
    let r := s.storeLocal w scope hint p bs
    if p.cls = 0 then r.1 else r.1.outstanding r.2
  | .aperture n x => (s.netSend w n x p.va (.store bs) none).sendsOut w
  | .host => if s.hostDown then s.storeReport w (s.laneOf w) 7 0#16 p.va 5 else (s.hostWrite p.pa bs).sendsOut w
  | _ => s

/-- The pieces of a store performed in order. -/
def State.storePieces (s : State) (w : Who) (scope : BitVec 2) (hint : Option (BitVec 2)) :
    List Piece → List Byte → State
  | [], _ => s
  | p :: ps, bs => (s.storePiece w scope hint p (bs.take p.len)).storePieces w scope hint ps (bs.drop p.len)

/-- The pieces of a store that may be performed: the checks of R317 in their order, the waits for earlier accesses. -/
def State.storeReady (s : State) (w : Who) (scope : BitVec 2) (va n : Nat) : Got (List Piece) :=
  let at_ := BitVec.ofNat 64 va
  if !vaOk va n then .trap .access at_
  else match s.pieces w.asid .wr 66000 va n with
    | (s, .inl a) => .page s (pageWait w a true)
    | (s, .inr ps) =>
      if ps.any (s.refuses true) then .trap .access at_
      else if s.heldBack scope ps then .peer s
      else .ok s ps

/-- The pieces of a store with the bytes each writes. -/
def storeCut : List Piece → List Byte → List (Piece × List Byte)
  | [], _ => []
  | p :: ps, bs => (p, bs.take p.len) :: storeCut ps (bs.drop p.len)

/-- The pieces of a store performed one at a time in a free order (R247); `fuel` bounds them. -/
def State.storeParts (s : State) (w : Who) (scope : BitVec 2) (hint : Option (BitVec 2)) : Nat → Parts → Got Unit
  | 0, _ => .ok (s.modAg fun a => { a with parts := none }) ()
  | fuel + 1, x =>
    let i := Config.freeMove s.free % x.left.length
    match x.left[i]? with
    | none => .ok (s.modAg fun a => { a with parts := none }) ()
    | some (p, bs) =>
      let s := s.drawn.storePiece w scope hint p bs
      let x : Parts := { x with left := x.left.eraseIdx i }
      if !x.left.isEmpty && s.pauses then .again (s.drawn.modAg fun a => { a with parts := some x })
      else s.storeParts w scope hint fuel x

/-- A store of bytes at a virtual address (R317, R319): whole where it is one piece, or where no other agent can act
between its pieces; otherwise piece by piece (R247). -/
def State.storeVA (s : State) (w : Who) (scope : BitVec 2) (hint : Option (BitVec 2)) (va : Nat) (bs : List Byte) :
    Got Unit :=
  match s.ag.parts with
  | some x => s.storeParts w scope hint x.left.length x
  | none => (s.storeReady w scope va bs.length).bind fun s ps =>
      if ps.length ≤ 1 || s.agenda.isEmpty then .ok (s.storePieces w scope hint ps bs) ()
      else s.storeParts w scope hint ps.length { left := storeCut ps bs }

/-! ### Atomics -/

/-- The unit that performs an atomic on local global memory (R197): 0 the home slice, 1 + c the atomic unit of core c. -/
def Who.unit (w : Who) (scope : BitVec 2) : Nat :=
  if scope = 0#2 then 1 + w.core else if scope = 1#2 then 1 + w.cluster.1 else 0

/-- The atomic of the thread that has read its word and not written it (R198). -/
def State.myRmw (s : State) : Option Rmw := s.rmws.find? fun r => r.agent = s.cur

/-- The write of an atomic that has read its word (R197, R198): at the home, with the timestamps of a store on a coherent
line (R76), written through by an L1 or cluster unit. Other units' atomics on the word keep what they have read. -/
def State.rmwFinish (s : State) (r : Rmw) (hint : Option (BitVec 2)) (returns : Bool) (f : List Byte → List Byte) :
    Got (List Byte) :=
  let s := { s with rmws := s.rmws.filter fun x => x.agent ≠ r.agent }
  let p := r.piece
  if p.isHost then
    if s.hostDown then
      if returns then .trap .hostLink (BitVec.ofNat 64 p.va) else .ok (s.storeReport r.who (s.laneOf r.who) 7 0#16 p.va 5) []
    else .ok (((s.hostWrite p.pa (f r.old)).sendsOut r.who).raisePts r.who.core s.outTs) r.old
  else
    let x := s.storeHome r.who p hint (f r.old)
    let t := s.sparing x.1 fun (x : Rmw) => !r.who.shares x.who r.scope x.scope
    let l1 := { r.who with core := if r.unit = 0 then r.who.core else r.unit - 1 }.l1Core (p.pa / 128)
    .ok (if p.cls = 0 then t.l1Update l1 p (f r.old)
      else
        let t := t.l1Refresh l1 (p.pa / 128) x.2
        if returns then t.raisePts r.who.core x.2 else t.outstanding x.2) r.old

/-- An atomic at a unit: it waits while another of the same unit, or of an instance it lies in too, is between its read and
its write (R198, R236), and may itself be parted there. `whole` says that nothing comes between (R58). -/
def State.rmwAt (s : State) (r : Rmw) (hint : Option (BitVec 2)) (whole returns : Bool) (f : List Byte → List Byte) :
    Got (List Byte) :=
  if s.rmws.any fun (x : Rmw) => (x.unit == r.unit || r.who.shares x.who r.scope x.scope) && x.meets r.piece.pa r.piece.len
  then .again s
  else if !whole && s.pauses then .again { s.drawn with rmws := s.rmws ++ [r] }
  else s.drawn.rmwFinish r hint returns f

/-- A read-modify-write of an aligned word at a virtual address (R325): `f` gives the new bytes from the old, `ask`
is the request an aperture access ships to the peer (R55), `returns` whether the old value returns to the lane. -/
def State.rmwVA (s : State) (w : Who) (scope : BitVec 2) (hint : Option (BitVec 2)) (va n : Nat) (returns xst : Bool)
    (ask : NetKind) (f : List Byte → List Byte) : Got (List Byte) :=
  let at_ := BitVec.ofNat 64 va
  match s.myRmw with
  | some r => s.rmwFinish r hint returns f
  | none =>
  if !vaOk va n then .trap .access at_
  else if va % n ≠ 0 then .trap .align at_
  else match s.pieces w.asid .rw 2 va n with
    | (s, .inl a) => .page s (pageWait w a true)
    | (s, .inr ps) =>
      if ps.any (s.refuses true) then .trap .access at_
      else match ps with
        | [] => .ok s []
        | p :: _ =>
          let r : Rmw := { agent := s.cur, ask := ask, unit := w.unit scope, piece := p, old := s.bytesAt p.pa n,
                           scope := scope, who := w, xst := xst }
          match paRange p.pa with
          | .aperture k x =>
            if s.heldBack scope ps then .peer s
            else if !returns then .ok ((s.netSend w k x va ask none).sendsOut w) []
            else (s.netTake (w := w) [(k, x, va, ask)] at_).bind fun s bs => .ok (s.raisePts w.core s.outTs) bs
          | .host =>
            if s.hostDown then
              if returns then .trap .hostLink at_ else .ok (s.storeReport w (s.laneOf w) 7 0#16 va 5) []
            else if s.heldBack scope ps then .peer s
            else s.rmwAt { r with unit := 0 } hint (NMap.get {} s.hostPorts 0 : HostPort).cxl returns f
          | _ =>
            if s.heldBack scope ps then .peer s
            else
              let u := { w with core := if r.unit = 0 then w.core else r.unit - 1 }
              let line := p.pa / 128
              if p.cls = 0 && r.unit ≠ 0 && p.cache then
                let s := s.readied u 0#2 p
                match s.pieceBad u 0#2 p with
                | some a => .bad (p.va + (a - p.pa)) a
                | none =>
                  let x := s.loadLocal u 0#2 hint p
                  x.1.rmwAt { r with old := x.2 } hint false returns f
              else
                let c := w.l1Core line
                let s := if p.cls = 0 && r.unit = 0 then (s.l1WriteBack c line).l1Drop c line else s
                let s := s.releaseLine line
                match s.firstPoison p.pa n with
                | some a => .bad (p.va + (a - p.pa)) a
                | none => s.rmwAt { r with old := s.bytesAt p.pa n } hint false returns f

/-! ### Traps -/

/-- A TEAMSTOP or BRK event record of the lane (R176, R180, R369). -/
def State.stopRecord (s : State) (kind : Nat) (status : Word) (addr : DWord) : State :=
  let w := s.who
  s.sendEvent w.core { kind := kind, ltag := 0, slot := w.slot, lane := some w.lane, src := 0, bar := none,
                       status := bits status 0 16, addr := addr, launch := w.launch }

/-- The lane's team is held, and its lanes leave the domains they participate in (R158, R176). -/
def State.holdTeam (s : State) : State :=
  let s := s.modMyTeam fun t => { t with held := true }
  match s.myTeam with
  | none => s
  | some t =>
    if t.lanes.any fun (e : Nat × Agent) => e.2.domain.isSome then
      let s := (s.putAgent s.cur s.ag).stopDomains s.coreNo s.home.1
      { s with ag := { s.ag with domain := none } }
    else s

/-- The lane's trap stops its team (R176): the lane is stopped, the team held, a TEAMSTOP record sent. -/
def State.stopTeam (s : State) : State :=
  let s := (s.modAg fun a => { a with status := .stopped, hints := {} }).holdTeam
  s.stopRecord 1 s.ag.trapCause s.ag.trapPc

/-- The address a trap saves: the first hint word of the run, or the instruction (R175). -/
def Agent.trapAt (a : Agent) : DWord := a.hints.first.getD a.pc

/-- The trap registers written (R370); bits 63:56 of TRAPADDR are zero in every cause but SWTRAP (R368). -/
def Agent.saveTrap (a : Agent) (c : Cause) (pc addr : DWord) : Agent :=
  { a with trapCause := c.code, trapPc := pc,
           trapAddr := if c = .swTrap then addr else (addr.setWidth 56 : BitVec 56).setWidth 64 }

/-- A dispatch table entry that may be entered: nonzero, bits 1:0 and 63:56 zero (R173, R370). -/
def entryOk (e : DWord) : Bool := e != 0#64 && bits e 0 2 == 0#2 && bits e 56 8 == 0#8

/-- The read of a dispatch table entry, a `.dev` load that needs RD (R173), after the lane's earlier stores (R75). -/
def State.readEntry (s : State) (l : Launch) (i : Nat) : Got DWord :=
  (s.drain.loadVA s.who 2#2 none (l.record.dtab + 8 * i) 8).bind fun s bs => .ok s (BitVec.ofNat 64 (leNat bs))

/-- The PAGEFAULT record of a thread's fault, with the fields of R135 and R181. -/
def State.pageRecord (s : State) (w : PageWait) : FaultRec :=
  let l := s.myLaunch
  { cause := 3, src := if s.kind = .keeper then 0 else 4, die := dieOfCore s.coreNo, core := s.coreNo % 160,
    lane := if s.kind = .keeper then 0xFFFF else s.home.2,
    team := if s.kind = .keeper then 0xFFFFFFFF else (s.myTeam.map Team.number).getD 0xFFFFFFFF,
    aux0 := (if w.write then 1 else 0) + (if w.fetch then 2 else 0), addr := w.addr, asid := w.asid,
    launch := (l.map fun l => bits l.record.doneSeq 0 32).getD 0#32, queue := (l.map Launch.queue).getD 0xFF }

/-- A trap of a team's lane (R175, R176, R370): the trap registers are written; in handler state, or without a
handler, the team stops; otherwise HANDLER is set, the pending set emptied, and the lane goes to entry 0. -/
def State.trapLane (s : State) (c : Cause) (pc addr : DWord) : State :=
  if s.ag.handler then (s.modAg fun a => a.saveTrap c pc addr).stopTeam
  else
    let s := s.modAg fun a => { a.saveTrap c pc addr with hints := {} }
    match s.myLaunch with
    | none => s.stopTeam
    | some l =>
      if l.record.dtlen = 0 then s.stopTeam
      else match s.readEntry l 0 with
        | .ok s e =>
          let s := s.modAg fun a => { a with netGot := [], netUsed := 0 }
          if entryOk e then s.modAg fun a => { a with handler := true, hints := {}, pc := e, status := .ready }
          else s.stopTeam
        | .trap c' _ => (s.modAg fun a => a.saveTrap c' pc (BitVec.ofNat 64 l.record.dtab)).stopTeam
        | .bad _ pa =>
          ((s.notePoison pa).modAg fun a => a.saveTrap .memErr pc (BitVec.ofNat 64 l.record.dtab)).stopTeam
        | .page s w =>
          (s.notePage w (s.pageRecord w)).modAg fun a =>
            { a with status := .parked (.entry0 w { cause := c, pc := pc, addr := addr }), parkedAt := s.cclk }
        | .peer s => s.modAg fun a =>
            { a with status := .parked .peer, pendTrap := some { cause := c, pc := pc, addr := addr } }
        | .again s => s

/-! ### Bursts of a bulk read -/

/-- The first burst not yet delivered, from `b` up and round: its number. -/
def EngineOp.nextBurst (o : EngineOp) (b : Nat) : Option Nat :=
  let left := fun (i : Nat) => !o.unitsDone.contains i
  match (List.range (o.units - b)).find? fun i => left (b + i) with
  | some i => some (b + i)
  | none => (List.range b).find? left

/-- A burst may be delivered: any one the engine has in hand; once the firmware performs what is left, the bursts started
before it, and then the lowest one left (R202, R214). The model's reading: log entry 99. -/
def EngineOp.delivers (o : EngineOp) (b : Nat) : Bool :=
  o.startedLeft.contains b ||
    (o.phase == .running && (!o.ascending || (o.startedLeft.isEmpty && o.nextBurst 0 == some b)))

/-- The next burst of a bulk read set going: which one memory returns next is a free value, the lowest one where the
firmware performs what is left (R202, R214). -/
def State.nextBurst (s : State) (c : Nat) (seq : Word) : State :=
  match s.op c 0 seq with
  | none => s
  | some o =>
    if o.phase != .running || o.units = 0 then s
    else match o.nextBurst (if o.ascending then 0 else Config.freeMove s.free % o.units) with
      | some b => s.drawn.later [.event (.burstDeliver c seq.toNat b)]
      | none => s

/-- The bursts of a bulk read that wait go on: those started before a unit of it failed, and the next one (R202, R214). -/
def State.moveBursts (s : State) (c : Nat) (o : EngineOp) : State :=
  (s.nextBurst c o.seq).later (o.startedLeft.map fun b => .event (.burstDeliver c o.seq.toNat b))

/-- Bulk reads of a core whose bursts wait for a slot go on when one is free (R203). -/
def State.wakeBursts (s : State) (c : Nat) : State :=
  (s.core c).ops.foldl (fun s (o : EngineOp) => if o.queue = 0 && o.mayBear then s.moveBursts c o else s) s

/-- A trap of a tadpole lane ends the tadpole, once the other lanes of its bundle have completed the instruction; one
TADTRAP record names the issuer of its bulk read (R175, R177, R180). -/
def State.trapTad (s : State) (core slot : Nat) (c : Cause) (pc : DWord) : State :=
  let s := s.modAg fun a => { a with status := .stopped, hints := {}, mates := [] }
  match (s.core core).tads.find? slot with
  | none => s
  | some t =>
    if t.trapped then s
    else
      let w := s.who
      let s := s.modCore core fun k => { k with tads := k.tads.put slot { t with trapped := true } }
      let s := s.modOp core 0 t.seq fun o => { o with tadTrapped := true }
      let s := s.sendEvent core { kind := 8, ltag := 0, slot := t.slot, lane := some t.lane, src := 4, bar := none,
                                  status := bits c.code 0 16, addr := pc, launch := w.launch }
      s.later [.tadEnd core slot]

/-- A tadpole that a trap has ended leaves its slot; bursts that wait for one go on (R177, R203). -/
def State.endTad (s : State) (core slot : Nat) : State :=
  match (s.core core).tads.find? slot with
  | none => s
  | some t =>
    if t.trapped then
      let s := t.lanes.foldl (fun s (e : Nat × Agent) =>
        (e.2.stores.foldl (fun s w => s.raisePts core w) s).leaveUnits (.tad core slot e.1)) s
      ((s.modCore core fun k => { k with tads := k.tads.del slot }).wakeBursts core).later
        [.event (.burstDeliver core t.seq.toNat t.burst)]
    else s

/-- A context removed: the firmware serves the records it had from then on, in the order of the event queue (R181). -/
def State.dropContext (s : State) (core n : Nat) : State :=
  match (s.core core).contexts.find? n with
  | none => s
  | some x =>
    let back := x.records.map fun r => { r with reported := true }
    let s := s.modCore core fun k => { k with contexts := k.contexts.del n, eq := back ++ k.eq }
    let s := s.leaveUnits (.keeper core n)
    ({ s with cur := .none, ag := {} }).later (back.map fun _ => .event (.firmwareEvent core))

/-- A trap in a routine context ends it: a TEAMSTOP fault record, and the firmware serves its launch's records from
then on (R181). -/
def State.trapKeeper (s : State) (core n : Nat) (c : Cause) (pc : DWord) : State :=
  let s := match ((s.core core).contexts.find? n).bind KeeperCtx.launch with
    | some l => s.sinkPut l { cause := 2, src := 0, die := dieOfCore core, core := core % 160, lane := 0xFFFF,
                              team := 0xFFFFFFFF, aux0 := c.code.toNat, addr := pc.toNat }
    | none => s
  s.dropContext core n

/-- TAKING A TRAP: the one operation every cause goes through (R175 to R177, R181, R370). -/
def State.takeTrap (s : State) (c : Cause) (addr : DWord) : State :=
  let pc := s.ag.trapAt
  let s := s.netClear.modAg fun a => { a with netGot := [], netUsed := 0, mates := [], parts := none }
  match s.cur with
  | .tad core slot _ => s.trapTad core slot c pc
  | .keeper core n => s.trapKeeper core n c pc
  | _ => s.trapLane c pc addr

/-- RETURNING FROM A TRAP: HANDLER is cleared, the pending set emptied, and the lane goes on at TRAPPC (R371). -/
def State.returnTrap (s : State) : State :=
  s.modAg fun a => { a with handler := false, hints := {}, pc := a.trapPc }

/-- The thread parks on a page fault at its instruction (R135). -/
def State.parkPage (s : State) (w : PageWait) : State :=
  (s.notePage w (s.pageRecord w)).modAg fun a =>
    { a with status := .parked (.page w), parkedAt := s.cclk, netGot := [], netUsed := 0 }

/-- The state after an instruction `i` whose outcome in the lane is `r`. -/
def State.settle (s : State) (i : Instr) (r : Res) : State :=
  match r with
  | .done s' => s'.advance
  | .jump s' t => s'.jumpTo t
  | .park s' w => (s'.advance).modAg fun a => { a with status := .parked w, parkedAt := s'.cclk }
  | .page s' w => s'.parkPage w
  | .trap c addr => s.takeTrap c addr
  | .bad va pa => (s.notePoison pa).takeTrap .memErr (BitVec.ofNat 64 va)
  | .again s' =>
    (s'.modAg fun a => { a with status := .parked (.mid (encode i)), netUsed := 0 }).later [.lane s'.cur]
  | .peer s' => s'.modAg fun a => { a with status := .parked .peer, netUsed := 0 }
  | .placed s' => s'

/-! ### Word-level ILLEGAL, guards and where a word runs -/

/-- The hint kinds an instruction accepts beside GUARD, and those it requires (R274, R334). -/
structure HintUse where
  guard : Bool := true
  imm20 : Bool := false
  c4 : Bool := false
  cache : Bool := false
  scope : Bool := false
  dxbd : Bool := false
  needImm20 : Bool := false
  needC4 : Bool := false
  deriving DecidableEq, Repr

/-- The pending set is one the instruction accepts (R275). -/
def Hints.fits (h : Hints) (u : HintUse) : Bool :=
  !h.twice && !h.malformed && (u.guard || h.guard.isNone) && (u.imm20 || h.imm20.isNone) && (u.c4 || h.c4.isNone)
    && (u.cache || h.cache.isNone) && (u.scope || h.scope.isNone) && (u.dxbd || h.dxbd.isNone)
    && (!u.needImm20 || h.imm20.isSome) && (!u.needC4 || h.c4.isSome)

/-- What a word demands before it takes any effect: its hints, one past the highest register it names, further
encoding rules of its description, the agents that run it, whether a tadpole refuses it as a wait (R167, R204, R275). -/
structure Demand where
  hints : HintUse := {}
  regs : Nat := 0
  ok : Bool := true
  team : Bool := true
  tad : Bool := true
  keeper : Bool := true
  tadWait : Bool := false
  deriving DecidableEq, Repr

/-- The agent runs the word (R178, R204). -/
def Demand.runsIn (d : Demand) : AgentKind → Bool
  | .team => d.team
  | .tad => d.tad
  | .keeper => d.keeper

/-- The payloads of a pending set are ones the word takes, and the registers they name within the reach (R167): the
addend of IMAD, FFMA, HFMA2 and DFMA, the count of QDXB (R314), the compare register of an atomic (R322), the scope of
WAITC (R327), the operands of BRDH (R336), TCPY and TWB (R339), the lease of MOOR (R343), the pair of CLNEXT (R357). -/
def payloadOk (i : Instr) (h : Hints) (reach : Nat) : Bool :=
  let creg := fun (d : Nat) => (h.c4.map BitVec.toNat).getD d
  let imm := (h.imm20.map BitVec.toNat).getD 0
  match i with
  | .imad d _ _ | .ffma _ d _ _ | .hfma2 d _ _ _ => decide (creg d.toNat < reach)
  | .dfma d _ _ _ => creg (2 * d.toNat) % 2 == 0 && decide (creg (2 * d.toNat) + 1 < reach)
  | .qdxb _ _ _ _ _ _ => h.imm20.isNone || (decide (1 ≤ imm) && decide (imm ≤ 32))
  | .atom _ _ o z _ | .red _ _ o z _ =>
    o != 9#4 || (creg 0 % 2 ^ z.toNat == 0 && decide (creg 0 + 2 ^ z.toNat ≤ reach))
  | .waitc _ _ _ _ => decide (2 ≤ (h.scope.getD 2#2).toNat)
  | .brdhLin _ _ _ _ | .brdhTen _ _ _ _ =>
    imm / 2 ^ 18 == 0 && decide (creg 0 < reach) && decide (4 * (imm / 4096 % 64) + 3 < reach)
  | .tcpy _ _ _ _ | .twb _ _ _ => imm / 256 == 0 && decide (creg 0 < reach) && decide (imm % 256 < reach)
  | .moor _ _ _ => decide (1 ≤ imm) && decide (imm < 65536)
  | .clnext _ _ _ => creg 0 % 2 == 0 && decide (creg 0 + 1 < reach)
  | _ => true

/-- The run of hints of another lane of the bundle earns no ILLEGAL (R20, R275). -/
def State.mateOk (s : State) (i : Instr) (u : HintUse) (h : Hints) : Bool := h.fits u && payloadOk i h s.reach

/-- No word-level ILLEGAL (R20, R167, R269 to R275); one that the run of hints of any lane of the bundle earns is raised in
every lane of it (R20). -/
def State.legal (s : State) (i : Instr) (d : Demand) : Bool :=
  i.wellFormed && s.ag.hints.fits d.hints && s.ag.mates.all (s.mateOk i d.hints) && decide (d.regs ≤ s.reach) && d.ok && d.runsIn s.kind

/-- The guard of the pending set holds (R20, R274). -/
def State.guardHolds (s : State) : Bool :=
  match s.ag.hints.guard with
  | none => true
  | some g => s.predX (bits g 3 1) (bits g 0 3)

/-- One instruction of one thread: a word-level ILLEGAL whatever the guard; nothing where the guard is false; TADWAIT
in a tadpole for a wait; otherwise the body (R20, R175, R204, R275). -/
def State.runWord (s : State) (i : Instr) (d : Demand) (body : State → Res) : Host.Outcome State Fault Refusal :=
  match s.cur with
  | .none => .fault .noAgent
  | _ =>
    .next (
      if !s.legal i d then s.takeTrap .illegal ((encode i).setWidth 64)
      else if !s.guardHolds then s.advance
      else if d.tadWait && s.kind = .tad then s.takeTrap .tadWait 0#64
      else s.settle i (body s))

end Sys2Proof.Machine
end

