-- ==== Sys2Proof/Machine/Operands.lean ====
section
/-! DEFINITION. Operand forms: immediates, offsets and addresses of memory operands, register names of pairs and
ranges, and the scope of an access (R5, R21, R269, R270). -/

namespace Sys2Proof.Machine

/-- The number of a v register. -/
abbrev vn (r : BitVec 8) : Nat := r.toNat

/-- The even register of a pair field (R269). -/
abbrev pn (r : BitVec 7) : Nat := 2 * r.toNat

/-- The first register of a range of four (R269). -/
abbrev qn (r : BitVec 6) : Nat := 4 * r.toNat

/-- The immediate of an I-format word: IMM9, or the 30 bits an IMM20 hint gives, sign-extended (R270). -/
def Hints.imm (h : Hints) (i : BitVec 9) : Word :=
  match h.imm20 with
  | none => i.signExtend 32
  | some p => (p ++ i).signExtend 32

/-- The offset of an M-format word in units of the access size: OFF6, or the 27 bits an IMM20 hint gives (R270). -/
def Hints.off (h : Hints) (o : BitVec 6) : Int :=
  match h.imm20 with
  | none => o.toInt
  | some p => (p ++ o).toInt

/-- Bytes of an access by its size code (R270). -/
def sizeBytes (z : Nat) : Nat := 2 ^ z

/-- Registers an access of a size code names (R270). -/
def sizeRegs (z : Nat) : Nat := if z ≤ 2 then 1 else 2 ^ (z - 2)

/-- The effective address of a global memory operand (R319). -/
def globalEa (base : DWord) (off : Int) (size : Nat) : DWord := base + BitVec.ofInt 64 (off * size)

/-- The effective address of a team memory operand (R320). -/
def teamEa (base : Word) (off : Int) (size : Nat) : Word := base + BitVec.ofInt 32 (off * size)

/-- The scope of a global access: the SCOPE hint's, or `.dev` (R5). -/
def Hints.scopeOr (h : Hints) : BitVec 2 := h.scope.getD 2#2

/-- The words a loaded number fills: one register, a pair or a range of four (R318). -/
def regWords : Nat → Nat → List Word
  | 0, _ => []
  | n + 1, x => BitVec.ofNat 32 x :: regWords n (x / 2 ^ 32)

/-- The number some registers hold, the first the lowest (R318). -/
def wordsNat : List Word → Nat
  | [] => 0
  | w :: ws => w.toNat + 2 ^ 32 * wordsNat ws

/-- The bytes of some registers, the first the lowest (R318). -/
def wordsBytes (ws : List Word) (n : Nat) : List Byte := leBytes n (wordsNat ws)

/-- The address of a branch: the word's own plus four times OFF21 (R270). -/
def branchTarget (pc : DWord) (o : BitVec 21) : DWord := pc + BitVec.ofInt 64 (4 * o.toInt)

/-- A code address: bits 1:0 and 63:56 cleared (R293, R367). -/
def codeAddr (x : DWord) : DWord := x &&& 0x00FFFFFFFFFFFFFC#64

end Sys2Proof.Machine
end

