-- ==== Sys2Proof/Machine/Integer.lean ====
section
/-! DEFINITION. Integer arithmetic, moves, selection, compares and predicates (R279 to R291). -/

namespace Sys2Proof.Machine

open Host (Outcome)

/-- The highest of some register numbers plus one: what a word's reach is held against (R167). -/
def regsUpTo (rs : List Nat) : Nat := (rs.map (· + 1)).foldl max 0

/-! ### Results of one operation -/

/-- Bits 63:32 of a product, signed or unsigned (R280). -/
def mulHigh (unsigned : Bool) (a b : Word) : Word :=
  if unsigned then BitVec.ofNat 32 (a.toNat * b.toNat / 2 ^ 32)
  else BitVec.ofInt 32 (a.toInt * b.toInt / 2 ^ 32)

/-- The lesser of two values, signed or unsigned (R280). -/
def minWord (unsigned : Bool) (a b : Word) : Word :=
  if unsigned then (if a.toNat ≤ b.toNat then a else b) else (if a.toInt ≤ b.toInt then a else b)

/-- The greater of two values, signed or unsigned (R280). -/
def maxWord (unsigned : Bool) (a b : Word) : Word :=
  if unsigned then (if a.toNat ≤ b.toNat then b else a) else (if a.toInt ≤ b.toInt then b else a)

/-- A shift left; a count of 32 or more gives 0 (R283). -/
def shl (a c : Word) : Word := if c.toNat < 32 then a <<< c.toNat else 0#32

/-- A shift right filling with zeros; a count of 32 or more gives 0 (R283). -/
def shr (a c : Word) : Word := if c.toNat < 32 then a >>> c.toNat else 0#32

/-- A shift right filling with the sign; a count of 32 or more gives the sign everywhere (R283). -/
def sar (a c : Word) : Word := if c.toNat < 32 then a.sshiftRight c.toNat else a.sshiftRight 31

/-- The number of set bits (R282). -/
def popCount (a : Word) : Nat := ((List.range 32).filter fun i => a.getLsbD i).length

/-- Zero bits above the highest set bit (R282). -/
def leadZeros (a : Word) : Nat := ((List.range 32).takeWhile fun i => !a.getLsbD (31 - i)).length

/-- A value with bit i moved to bit 31 − i (R282). -/
def bitReverse (a : Word) : Word :=
  BitVec.ofNat 32 (((List.range 32).map fun i => if a.getLsbD (31 - i) then 2 ^ i else 0).sum)

/-- The absolute value of a signed word; 0x8000_0000 gives itself (R282). -/
def absWord (a : Word) : Word := if a.toInt < 0 then 0#32 - a else a

/-- The width of the bit field that B names: position B<4:0>, length B<13:8>, cut off at bit 31 (R284). -/
def fieldWidth (b : Word) : Nat := min (bits b 8 6).toNat (32 - (bits b 0 5).toNat)

/-- A bit field extracted, sign-extended where M is 1 (R284). -/
def extractField (m : Bool) (a b : Word) : Word :=
  let w := fieldWidth b
  let f := (a.toNat / 2 ^ (bits b 0 5).toNat) % 2 ^ w
  if w = 0 then 0#32
  else if m && Nat.testBit f (w - 1) then BitVec.ofNat 32 (f + (2 ^ 32 - 2 ^ w)) else BitVec.ofNat 32 f

/-- A bit field of the old D replaced by the low bits of A (R284). -/
def insertField (d a b : Word) : Word :=
  let w := fieldWidth b
  let pos := (bits b 0 5).toNat
  let mask : Word := BitVec.ofNat 32 ((2 ^ w - 1) * 2 ^ pos)
  (d &&& ~~~mask) ||| ((a <<< pos) &&& mask)

/-- An address of LEA: the index extended, shifted and added (R286). -/
def leaAddr (zero : Bool) (n : Nat) (a : DWord) (b : Word) : DWord :=
  a + ((if zero then b.setWidth 64 else b.signExtend 64) <<< n)

/-- All predicates as a value; bit 0 is 1 (R291). -/
def predMask (a : Agent) : Word := (a.p ||| 1#8).setWidth 32

/-- A k register of the thread's team, or of the routine's launch in a keeper context (R167, R287). -/
def State.kreg (s : State) (k : Nat) : DWord :=
  match s.cur with
  | .keeper c n => (((s.core c).contexts.find? n).map fun x => NMap.get 0#64 x.k k).getD 0#64
  | _ => (s.myTeam.map fun t => NMap.get 0#64 t.k k).getD 0#64

/-! ### Forms that several words share -/

/-- A word that writes one v register from register operands. -/
def State.regOp (s : State) (i : Instr) (regs : List Nat) (d : BitVec 8) (f : State → Word) :
    Outcome State Fault Refusal :=
  s.runWord i { regs := regsUpTo (vn d :: regs) } fun s => .done (s.setV (vn d) (f s))

/-- A word that writes one v register from a register and an immediate; an IMM20 hint widens it (R281). -/
def State.immOp (s : State) (i : Instr) (d a : BitVec 8) (f : Word → Word) (imm : BitVec 9) :
    Outcome State Fault Refusal :=
  s.runWord i { hints := { imm20 := true }, regs := regsUpTo [vn d, vn a] } fun s =>
    .done (s.setV (vn d) (f (s.ag.hints.imm imm)))

/-- A word that writes a pair from pairs. -/
def State.pairOp (s : State) (i : Instr) (d a b : BitVec 7) (f : DWord → DWord → DWord) :
    Outcome State Fault Refusal :=
  s.runWord i { regs := regsUpTo [pn d + 1, pn a + 1, pn b + 1] } fun s =>
    .done (s.setPair (pn d) (f (s.pair (pn a)) (s.pair (pn b))))

/-! ### The instructions -/

def execIadd (d a b : BitVec 8) (s : State) : Outcome State Fault Refusal :=
  s.regOp (.iadd d a b) [vn a, vn b] d fun s => s.v (vn a) + s.v (vn b)

def execIaddi (d a : BitVec 8) (i : BitVec 9) (s : State) : Outcome State Fault Refusal :=
  s.immOp (.iaddi d a i) d a (fun x => s.v (vn a) + x) i

def execIsub (d a b : BitVec 8) (s : State) : Outcome State Fault Refusal :=
  s.regOp (.isub d a b) [vn a, vn b] d fun s => s.v (vn a) - s.v (vn b)

def execImul (d a b : BitVec 8) (s : State) : Outcome State Fault Refusal :=
  s.regOp (.imul d a b) [vn a, vn b] d fun s => s.v (vn a) * s.v (vn b)

def execImulh (d a b : BitVec 8) (m : BitVec 1) (s : State) : Outcome State Fault Refusal :=
  s.regOp (.imulh d a b m) [vn a, vn b] d fun s => mulHigh (m == 1#1) (s.v (vn a)) (s.v (vn b))

/-- IMAD: the addend is the register of a C4 hint, or the old D (R280). -/
def execImad (d a b : BitVec 8) (s : State) : Outcome State Fault Refusal :=
  s.runWord (.imad d a b)
    { hints := { c4 := true }, regs := regsUpTo [vn d, vn a, vn b, vn (s.ag.hints.c4.getD d)] } fun s =>
    .done (s.setV (vn d) (s.v (vn a) * s.v (vn b) + s.v (vn (s.ag.hints.c4.getD d))))

def execImin (d a b : BitVec 8) (m : BitVec 1) (s : State) : Outcome State Fault Refusal :=
  s.regOp (.imin d a b m) [vn a, vn b] d fun s => minWord (m == 1#1) (s.v (vn a)) (s.v (vn b))

def execImax (d a b : BitVec 8) (m : BitVec 1) (s : State) : Outcome State Fault Refusal :=
  s.regOp (.imax d a b m) [vn a, vn b] d fun s => maxWord (m == 1#1) (s.v (vn a)) (s.v (vn b))

def execIand (d a b : BitVec 8) (s : State) : Outcome State Fault Refusal :=
  s.regOp (.iand d a b) [vn a, vn b] d fun s => s.v (vn a) &&& s.v (vn b)

def execIandi (d a : BitVec 8) (i : BitVec 9) (s : State) : Outcome State Fault Refusal :=
  s.immOp (.iandi d a i) d a (fun x => s.v (vn a) &&& x) i

def execIor (d a b : BitVec 8) (s : State) : Outcome State Fault Refusal :=
  s.regOp (.ior d a b) [vn a, vn b] d fun s => s.v (vn a) ||| s.v (vn b)

def execIori (d a : BitVec 8) (i : BitVec 9) (s : State) : Outcome State Fault Refusal :=
  s.immOp (.iori d a i) d a (fun x => s.v (vn a) ||| x) i

def execIxor (d a b : BitVec 8) (s : State) : Outcome State Fault Refusal :=
  s.regOp (.ixor d a b) [vn a, vn b] d fun s => s.v (vn a) ^^^ s.v (vn b)

def execIxori (d a : BitVec 8) (i : BitVec 9) (s : State) : Outcome State Fault Refusal :=
  s.immOp (.ixori d a i) d a (fun x => s.v (vn a) ^^^ x) i

def execIshl (d a b : BitVec 8) (s : State) : Outcome State Fault Refusal :=
  s.regOp (.ishl d a b) [vn a, vn b] d fun s => shl (s.v (vn a)) (s.v (vn b))

def execIshli (d a : BitVec 8) (i : BitVec 9) (s : State) : Outcome State Fault Refusal :=
  s.immOp (.ishli d a i) d a (fun x => shl (s.v (vn a)) x) i

def execIshr (d a b : BitVec 8) (s : State) : Outcome State Fault Refusal :=
  s.regOp (.ishr d a b) [vn a, vn b] d fun s => shr (s.v (vn a)) (s.v (vn b))

def execIshri (d a : BitVec 8) (i : BitVec 9) (s : State) : Outcome State Fault Refusal :=
  s.immOp (.ishri d a i) d a (fun x => shr (s.v (vn a)) x) i

def execIsar (d a b : BitVec 8) (s : State) : Outcome State Fault Refusal :=
  s.regOp (.isar d a b) [vn a, vn b] d fun s => sar (s.v (vn a)) (s.v (vn b))

def execIsari (d a : BitVec 8) (i : BitVec 9) (s : State) : Outcome State Fault Refusal :=
  s.immOp (.isari d a i) d a (fun x => sar (s.v (vn a)) x) i

def execIrol (d a b : BitVec 8) (s : State) : Outcome State Fault Refusal :=
  s.regOp (.irol d a b) [vn a, vn b] d fun s => (s.v (vn a)).rotateLeft ((s.v (vn b)).toNat % 32)

def execInot (d a : BitVec 8) (s : State) : Outcome State Fault Refusal :=
  s.regOp (.inot d a) [vn a] d fun s => ~~~(s.v (vn a))

def execIabs (d a : BitVec 8) (s : State) : Outcome State Fault Refusal :=
  s.regOp (.iabs d a) [vn a] d fun s => absWord (s.v (vn a))

def execIpopc (d a : BitVec 8) (s : State) : Outcome State Fault Refusal :=
  s.regOp (.ipopc d a) [vn a] d fun s => BitVec.ofNat 32 (popCount (s.v (vn a)))

def execIclz (d a : BitVec 8) (s : State) : Outcome State Fault Refusal :=
  s.regOp (.iclz d a) [vn a] d fun s => BitVec.ofNat 32 (leadZeros (s.v (vn a)))

def execIbrev (d a : BitVec 8) (s : State) : Outcome State Fault Refusal :=
  s.regOp (.ibrev d a) [vn a] d fun s => bitReverse (s.v (vn a))

/-- IBFX: the table of R271 and the effect of R284 sign-extend where M is 1. -/
def execIbfx (d a b : BitVec 8) (m : BitVec 1) (s : State) : Outcome State Fault Refusal :=
  s.regOp (.ibfx d a b m) [vn a, vn b] d fun s => extractField (m == 1#1) (s.v (vn a)) (s.v (vn b))

def execIbfi (d a b : BitVec 8) (s : State) : Outcome State Fault Refusal :=
  s.regOp (.ibfi d a b) [vn a, vn b] d fun s => insertField (s.v (vn d)) (s.v (vn a)) (s.v (vn b))

def execIadd64 (d a b : BitVec 7) (s : State) : Outcome State Fault Refusal :=
  s.pairOp (.iadd64 d a b) d a b fun x y => x + y

def execIsub64 (d a b : BitVec 7) (s : State) : Outcome State Fault Refusal :=
  s.pairOp (.isub64 d a b) d a b fun x y => x - y

def execImul64 (d a b : BitVec 7) (s : State) : Outcome State Fault Refusal :=
  s.pairOp (.imul64 d a b) d a b fun x y => x * y

def execLea (d : BitVec 7) (n : BitVec 2) (a : BitVec 7) (b : BitVec 8) (m : BitVec 1) (s : State) :
    Outcome State Fault Refusal :=
  s.runWord (.lea d n a b m) { regs := regsUpTo [pn d + 1, pn a + 1, vn b] } fun s =>
    .done (s.setPair (pn d) (leaAddr (m == 1#1) n.toNat (s.pair (pn a)) (s.v (vn b))))

def execMov (d a : BitVec 8) (s : State) : Outcome State Fault Refusal :=
  s.regOp (.mov d a) [vn a] d fun s => s.v (vn a)

def execMovi (d : BitVec 8) (i : BitVec 9) (s : State) : Outcome State Fault Refusal :=
  s.immOp (.movi d i) d d (fun x => x) i

def execMovk (d : BitVec 7) (k : BitVec 5) (s : State) : Outcome State Fault Refusal :=
  s.runWord (.movk d k) { regs := regsUpTo [pn d + 1] } fun s => .done (s.setPair (pn d) (s.kreg k.toNat))

def execIsel (p : BitVec 3) (d a b : BitVec 8) (m : BitVec 1) (s : State) : Outcome State Fault Refusal :=
  s.regOp (.isel p d a b m) [vn a, vn b] d fun s => if s.predX m p then s.v (vn a) else s.v (vn b)

def execIcmp (t : BitVec 2) (c p : BitVec 3) (a b : BitVec 8) (s : State) : Outcome State Fault Refusal :=
  let w := if t.getLsbD 1 then 1 else 0
  s.runWord (.icmp t c p a b) { regs := regsUpTo [vn a + w, vn b + w] } fun s =>
    .done (s.setP p (if t.getLsbD 1 then icmp64 t c (s.pair (vn a)) (s.pair (vn b))
                     else icmp32 t c (s.v (vn a)) (s.v (vn b))))

def execIcmpi (t : BitVec 2) (c p : BitVec 3) (a : BitVec 8) (i : BitVec 9) (s : State) :
    Outcome State Fault Refusal :=
  s.runWord (.icmpi t c p a i)
    { hints := { imm20 := true }, regs := regsUpTo [vn a + (if t.getLsbD 1 then 1 else 0)] } fun s =>
    .done (s.setP p (if t.getLsbD 1 then icmp64 t c (s.pair (vn a)) ((s.ag.hints.imm i).signExtend 64)
                     else icmp32 t c (s.v (vn a)) (s.ag.hints.imm i)))

/-- A predicate operation on two sources after their inversion (R290). -/
def State.predOp (s : State) (i : Instr) (p : BitVec 3) (f : State → Bool) : Outcome State Fault Refusal :=
  s.runWord i {} fun s => .done (s.setP p (f s))

def execPand (p : BitVec 3) (x : BitVec 1) (q : BitVec 3) (y : BitVec 1) (r : BitVec 3) (s : State) :
    Outcome State Fault Refusal :=
  s.predOp (.pand p x q y r) p fun s => s.predX x q && s.predX y r

def execPor (p : BitVec 3) (x : BitVec 1) (q : BitVec 3) (y : BitVec 1) (r : BitVec 3) (s : State) :
    Outcome State Fault Refusal :=
  s.predOp (.por p x q y r) p fun s => s.predX x q || s.predX y r

def execPxor (p : BitVec 3) (x : BitVec 1) (q : BitVec 3) (y : BitVec 1) (r : BitVec 3) (s : State) :
    Outcome State Fault Refusal :=
  s.predOp (.pxor p x q y r) p fun s => s.predX x q ^^ s.predX y r

def execPnot (p : BitVec 3) (x : BitVec 1) (q : BitVec 3) (s : State) : Outcome State Fault Refusal :=
  s.predOp (.pnot p x q) p fun s => !s.predX x q

def execPget (d : BitVec 8) (s : State) : Outcome State Fault Refusal :=
  s.regOp (.pget d) [] d fun s => predMask s.ag

def execPset (a : BitVec 8) (s : State) : Outcome State Fault Refusal :=
  s.runWord (.pset a) { regs := regsUpTo [vn a] } fun s =>
    .done (s.modAg fun g => { g with p := (bits (s.v (vn a)) 0 8) &&& 0xFE#8 })

end Sys2Proof.Machine
end

