-- ==== Sys2Proof/Machine/FloatOps.lean ====
section
/-! DEFINITION. Floating-point and conversion instructions (R300 to R313). -/

namespace Sys2Proof.Machine

open Host (Outcome)

/-! ### Results of one operation -/

/-- The value of an FP32 register. -/
def State.f (s : State) (r : Nat) : FVal := unpack32 s.ftz (s.v r)

/-- An FP32 result (R249, R252). -/
def State.ofF (s : State) (mode : Rnd) (x : FVal) : Word := BitVec.ofNat 32 (f32.pack mode s.ftz x)

/-- The value of an FP64 pair. -/
def State.f64 (s : State) (r : Nat) : FVal := Machine.f64.unpack (s.pair r).toNat

/-- An FP64 result. -/
def packF64 (mode : Rnd) (x : FVal) : DWord := BitVec.ofNat 64 (f64.pack mode false x)

/-- A value rounded to an integral value of its format (R303). -/
def FVal.integral (mode : Rnd) : FVal → FVal
  | .fin s m e => if 0 ≤ e then .fin s m e else .fin s (roundAt mode s m e 0) 0
  | x => x

/-- The class mask of FCLASS (R304). -/
def fclass (a : Word) : Word :=
  let neg := a.getLsbD 31
  let bit : Nat := match bits a 23 8, bits a 0 23 with
    | 0xFF#8, 0#23 => if neg then 0 else 7
    | 0xFF#8, f => if f.getLsbD 22 then 9 else 8
    | 0#8, 0#23 => if neg then 3 else 4
    | 0#8, _ => if neg then 2 else 5
    | _, _ => if neg then 1 else 6
  1#32 <<< bit

/-- The sign bit an operation of FMOVM gives, from the signs of A and of the old D (R305). -/
def signOp (o : BitVec 2) (a d : Bool) : Bool :=
  match o.toNat with
  | 0 => !a
  | 1 => false
  | 2 => true
  | _ => d

/-- Bit `i` of a value replaced. -/
def setBit (n : Nat) (x : BitVec n) (i : Nat) (b : Bool) : BitVec n :=
  if b then x ||| (1#n <<< i) else x &&& ~~~(1#n <<< i)

/-- FMOVM on a register (R305). -/
def fmovWord (t o : BitVec 2) (a d : Word) : Word :=
  let one := fun (x : Word) i => setBit 32 x i (signOp o (a.getLsbD i) (d.getLsbD i))
  if t = 0#2 then one a 31 else one (one a 15) 31

/-- A packed operation on both 16-bit elements (R307). -/
def packed (f : Nat → Nat → Nat) (a b : Word) : Word :=
  BitVec.ofNat 32 (f (bits a 0 16).toNat (bits b 0 16).toNat + 65536 * f (bits a 16 16).toNat (bits b 16 16).toNat)

/-- The format of a packed type. -/
def fmt16 (m : BitVec 1) : Fmt := if m = 0#1 then f16 else bf16

/-- A packed FMA (R307). -/
def hfma (f : Fmt) (a b c : Word) : Word :=
  let one := fun (x y z : BitVec 16) =>
    f.pack .rn false (((f.unpack x.toNat).mul (f.unpack y.toNat)).add .rn (f.unpack z.toNat))
  BitVec.ofNat 32 (one (bits a 0 16) (bits b 0 16) (bits c 0 16) + 65536 * one (bits a 16 16) (bits b 16 16) (bits c 16 16))

/-! ### Conversions -/

/-- A conversion type code stands for a 64-bit type (R272). -/
def cvtWide (t : Nat) : Bool := t == 3 || t == 7 || t == 11

/-- Bits of an integer conversion type (R272). -/
def cvtBits (t : Nat) : Nat := 8 * 2 ^ (t % 4)

/-- The format of a float conversion type (R272). -/
def cvtFmt (t : Nat) : Fmt :=
  match t with
  | 8 => f16
  | 9 => bf16
  | 10 => f32
  | _ => f64

/-- The source of a conversion (R310, R311). -/
def cvtSource (ftz : Bool) (st : Nat) (x : DWord) : FVal :=
  if st < 8 then
    let n := x.toNat % 2 ^ cvtBits st
    if st < 4 && decide (2 ^ (cvtBits st - 1) ≤ n) then .fin true (2 ^ cvtBits st - n) 0 else .fin false n 0
  else
    let f := cvtFmt st
    let n := x.toNat % (2 * f.signBit)
    f.unpack (if ftz && st == 10 then f.flushIn n else n)

/-- A rounding of a conversion: a direction, or stochastic by the lane's number (R249, R311). -/
def cvtRound (f : Fmt) (r lane : Nat) : FVal → Nat
  | .fin s m e => if r = 4 then f.roundRs lane s m e else f.pack (Rnd.ofCode r) false (.fin s m e)
  | x => f.pack .rn false x

/-- The integer a conversion to an integer type gives before it saturates. -/
def cvtInt (r lane : Nat) (s : Bool) (m : Nat) (e : Int) : Int :=
  let n : Nat := if r = 4 then roundAtRs lane m e 0 else roundAt (Rnd.ofCode r) s m e 0
  if s then -n else n

/-- An integer clamped to a type and extended to 64 bits by it (R310, R311). -/
def cvtClamp (dt : Nat) (n : Int) : DWord :=
  let w := cvtBits dt
  if dt < 4 then BitVec.ofInt 64 (max (-(2 ^ (w - 1) : Nat)) (min ((2 ^ (w - 1) : Nat) - 1) n))
  else BitVec.ofInt 64 (max 0 (min ((2 ^ w : Nat) - 1) n))

/-- The conversion of R311, in the low bits of 64; under FTZ the FP32 value it rounds to is zero where that is subnormal
(log entry 19). -/
def cvtValue (ftz : Bool) (r lane dt st : Nat) (x : DWord) : DWord :=
  let v := cvtSource ftz st x
  if 8 ≤ dt then
    let y := cvtRound (cvtFmt dt) r lane v
    BitVec.ofNat 64 (if ftz && dt == 10 then f32.flushIn y else y)
  else match v with
    | .nan => 0#64
    | .inf s => cvtClamp dt (if s then -(2 ^ 64 : Nat) else (2 ^ 64 : Nat))
    | .fin s m e => cvtClamp dt (cvtInt r lane s m e)

/-- DREL: the exact difference rounded once to FP32; an exact zero difference is +0 (R255, R313). -/
def drel (ftz : Bool) (a b : FVal) : Nat :=
  match a.add .rn b.neg with
  | .fin neg m e => f32.pack .rn ftz (.fin (neg && m != 0) m e)
  | x => f32.pack .rn ftz x

/-! ### The instructions -/

/-- A two-operand FP32 word. -/
def State.fOp (s : State) (i : Instr) (r : BitVec 2) (d a b : BitVec 8) (f : Rnd → FVal → FVal → FVal) :
    Outcome State Fault Refusal :=
  s.regOp i [vn a, vn b] d fun s => s.ofF (Rnd.ofCode r.toNat) (f (Rnd.ofCode r.toNat) (s.f (vn a)) (s.f (vn b)))

def execFadd (r : BitVec 2) (d a b : BitVec 8) (s : State) : Outcome State Fault Refusal :=
  s.fOp (.fadd r d a b) r d a b fun m x y => x.add m y

def execFsub (r : BitVec 2) (d a b : BitVec 8) (s : State) : Outcome State Fault Refusal :=
  s.fOp (.fsub r d a b) r d a b fun m x y => x.add m y.neg

def execFmul (r : BitVec 2) (d a b : BitVec 8) (s : State) : Outcome State Fault Refusal :=
  s.fOp (.fmul r d a b) r d a b fun _ x y => x.mul y

def execFdiv (r : BitVec 2) (d a b : BitVec 8) (s : State) : Outcome State Fault Refusal :=
  s.fOp (.fdiv r d a b) r d a b fun _ x y => x.div y

/-- FFMA: the addend is the register of a C4 hint, or the old D (R301). -/
def execFfma (r : BitVec 2) (d a b : BitVec 8) (s : State) : Outcome State Fault Refusal :=
  s.runWord (.ffma r d a b)
    { hints := { c4 := true }, regs := regsUpTo [vn d, vn a, vn b, vn (s.ag.hints.c4.getD d)] } fun s =>
    let m := Rnd.ofCode r.toNat
    .done (s.setV (vn d) (s.ofF m (((s.f (vn a)).mul (s.f (vn b))).add m (s.f (vn (s.ag.hints.c4.getD d))))))

/-- The lesser or greater of two FP32 registers, flushed under FTZ (R253, R301). -/
def State.fMinMax (s : State) (mx : Bool) (a b : Nat) : Word :=
  let g := fun (x : Word) => if s.ftz then f32.flushIn x.toNat else x.toNat
  BitVec.ofNat 32 (f32.minMax mx (g (s.v a)) (g (s.v b)))

def execFmin (d a b : BitVec 8) (s : State) : Outcome State Fault Refusal :=
  s.regOp (.fmin d a b) [vn a, vn b] d fun s => s.fMinMax false (vn a) (vn b)

def execFmax (d a b : BitVec 8) (s : State) : Outcome State Fault Refusal :=
  s.regOp (.fmax d a b) [vn a, vn b] d fun s => s.fMinMax true (vn a) (vn b)

def execFcmp (c p : BitVec 3) (a b : BitVec 8) (s : State) : Outcome State Fault Refusal :=
  s.runWord (.fcmp c p a b) { regs := regsUpTo [vn a, vn b] } fun s =>
    .done (s.setP p (condFloat c (s.f (vn a)) (s.f (vn b))))

def execDcmp (c p : BitVec 3) (a b : BitVec 7) (s : State) : Outcome State Fault Refusal :=
  s.runWord (.dcmp c p a b) { regs := regsUpTo [pn a + 1, pn b + 1] } fun s =>
    .done (s.setP p (condFloat c (s.f64 (pn a)) (s.f64 (pn b))))

/-- HCMP2 writes element 0's result to p2n and element 1's to p2n+1 (R272, R306). -/
def execHcmp2 (t : BitVec 1) (c : BitVec 3) (p : BitVec 2) (a b : BitVec 8) (s : State) :
    Outcome State Fault Refusal :=
  s.runWord (.hcmp2 t c p a b) { regs := regsUpTo [vn a, vn b] } fun s =>
    let f := fmt16 t
    let cmp := fun lo => condFloat c (f.unpack (bits (s.v (vn a)) lo 16).toNat) (f.unpack (bits (s.v (vn b)) lo 16).toNat)
    .done ((s.setP (p ++ 0#1) (cmp 0)).setP (p ++ 1#1) (cmp 16))

/-- A one-operand FP32 word. -/
def State.fUnary (s : State) (i : Instr) (d a : BitVec 8) (f : State → FVal → Word) : Outcome State Fault Refusal :=
  s.regOp i [vn a] d fun s => f s (s.f (vn a))

def execFrnd (d a : BitVec 8) (r : BitVec 3) (s : State) : Outcome State Fault Refusal :=
  s.fUnary (.frnd d a r) d a fun s x => s.ofF .rn (x.integral (Rnd.ofCode r.toNat))

def execFclass (d a : BitVec 8) (s : State) : Outcome State Fault Refusal :=
  s.regOp (.fclass d a) [vn a] d fun s => fclass (s.v (vn a))

def execFrcp (d a : BitVec 8) (s : State) : Outcome State Fault Refusal :=
  s.fUnary (.frcp d a) d a fun s x => s.ofF .rn ((FVal.fin false 1 0).div x)

def execFsqrt (d a : BitVec 8) (r : BitVec 3) (s : State) : Outcome State Fault Refusal :=
  s.fUnary (.fsqrt d a r) d a fun s x => s.ofF (Rnd.ofCode r.toNat) x.sqrt

def execFrsq (d a : BitVec 8) (s : State) : Outcome State Fault Refusal :=
  s.fUnary (.frsq d a) d a fun s x => s.ofF .rn x.rsqrt

def execFexp2 (d a : BitVec 8) (s : State) : Outcome State Fault Refusal :=
  s.fUnary (.fexp2 d a) d a fun s x => BitVec.ofNat 32 (exp2f32 s.ftz x)

def execFlog2 (d a : BitVec 8) (s : State) : Outcome State Fault Refusal :=
  s.fUnary (.flog2 d a) d a fun s x => BitVec.ofNat 32 (log2f32 s.ftz x)

def execFmovm (d a : BitVec 8) (t o : BitVec 2) (s : State) : Outcome State Fault Refusal :=
  let w := if t = 1#2 then 1 else 0
  s.runWord (.fmovm d a t o) { regs := regsUpTo [vn d + w, vn a + w] } fun s =>
    if t = 1#2 then
      let x := s.pair (vn a)
      .done (s.setPair (vn d) (setBit 64 x 63 (signOp o (x.getLsbD 63) ((s.pair (vn d)).getLsbD 63))))
    else .done (s.setV (vn d) (fmovWord t o (s.v (vn a)) (s.v (vn d))))

def execDsqrt (d a : BitVec 7) (r : BitVec 3) (s : State) : Outcome State Fault Refusal :=
  s.runWord (.dsqrt d a r) { regs := regsUpTo [pn d + 1, pn a + 1] } fun s =>
    .done (s.setPair (pn d) (packF64 (Rnd.ofCode r.toNat) (s.f64 (pn a)).sqrt))

def execDrnd (d a : BitVec 7) (r : BitVec 3) (s : State) : Outcome State Fault Refusal :=
  s.runWord (.drnd d a r) { regs := regsUpTo [pn d + 1, pn a + 1] } fun s =>
    .done (s.setPair (pn d) (packF64 .rn ((s.f64 (pn a)).integral (Rnd.ofCode r.toNat))))

/-- A packed two-operand word (R307). -/
def State.hOp (s : State) (i : Instr) (d a b : BitVec 8) (f : Nat → Nat → Nat) : Outcome State Fault Refusal :=
  s.regOp i [vn a, vn b] d fun s => packed f (s.v (vn a)) (s.v (vn b))

def execHadd2 (d a b : BitVec 8) (m : BitVec 1) (s : State) : Outcome State Fault Refusal :=
  let f := fmt16 m
  s.hOp (.hadd2 d a b m) d a b fun x y => f.pack .rn false ((f.unpack x).add .rn (f.unpack y))

def execHmul2 (d a b : BitVec 8) (m : BitVec 1) (s : State) : Outcome State Fault Refusal :=
  let f := fmt16 m
  s.hOp (.hmul2 d a b m) d a b fun x y => f.pack .rn false ((f.unpack x).mul (f.unpack y))

def execHmin2 (d a b : BitVec 8) (m : BitVec 1) (s : State) : Outcome State Fault Refusal :=
  s.hOp (.hmin2 d a b m) d a b ((fmt16 m).minMax false)

def execHmax2 (d a b : BitVec 8) (m : BitVec 1) (s : State) : Outcome State Fault Refusal :=
  s.hOp (.hmax2 d a b m) d a b ((fmt16 m).minMax true)

def execHfma2 (d a b : BitVec 8) (m : BitVec 1) (s : State) : Outcome State Fault Refusal :=
  s.runWord (.hfma2 d a b m)
    { hints := { c4 := true }, regs := regsUpTo [vn d, vn a, vn b, vn (s.ag.hints.c4.getD d)] } fun s =>
    .done (s.setV (vn d) (hfma (fmt16 m) (s.v (vn a)) (s.v (vn b)) (s.v (vn (s.ag.hints.c4.getD d)))))

/-- A two-operand FP64 word (R308). -/
def State.dOp (s : State) (i : Instr) (d a b : BitVec 7) (f : DWord → DWord → DWord) : Outcome State Fault Refusal :=
  s.pairOp i d a b f

/-- An FP64 operation on encodings. -/
def d2 (r : BitVec 2) (f : Rnd → FVal → FVal → FVal) (a b : DWord) : DWord :=
  packF64 (Rnd.ofCode r.toNat) (f (Rnd.ofCode r.toNat) (f64.unpack a.toNat) (f64.unpack b.toNat))

def execDadd (d : BitVec 7) (r : BitVec 2) (a b : BitVec 7) (s : State) : Outcome State Fault Refusal :=
  s.dOp (.dadd d r a b) d a b (d2 r fun m x y => x.add m y)

def execDsub (d : BitVec 7) (r : BitVec 2) (a b : BitVec 7) (s : State) : Outcome State Fault Refusal :=
  s.dOp (.dsub d r a b) d a b (d2 r fun m x y => x.add m y.neg)

def execDmul (d : BitVec 7) (r : BitVec 2) (a b : BitVec 7) (s : State) : Outcome State Fault Refusal :=
  s.dOp (.dmul d r a b) d a b (d2 r fun _ x y => x.mul y)

def execDdiv (d : BitVec 7) (r : BitVec 2) (a b : BitVec 7) (s : State) : Outcome State Fault Refusal :=
  s.dOp (.ddiv d r a b) d a b (d2 r fun _ x y => x.div y)

def execDmin (d a b : BitVec 7) (s : State) : Outcome State Fault Refusal :=
  s.dOp (.dmin d a b) d a b fun x y => BitVec.ofNat 64 (f64.minMax false x.toNat y.toNat)

def execDmax (d a b : BitVec 7) (s : State) : Outcome State Fault Refusal :=
  s.dOp (.dmax d a b) d a b fun x y => BitVec.ofNat 64 (f64.minMax true x.toNat y.toNat)

/-- DFMA: the addend is the pair of a C4 hint, whose payload must be even, or the old pair D (R308). -/
def execDfma (d : BitVec 7) (r : BitVec 2) (a b : BitVec 7) (s : State) : Outcome State Fault Refusal :=
  let c := (s.ag.hints.c4.map BitVec.toNat).getD (pn d)
  s.runWord (.dfma d r a b)
    { hints := { c4 := true }, regs := regsUpTo [pn d + 1, pn a + 1, pn b + 1, c + 1], ok := c % 2 == 0 } fun s =>
    let m := Rnd.ofCode r.toNat
    .done (s.setPair (pn d) (packF64 m (((s.f64 (pn a)).mul (s.f64 (pn b))).add m (s.f64 c))))

/-- The register or pair a conversion's side names. -/
def State.cvtRead (s : State) (wide : Bool) (r : Nat) : DWord := if wide then s.pair r else (s.v r).setWidth 64

/-- A conversion: CVT, or CVTD with a 64-bit side (R309 to R312). -/
def State.convert (s : State) (i : Instr) (r : BitVec 3) (d a : BitVec 8) (t st : BitVec 4) : Outcome State Fault Refusal :=
  let dw := cvtWide t.toNat
  let sw := cvtWide st.toNat
  s.runWord i { regs := regsUpTo [vn d + (if dw then 1 else 0), vn a + (if sw then 1 else 0)] } fun s =>
    let x := cvtValue s.ftz r.toNat s.laneId t.toNat st.toNat (s.cvtRead sw (vn a))
    .done (if dw then s.setPair (vn d) x else s.setV (vn d) (bits x 0 32))

def execCvt (r : BitVec 3) (d a : BitVec 8) (t st : BitVec 4) (s : State) : Outcome State Fault Refusal :=
  s.convert (.cvt r d a t st) r d a t st

def execCvtd (r : BitVec 3) (d a : BitVec 8) (t st : BitVec 4) (s : State) : Outcome State Fault Refusal :=
  s.convert (.cvtd r d a t st) r d a t st

def execDrel (d : BitVec 8) (a b : BitVec 7) (s : State) : Outcome State Fault Refusal :=
  s.runWord (.drel d a b) { regs := regsUpTo [vn d, pn a + 1, pn b + 1] } fun s =>
    .done (s.setV (vn d) (BitVec.ofNat 32 (drel s.ftz (s.f64 (pn a)) (s.f64 (pn b)))))

end Sys2Proof.Machine
end

