-- ==== Sys2Proof/Machine/Team.lean ====
section
/-! DEFINITION. Teams and what their lanes wait on: rejoin masks (R168, R169), the barrier pool (R187 to R193),
and the end of a lane and of a team (R171, R182, R192, R196, R295). -/

namespace Sys2Proof.Machine

/-! ### Lanes of a team -/

/-- A lane has ended. -/
def Agent.ended (a : Agent) : Bool := a.status == .ended

/-- A rejoin mask of a group (R168). -/
def Team.mask (t : Team) (g j : Nat) : BitVec 8 := NMap.get 0#8 t.masks (16 * g + j)

def Team.setMask (t : Team) (g j : Nat) (m : BitVec 8) : Team := { t with masks := NMap.set 0#8 t.masks (16 * g + j) m }

/-- The bit of a lane in the masks of its group. -/
def laneBit (lane : Nat) : BitVec 8 := 1#8 <<< (lane % 8)

/-- The lanes of a group that `f` holds of, as a mask. -/
def Team.groupMask (t : Team) (g : Nat) (f : Agent → Bool) : BitVec 8 :=
  BitVec.ofNat 8 (((List.range 8).map fun i =>
    match t.lanes.find? (8 * g + i) with
    | some a => if f a then 2 ^ i else 0
    | none => 0).sum)

/-- The lanes of a group that exist and have not ended (R171). -/
def Team.liveMask (t : Team) (g : Nat) : BitVec 8 := t.groupMask g fun a => !a.ended

/-- Groups of a team (R143). -/
def Team.groups (t : Team) : Nat := (t.nlanes + 7) / 8

/-- Whether a team's lanes may issue: running, not held, not stopped by pre-emption (R153, R176). -/
def Team.runs (t : Team) : Bool := t.phase == .running && !t.held && !t.preempted

/-! ### Rejoin masks -/

/-- Whether an agent is parked at JWAIT of a mask. -/
def Agent.atRejoin (a : Agent) (j : Nat) : Bool := a.status == .parked (.rejoin j)

/-- The test of one mask of a group (R169). -/
def Team.testMask (t : Team) (g j : Nat) : Team :=
  let arrived := t.groupMask g fun a => a.atRejoin j
  if arrived != 0#8 && t.mask g j &&& ~~~arrived == 0#8 then
    let t := t.setMask g j 0#8
    { t with lanes := t.lanes.map fun (e : Nat × Agent) =>
        if e.1 / 8 = g && e.2.atRejoin j then (e.1, e.2.wake) else e }
  else t

/-- The test of every mask of a group (R169), those apart that the bundle under way has cleared by JCLR (R168). -/
def Team.testMasks (t : Team) (g : Nat) : Team :=
  (List.range 16).foldl (fun t j => if t.cleared.contains (16 * g + j) then t else t.testMask g j) t

/-! ### The barrier pool -/

def Core.barrier (k : Core) (e : Nat) : Barrier := NMap.get {} k.barriers e

def State.barrier (s : State) (c e : Nat) : Barrier := (s.core c).barrier e

def State.modBarrier (s : State) (c e : Nat) (f : Barrier → Barrier) : State :=
  s.modCore c fun k => { k with barriers := k.barriers.put e (f (k.barrier e)) }

def Core.basin (k : Core) (e : Nat) : Basin := NMap.get {} k.basins e

def State.modBasin (s : State) (c e : Nat) (f : Basin → Basin) : State :=
  s.modCore c fun k => { k with basins := k.basins.put e (f (k.basin e)) }

/-- A handle with its PSEL advanced by 1, modulo 8 (R187). -/
def advancePsel (h : Word) : Word :=
  (h &&& ~~~0xE0000#32) ||| (((bits h 17 3 + 1#3).setWidth 32) <<< 17)

/-- The slot of a basin's read position, its phase selector, and the pool entry of its slot barrier (R193). -/
def Basin.readSlot (b : Basin) : Nat × Nat × Nat :=
  let n := b.slots.length
  (b.rp.toNat % n, b.rp.toNat / n % 8, b.slots.getD (b.rp.toNat % n) 0)

/-- A lane released from BWAIT or BSNFILL: with its results of true, pts raised to `t`, or with false (R190, R193). -/
def State.releaseWaiter (s : State) (ok : Bool) (t : DWord) (r : AgentRef) : State :=
  match s.agentAt r with
  | none => s
  | some a =>
    match a.status with
    | .parked (.barrier _ _ _ reg p) =>
      if ok then (s.putAgent r ((a.putReg reg (advancePsel (a.reg reg))).setPred p true).wake).raisePts (coreOfRef r) t
      else s.putAgent r (a.setPred p false).wake
    | .parked (.basin core entry dest p) =>
      if ok then
        let slot := ((s.core core).basin entry).readSlot.1
        (s.putAgent r ((a.putReg dest (BitVec.ofNat 32 slot)).setPred p true).wake).raisePts (coreOfRef r) t
      else s.putAgent r (a.setPred p false).wake
    | _ => s

/-- Whether an agent waits in BWAIT or BSNFILL on an entry of a pool; with a phase, for that phase (R190). -/
def State.waitsOn (s : State) (c e : Nat) (phase : Option Nat) (a : Agent) : Bool :=
  match a.status with
  | .parked (.barrier core entry psel _ _) => core == c && entry == e && (phase.isNone || phase == some psel.toNat)
  | .parked (.basin core entry _ _) =>
    let r := ((s.core core).basin entry).readSlot
    core == c && ((s.core core).basin entry).allocated && r.2.2 == e && (phase.isNone || phase == some r.2.1)
  | _ => false

/-- Every lane that waits on an entry released. -/
def State.releaseWaiters (s : State) (c e : Nat) (phase : Option Nat) (ok : Bool) (t : DWord) : State :=
  (s.lanesWhere fun a => s.waitsOn c e phase a).foldl (fun s r =>
    if (s.agentAt r).any fun a => s.waitsOn c e phase a then s.releaseWaiter ok t r else s) s

/-- `enter_error` of R190. -/
def State.barrierError (s : State) (c e : Nat) : State :=
  (s.modBarrier c e fun b => { b with err := true }).releaseWaiters c e none false 0#64

/-- `post` of R190. -/
def State.post (s : State) (c e arrivals : Nat) (bytes announced : Nat) (ts : DWord) : State :=
  let b := s.barrier c e
  if b.err then s
  else
    let nb := b.balance + bytes - announced
    if b.expect < b.arrived + arrivals || nb > 0xFFFFFFFF || nb < -0xFFFFFFFF then s.barrierError c e
    else
      let b := { b with arrived := b.arrived + arrivals, balance := nb, maxTs := tmax b.maxTs ts }
      if b.arrived = b.expect && nb ≥ 0 then
        let close := tmax b.closeTs b.maxTs
        let s := s.modBarrier c e fun _ => { b with closeTs := close }
        let s := s.releaseWaiters c e (some (b.phases.toNat % 8)) true close
        s.modBarrier c e fun b => { b with phases := b.phases + 1#32, arrived := 0, balance := 0, maxTs := 0#64 }
      else s.modBarrier c e fun _ => b

/-- An entry freed: its waiters released with false, its generation incremented (R189). -/
def State.freeBarrier (s : State) (c e : Nat) : State :=
  let s := s.releaseWaiters c e none false 0#64
  s.modBarrier c e fun b => { gen := b.gen + 1#11 }

/-- One reference dropped; the entry is freed at 0 (R189). -/
def State.dropRef (s : State) (c e : Nat) : State :=
  let s := s.modBarrier c e fun b => { b with refs := b.refs - 1 }
  if (s.barrier c e).refs = 0 then s.freeBarrier c e else s

/-- One reference taken (R189). -/
def State.takeRef (s : State) (c e : Nat) : State := s.modBarrier c e fun b => { b with refs := b.refs + 1 }

/-- A basin freed: its slot barriers drop its references and its waiters are released false (R193). -/
def State.freeBasin (s : State) (c e : Nat) : State :=
  let b := (s.core c).basin e
  let waits := fun (a : Agent) => match a.status with
    | .parked (.basin core entry _ _) => core == c && entry == e
    | _ => false
  let s := (s.lanesWhere waits).foldl (fun s r =>
    if (s.agentAt r).any waits then s.releaseWaiter false 0#64 r else s) s
  let s := s.modBasin c e fun b => { gen := b.gen + 1#11 }
  b.slots.foldl (fun s x => s.dropRef c x) s

/-! ### Team and cluster barriers -/

/-- The lanes of a set of teams that have not ended are all parked at a barrier, and at least one is. -/
def allAt (ts : List Team) (w : Wait) : Bool :=
  (ts.all fun t => t.phase != .staging && t.lanes.all fun (e : Nat × Agent) => e.2.ended || e.2.status == .parked w) &&
  ts.any fun t => t.lanes.any fun (e : Nat × Agent) => e.2.status == .parked w

/-- The lanes of a team parked at a barrier released. -/
def Team.releaseAt (t : Team) (w : Wait) : Team :=
  { t with lanes := t.lanes.map fun (e : Nat × Agent) => if e.2.status == .parked w then (e.1, e.2.wake) else e }

/-- The test of a team barrier (R192). The arrivers' cores are the team's own, so pts keeps its value. -/
def Team.testTeamBarrier (t : Team) : Team := if allAt [t] .teamBarrier then t.releaseAt .teamBarrier else t

/-- Whether two teams belong to one cluster of one launch (R141). -/
def sameCluster (a b : Team) : Bool :=
  a.launch == b.launch && a.cluster == b.cluster

/-- The teams of a team's cluster: core, slot and team. -/
def State.clusterOf (s : State) (t : Team) : List (Nat × Nat × Team) :=
  s.cores.flatMap fun (c : Nat × Core) => c.2.teams.filterMap fun (e : Nat × Team) =>
    if sameCluster t e.2 then some (c.1, e.1, e.2) else none

/-- A lane of a team waits at the cluster barrier. -/
def Team.atCluster (t : Team) : Bool := t.lanes.any fun (e : Nat × Agent) => e.2.status == .parked .clusterBarrier

/-- The test of a cluster barrier (R192): waiters take the largest pts among the arrivers' cores, those of lanes that
ended while others waited among them. -/
def State.testClusterBarrier (s : State) (t : Team) : State :=
  let ts := s.clusterOf t
  if allAt (ts.map fun x => x.2.2) .clusterBarrier then
    let p := ts.foldl (fun p x => tmax p (tmax x.2.2.arrivedTs (if x.2.2.atCluster then (s.core x.1).pts else 0#64))) 0#64
    ts.foldl (fun s x =>
      let s := s.setTeam x.1 x.2.1 { x.2.2.releaseAt .clusterBarrier with arrivedTs := 0#64 }
      if x.2.2.atCluster then s.raisePts x.1 p else s) s
  else s

/-- A lane of a core has ended: the teams of its cluster whose lanes wait at the cluster barrier keep the core's pts, for
it counts as arrived (R192). -/
def State.endedWaiting (s : State) (c : Nat) (t : Team) : State :=
  (s.clusterOf t).foldl (fun s x =>
    if x.2.2.atCluster then s.modTeam x.1 x.2.1 fun t => { t with arrivedTs := tmax t.arrivedTs (s.core c).pts } else s) s

/-- The tests of the team and cluster barriers of a team. -/
def State.testTeam (s : State) (c slot : Nat) : State :=
  let s := s.modTeam c slot Team.testTeamBarrier
  match s.team c slot with
  | some t => s.testClusterBarrier t
  | none => s

/-! ### The end of a lane -/

/-- A waiting instance that names an ended lane raises COLLMASK in every lane that has arrived (R171). -/
def Agent.collMask (a : Agent) (lane : Nat) : Agent :=
  match a.status with
  | .parked (.collective _ _ at_ mask _ _) =>
    if mask &&& laneBit lane != 0#8 then
      { a.wake with pendTrap := some { cause := .collMask, pc := at_, addr := mask.setWidth 64 } }
    else a
  | _ => a

/-- The lane gone from its team: ended, cleared from the masks of its group, whose tests follow (R168, R169, R171). -/
def Team.endLane (t : Team) (lane : Nat) : Team :=
  match t.lanes.find? lane with
  | none => t
  | some a =>
    let g := lane / 8
    let t := { t with lanes := t.lanes.put lane { a with status := .ended, pendTrap := none, hints := {}, held := [] } }
    let t := (List.range 16).foldl (fun t j => t.setMask g j (t.mask g j &&& ~~~(laneBit lane))) t
    let t := { t with lanes := t.lanes.map fun (e : Nat × Agent) =>
      if e.1 / 8 = g then (e.1, e.2.collMask lane) else e }
    t.testMasks g

/-- Every dirty line of a core's L1 written back (R72). -/
def State.writeBackAll (s : State) (core : Nat) : State :=
  (s.core core).l1.foldl (fun s (e : Nat × L1Line) => s.l1WriteBack core e.1) s

/-- The end of fusion: once no team of a cluster with fused L1s is left to end, every L1 of its rectangle writes its dirty
private lines back (R146, R186). -/
def State.unfuse (s : State) (t : Team) : State :=
  match (s.launch t.launch).bind fun l => fusedOf l t with
  | none => s
  | some (o, cx, cy) =>
    if (s.clusterOf t).all fun x => x.2.2.phase == .retired then
      (List.range (cx * cy)).foldl (fun s p => s.writeBackAll (o + p % cx + 16 * (p / cx))) s
    else s

/-- A team whose last lane has ended: its slot stays held (R182); the largest pts of the launch's cores is kept (R132). -/
def State.retireTeam (s : State) (c slot : Nat) : State :=
  match s.team c slot with
  | none => s
  | some t =>
    if t.phase == .running && t.lanes.all fun (e : Nat × Agent) => e.2.ended then
      let s := s.setTeam c slot { t with phase := .retired, held := false, preempted := false, saved := [] }
      let s := s.modLaunch t.launch fun l => { l with
        endTs := (c :: l.cores).foldl (fun x k => tmax x (s.core k).pts) l.endTs }
      (s.unfuse t).later [.event (.slotRelease c slot)]
    else s

/-- The end of a lane of a team, as by EXIT (R168, R171, R192, R295); stores of it that are still out lie below the
launch's completion (R132). -/
def State.endLane (s : State) (c slot lane : Nat) : State :=
  let r := AgentRef.lane c slot lane
  match s.agentAt r with
  | none => s
  | some a =>
    if a.ended then s
    else
      let s := (s.leaveUnits r).leaveDomain r
      let s := match s.team c slot with
        | some t => (a.stores.foldl (fun (s : State) w => s.wroteAt t.launch w) s).endedWaiting c t
        | none => s
      let s := s.modTeam c slot fun t => t.endLane lane
      (s.testTeam c slot).retireTeam c slot

/-- Every lane of a team ended (R374). -/
def State.endTeam (s : State) (c slot : Nat) : State :=
  match s.team c slot with
  | none => s
  | some t => t.lanes.foldl (fun s (e : Nat × Agent) => s.endLane c slot e.1) s

end Sys2Proof.Machine
end

