-- ==== Sys2Proof/Machine/Control.lean ====
section
/-! DEFINITION. Branches, calls, the dispatch table, ends, yields and rejoin masks (R168, R173, R292 to R296). -/

namespace Sys2Proof.Machine

open Host (Outcome)

/-- No hint word is accepted, a GUARD hint included (R274, R292). -/
def noHints : HintUse := { guard := false }

def execBrp (p : BitVec 3) (n : BitVec 1) (o : BitVec 21) (s : State) : Outcome State Fault Refusal :=
  s.runWord (.brp p n o) { hints := noHints } fun s =>
    if s.predX n p then .jump s (branchTarget s.ag.pc o) else .done s

def execBr (o : BitVec 21) (s : State) : Outcome State Fault Refusal :=
  s.runWord (.br o) { hints := noHints } fun s => .jump s (branchTarget s.ag.pc o)

def execCall (o : BitVec 21) (s : State) : Outcome State Fault Refusal :=
  s.runWord (.call o) { hints := noHints } fun s =>
    .jump (s.modAg fun a => { a with link := codeAddr (a.pc + 4#64) }) (branchTarget s.ag.pc o)

def execRet (s : State) : Outcome State Fault Refusal :=
  s.runWord .ret {} fun s => .jump s s.ag.link

/-- The dispatch table entry of an index, none for an index that R173 refuses. -/
def State.entryAt (s : State) (i : Word) : Got (Option DWord) :=
  match s.myLaunch with
  | none => .ok s none
  | some l =>
    if i = 0#32 || decide (l.record.dtlen ≤ i.toNat) then .ok s none
    else (s.readEntry l i.toNat).bind fun s e => .ok s (some e)

/-- What a word does with the entry of an index, after the checks of R173; `null` is the outcome of an entry that is
0. -/
def enterWith (i : Word) (null : Option (State → Res)) (f : State → DWord → Res) (s : State) : Option DWord → Res
  | none => .trap .dispatch (i.setWidth 64)
  | some e =>
    if e = 0#64 then
      match null with
      | some g => g s
      | none => .trap .dispatch (i.setWidth 64)
    else if entryOk e then f s e
    else .trap .dispatch e

/-- The use of a dispatch table entry by BRX, CALLX or BRDH (R173). -/
def State.useEntry (s : State) (i : Word) (null : Option (State → Res)) (f : State → DWord → Res) : Res :=
  (s.entryAt i).then (enterWith i null f)

def execBrx (a : BitVec 8) (s : State) : Outcome State Fault Refusal :=
  s.runWord (.brx a) { regs := regsUpTo [vn a] } fun s => s.useEntry (s.v (vn a)) none fun s e => .jump s e

def execCallx (p : BitVec 3) (a : BitVec 8) (s : State) : Outcome State Fault Refusal :=
  s.runWord (.callx p a) { regs := regsUpTo [vn a] } fun s =>
    s.useEntry (s.v (vn a)) (some fun s => .done (s.setP p false)) fun s e =>
      .jump ((s.modAg fun g => { g with link := codeAddr (g.pc + 4#64) }).setP p true) e

def execNop (s : State) : Outcome State Fault Refusal := s.runWord .nop {} fun s => .done s

/-- The thread checked in, its end performed. -/
def State.exitNow (s : State) : State :=
  match s.cur with
  | .lane c slot l => { (s.putAgent s.cur s.ag).endLane c slot l with cur := .none, ag := {} }
  | .keeper c n => s.dropContext c n
  | _ => s

def execExit (s : State) : Outcome State Fault Refusal :=
  s.runWord .exit { tad := false } fun s => .placed s.exitNow

def execYield (s : State) : Outcome State Fault Refusal :=
  s.runWord .yield { tadWait := true } fun s =>
    .done (if s.kind = .team then s.modAg fun a => { a with yieldUntil := some (s.cclk + 32) } else s)

/-- The rejoin mask of a lane's group changed (R168). -/
def State.modMask (s : State) (j : Nat) (f : BitVec 8 → BitVec 8) : State :=
  let g := s.laneId / 8
  s.modMyTeam fun t => t.setMask g j (f (t.mask g j))

/-- A word of major 0x35: of a team's lane alone (R167). -/
def State.maskOp (s : State) (i : Instr) (regs : Nat) (body : State → Res) : Outcome State Fault Refusal :=
  s.runWord i { regs := regs, tad := false, keeper := false } body

def execJset (j : BitVec 4) (s : State) : Outcome State Fault Refusal :=
  s.maskOp (.jset j) 0 fun s => .done (s.modMask j.toNat fun m => m ||| laneBit s.laneId)

def execJclr (j : BitVec 4) (s : State) : Outcome State Fault Refusal :=
  s.maskOp (.jclr j) 0 fun s =>
    let g := s.laneId / 8
    .done ((s.modMask j.toNat fun _ => 0#8).modMyTeam fun t => { t with cleared := (16 * g + j.toNat) :: t.cleared })

def execJwait (j : BitVec 4) (s : State) : Outcome State Fault Refusal :=
  s.maskOp (.jwait j) 0 fun s => .park s (.rejoin j.toNat)

def execJdrop (j : BitVec 4) (s : State) : Outcome State Fault Refusal :=
  s.maskOp (.jdrop j) 0 fun s => .done (s.modMask j.toNat fun m => m &&& ~~~(laneBit s.laneId))

def execJmask (d : BitVec 8) (j : BitVec 4) (s : State) : Outcome State Fault Refusal :=
  s.maskOp (.jmask d j) (regsUpTo [vn d]) fun s =>
    .done (s.setV (vn d) (((s.myTeam.map fun t => t.mask (s.laneId / 8) j.toNat).getD 0#8).setWidth 32))

end Sys2Proof.Machine
end

