-- ==== Sys2Proof/Machine/Tensor.lean ====
section
/-! DEFINITION. Tensor shape records: their fields and checks, the geometry of a tile (R208 to R211). -/

namespace Sys2Proof.Machine

/-- A little-endian field of some bytes. -/
def fieldAt (bs : List Byte) (off n : Nat) : Nat := leNat ((bs.drop off).take n)

/-- Element size in bits of a format code; 0 for a code that is refused (R208). -/
def formatBits (f : Nat) : Nat :=
  match f with
  | 0 => 8
  | 1 => 16
  | 2 => 32
  | 3 => 64
  | 4 => 4
  | 5 => 1
  | 8 => 8
  | 9 => 4
  | _ => 0

/-- The DXB formats (R208). -/
def formatDxb (f : Nat) : Bool := f == 8 || f == 9

/-- The fields of a record (R208); dimensions above the rank are left out. -/
def parseRecord (bs : List Byte) : TensorRec :=
  let r := fieldAt bs 17 1
  { base := fieldAt bs 0 8, scales := fieldAt bs 8 8, format := fieldAt bs 16 1, rank := r, bank := fieldAt bs 18 1,
    fill := BitVec.ofNat 32 (fieldAt bs 20 4), extent := (List.range r).map fun d => fieldAt bs (24 + 4 * d) 4,
    pitch := (List.range (r - 1)).map fun d => fieldAt bs (56 + 8 * d) 8,
    tile := (List.range r).map fun d => fieldAt bs (104 + 2 * d) 2 }

/-- Every record condition of R208 holds. -/
def recordOk (bs : List Byte) : Bool :=
  let t := parseRecord bs
  let s := formatBits t.format
  let t0 := t.tile.headD 0
  s != 0 && decide (1 ≤ t.rank) && decide (t.rank ≤ 7) && decide (t.bank ≤ 3) && decide (t.base < 2 ^ 56)
    && (if formatDxb t.format then t.scales % 2 == 0 && decide (t.scales < 2 ^ 56) else t.scales == 0)
    && fieldAt bs 19 1 == 0 && fieldAt bs 52 4 == 0 && fieldAt bs 118 10 == 0
    && (List.range 7).all (fun d =>
      let e := fieldAt bs (24 + 4 * d) 4
      let u := fieldAt bs (104 + 2 * d) 2
      if d < t.rank then decide (1 ≤ e) && decide (e ≤ 2 ^ 31) && decide (1 ≤ u) && decide (u ≤ 256)
      else e == 0 && u == 0)
    && (List.range 6).all (fun d =>
      let p := fieldAt bs (56 + 8 * d) 8
      if d + 1 < t.rank then decide (p < 2 ^ 48) && p % 8 == 0 else p == 0)
    && t0 * s % 8 == 0
    && (!formatDxb t.format || (t.extent.headD 0 % 32 == 0 && t0 % 32 == 0))
    && (t.bank == 0 || t0 * s / 8 % (16 * 2 ^ t.bank) == 0)

/-- Bits of an element. -/
def TensorRec.bits (t : TensorRec) : Nat := formatBits t.format

/-- Bytes of a tile row: RB (R209). -/
def TensorRec.rowBytes (t : TensorRec) : Nat := t.tile.headD 0 * t.bits / 8

/-- Rows of a tile (R209). -/
def TensorRec.rows (t : TensorRec) : Nat := (t.tile.drop 1).foldl (· * ·) 1

/-- Bytes of the elements of a tile. -/
def TensorRec.elemBytes (t : TensorRec) : Nat := t.rowBytes * t.rows

/-- Blocks of a DXB tile. -/
def TensorRec.blocks (t : TensorRec) : Nat := if formatDxb t.format then t.elemBytes * 8 / (32 * t.bits) else 0

/-- The byte count TB of a tile (R209). -/
def TensorRec.bytes (t : TensorRec) : Nat := t.elemBytes + 2 * t.blocks

/-- A row number taken apart, dimension 1 fastest (R209). -/
def rowCoords : List Nat → Nat → List Nat
  | [], _ => []
  | n :: ns, x => x % n :: rowCoords ns (x / n)

/-- The tensor coordinates of an element of the tile at `cs`: row ρ, place e0 (R209). -/
def TensorRec.coords (t : TensorRec) (cs : List Int) (row e0 : Nat) : List Int :=
  List.zipWith (fun (c : Int) (e : Nat) => c + e) cs (e0 :: rowCoords (t.tile.drop 1) row)

/-- An element lies inside the tensor (R210). -/
def TensorRec.inside (t : TensorRec) (k : List Int) : Bool :=
  (List.zipWith (fun (c : Int) (e : Nat) => decide (0 ≤ c) && decide (c < e)) k t.extent).all id

/-- The bit address of an element (R209). -/
def TensorRec.bitAddr (t : TensorRec) (k : List Int) : Nat :=
  (8 * (t.base : Int) + t.bits * k.headD 0
    + (List.zipWith (fun (p : Nat) (c : Int) => (p : Int) * c) t.pitch (k.drop 1)).sum).toNat

/-- The address of the scale pair of the block whose first element lies at `k` (R210). -/
def TensorRec.scaleAddr (t : TensorRec) (k : List Int) : Nat :=
  let rest := (List.zipWith (fun (e : Nat) (c : Int) => (e, c)) (t.extent.drop 1) (k.drop 1)).foldr
    (fun x (acc : Int) => x.2 + x.1 * acc) 0
  ((t.scales : Int) + 2 * (Int.fdiv (k.headD 0) 32 + t.extent.headD 0 / 32 * rest)).toNat

/-- The place of the element byte at a dense offset under the bank permutation (R211). -/
def TensorRec.place (t : TensorRec) (o : Nat) : Nat := Nat.xor o (o / t.rowBytes % 2 ^ t.bank * 16)

/-- The fill value's low bits (R208). -/
def TensorRec.fillBits (t : TensorRec) : Nat := t.fill.toNat % 2 ^ t.bits

/-- Signed 32-bit coordinates in consecutive registers. -/
def State.coordRegs (s : State) (r n : Nat) : List Int := (s.vs r n).map BitVec.toInt

/-- A tensor shape record read by the lane, a `.dev` load (R201, R321). -/
def State.readRecord (s : State) (addr : Nat) : Got (List Byte) := s.loadVA s.who 2#2 none addr 128

end Sys2Proof.Machine
end

