-- ==== Sys2Proof/Machine/MemInstr.lean ====
section
/-! DEFINITION. Loads, stores, atomics, fences, WAITC and cache maintenance (R316 to R328). -/

namespace Sys2Proof.Machine

open Host (Outcome)

/-- What waits until every earlier access of the thread has completed (R75, R190, R236, R243, R326). -/
def State.afterAccesses (s : State) (f : State → Res) : Res := if s.netBusy then .peer s else f s.drain

/-- The other threads of a berth that stand at the thread's word, those of its bundle among them, each with whether it comes
earlier in the bundle's order. -/
def State.atWord (s : State) : List (AgentRef × Bool × Agent) :=
  match s.cur with
  | .lane c slot l => (((s.team c slot).map Team.lanes).getD []).filterMap fun (e : Nat × Agent) =>
    if e.1 ≠ l && e.1 / 8 % 16 == l / 8 % 16 && e.2.pc == s.ag.pc then some (.lane c slot e.1, decide (e.1 < l), e.2) else none
  | .tad c slot l =>
    let seq := ((s.core c).tads.find? slot).map Tadpole.seq
    ((s.core c).tads.filter fun (x : Nat × Tadpole) => x.1 % 16 == slot % 16 && some x.2.seq == seq).flatMap
      fun (x : Nat × Tadpole) => x.2.lanes.filterMap fun (e : Nat × Agent) =>
        if (x.1 ≠ slot || e.1 ≠ l) && e.2.pc == s.ag.pc then
          some (.tad c x.1 e.1, decide (x.1 < slot) || (x.1 == slot && decide (e.1 < l)), e.2)
        else none
  | _ => []

/-- An earlier lane of the thread's bundle still waits at the word (R160, R334, R354). -/
def State.behind (s : State) : Bool := s.atWord.any fun x => x.2.1 && x.2.2.status == .parked .peer

/-- An access to an aperture of another lane at the word has not completed. -/
def State.matesOut (s : State) : Bool :=
  s.atWord.any fun x => (x.2.2.status == .ready || x.2.2.status == .parked .peer || x.2.2.status.isMid)
    && s.net.any fun (e : Nat × NetAccess) => e.2.out && e.2.agent == x.1 && e.2.engine.isNone

/-- A word that the lanes of a bundle perform in ascending order, each once its own earlier accesses have completed (R160,
R334, R354). The model's reading: log entry 96. -/
def State.inOrder (s : State) (f : State → Res) : Res := if s.behind then .peer s else s.afterAccesses f

/-! ### Global loads and stores -/

/-- The scope and the class hint of the access of a word. -/
def State.scope (s : State) : BitVec 2 := s.ag.hints.scopeOr

/-- A value of `n` bytes, sign-extended to a word. -/
def signWord (n x : Nat) : Word := if n = 1 then (BitVec.ofNat 8 x).signExtend 32 else (BitVec.ofNat 16 x).signExtend 32

/-- The address of a global operand of a word (R319). -/
def State.eaOf (s : State) (a : BitVec 7) (o : BitVec 6) (n : Nat) : Nat :=
  (globalEa (s.pair (pn a)) (s.ag.hints.off o) n).toNat

def execLd (d : BitVec 8) (a : BitVec 7) (z : BitVec 3) (o : BitVec 6) (s : State) : Outcome State Fault Refusal :=
  let k := sizeRegs z.toNat
  s.runWord (.ld d a z o)
    { hints := { imm20 := true, cache := true, scope := true }, regs := regsUpTo [vn d + k - 1, pn a + 1] } fun s =>
    (s.drain.loadPlain s.who s.scope s.ag.hints.cache (s.eaOf a o (sizeBytes z.toNat)) (sizeBytes z.toNat)).then fun s bs =>
      .done ((s.setVs (vn d) (regWords k (leNat bs))).hold ((List.range k).map (vn d + ·)))

def execLdSigned (d : BitVec 8) (a : BitVec 7) (z : BitVec 1) (o : BitVec 6) (s : State) :
    Outcome State Fault Refusal :=
  let n := sizeBytes z.toNat
  s.runWord (.ldSigned d a z o)
    { hints := { imm20 := true, cache := true, scope := true }, regs := regsUpTo [vn d, pn a + 1] } fun s =>
    (s.drain.loadPlain s.who s.scope s.ag.hints.cache (s.eaOf a o n) n).then fun s bs =>
      .done ((s.setV (vn d) (signWord n (leNat bs))).hold [vn d])

def execSt (d : BitVec 8) (a : BitVec 7) (z : BitVec 3) (o : BitVec 6) (s : State) : Outcome State Fault Refusal :=
  let n := sizeBytes z.toNat
  let k := sizeRegs z.toNat
  s.runWord (.st d a z o)
    { hints := { imm20 := true, cache := true, scope := true }, regs := regsUpTo [vn d + k - 1, pn a + 1] } fun s =>
    (s.drain.storeVA s.who s.scope s.ag.hints.cache (s.eaOf a o n) (wordsBytes (s.vs (vn d) k) n)).then fun s _ => .done s

/-! ### Team memory -/

/-- The checks of a team memory access: range, then alignment (R185, R317, R320). -/
def State.teamCheck (s : State) (ta : Word) (n : Nat) : Option Cause :=
  if s.tmemSize < ta.toNat + n then some .access else if ta.toNat % n ≠ 0 then some .align else none

/-- What follows the checks of a team memory access; the access itself takes its place after the lane's earlier accesses
to global memory, which lie in the team's order too (R236). -/
def State.teamAccess (s : State) (ta : Word) (n : Nat) (f : Res) : Res :=
  match s.teamCheck ta n with
  | some c => .trap c (ta.setWidth 64)
  | none => f

def State.taOf (s : State) (a : BitVec 8) (o : BitVec 6) (n : Nat) : Word := teamEa (s.v (vn a)) (s.ag.hints.off o) n

def execLdt (d a : BitVec 8) (z : BitVec 3) (o : BitVec 6) (s : State) : Outcome State Fault Refusal :=
  let n := sizeBytes z.toNat
  let k := sizeRegs z.toNat
  s.runWord (.ldt d a z o) { hints := { imm20 := true }, regs := regsUpTo [vn d + k - 1, vn a] } fun s =>
    let ta := s.taOf a o n
    s.teamAccess ta n (s.afterAccesses fun s => .done (s.setVs (vn d) (regWords k (s.tmNum ta.toNat n))))

def execLdtSigned (d a : BitVec 8) (z : BitVec 1) (o : BitVec 6) (s : State) : Outcome State Fault Refusal :=
  let n := sizeBytes z.toNat
  s.runWord (.ldtSigned d a z o) { hints := { imm20 := true }, regs := regsUpTo [vn d, vn a] } fun s =>
    let ta := s.taOf a o n
    s.teamAccess ta n (s.afterAccesses fun s => .done (s.setV (vn d) (signWord n (s.tmNum ta.toNat n))))

def execStt (d a : BitVec 8) (z : BitVec 3) (o : BitVec 6) (s : State) : Outcome State Fault Refusal :=
  let n := sizeBytes z.toNat
  let k := sizeRegs z.toNat
  s.runWord (.stt d a z o) { hints := { imm20 := true }, regs := regsUpTo [vn d + k - 1, vn a] } fun s =>
    let ta := s.taOf a o n
    s.teamAccess ta n (s.afterAccesses fun s => .done (s.tmWrite ta.toNat (wordsBytes (s.vs (vn d) k) n)))

/-! ### Coordinate loads and stores -/

/-- The record of an XLD or XST, its coordinates and the registers it names checked (R321). -/
def State.xElement (s : State) (i : Instr) (d a : BitVec 8) (b : BitVec 7) (f : State → TensorRec → List Int → Res) : Res :=
  let at_ := s.pair (pn b)
  if at_.toNat < 2 ^ 56 ∧ at_.toNat % 64 ≠ 0 then .trap .align at_
  else (s.drain.readRecord at_.toNat).then fun s bs =>
    let t := parseRecord bs
    if !recordOk bs then .trap .record at_
    else if s.reach < vn a + t.rank || (t.format = 3 && (d.getLsbD 0 || s.reach < vn d + 2)) then
      .trap .illegal ((encode i).setWidth 64)
    else f s t (s.coordRegs (vn a) t.rank)

/-- Registers a coordinate element fills. -/
def TensorRec.elemRegs (t : TensorRec) : Nat := if t.bits = 64 then 2 else 1

def execXld (d a : BitVec 8) (b : BitVec 7) (s : State) : Outcome State Fault Refusal :=
  s.runWord (.xld d a b)
    { hints := { cache := true, scope := true }, regs := regsUpTo [vn d, vn a, pn b + 1] } fun s =>
    s.xElement (.xld d a b) d a b fun s t k =>
      let put := fun (s : State) (x : Nat) => s.setVs (vn d) (regWords t.elemRegs x)
      if !t.inside k then .done (put s t.fillBits)
      else
        let at_ := t.bitAddr k
        let n := max 1 (t.bits / 8)
        (s.loadPlain s.who s.scope s.ag.hints.cache (at_ / 8) n).then fun s bs =>
          .done ((put s (leNat bs / 2 ^ (at_ % 8) % 2 ^ t.bits)).hold ((List.range t.elemRegs).map (vn d + ·)))

/-! ### New values of atomics -/

/-- A number of `n` bytes as a signed one. -/
def signedOf (n x : Nat) : Int := if x < 2 ^ (8 * n - 1) then x else (x : Int) - 2 ^ (8 * n)

/-- The new value of an integer atomic on `n` bytes (R323); code 14 is the masked replacement of a sub-byte XST (R321),
with the mask as the compare value. -/
def atomNew (op n o v c : Nat) : Nat :=
  match op with
  | 0 => (o + v) % 2 ^ (8 * n)
  | 1 => if signedOf n o ≤ signedOf n v then o else v
  | 2 => if signedOf n o ≤ signedOf n v then v else o
  | 3 => min o v
  | 4 => max o v
  | 5 => Nat.land o v
  | 6 => Nat.lor o v
  | 7 => Nat.xor o v
  | 8 => v
  | 9 => if o = c then v else o
  | 10 => if v ≤ o then 0 else o + 1
  | 11 => if o = 0 ∨ v < o then v else o - 1
  | _ => Nat.lor (o - Nat.land o c) (Nat.land v c)

/-- The new value of a floating-point atomic (R324). -/
def atomFNew (op n o v : Nat) : Nat :=
  let halves := fun (f : Fmt) =>
    let one := fun (i : Nat) =>
      f.pack .rn false ((f.unpack (o / 2 ^ (16 * i) % 65536)).add .rn (f.unpack (v / 2 ^ (16 * i) % 65536)))
    one 0 + 65536 * one 1
  let f := if n = 4 then f32 else f64
  match op with
  | 0 => f.pack .rn false ((f.unpack o).add .rn (f.unpack v))
  | 1 => f.minMax false o v
  | 2 => f.minMax true o v
  | 3 => halves f16
  | _ => halves bf16

/-- The new value of an atomic of either kind. -/
def atomValue (float : Bool) (op n o v c : Nat) : Nat := if float then atomFNew op n o v else atomNew op n o v c

/-- What an atomic that has read its word writes (R198). -/
def Rmw.new (r : Rmw) (old : List Byte) : List Byte :=
  match r.ask with
  | .atomic float op n v c _ => leBytes n (atomValue float op n (leNat old) v.toNat c.toNat)
  | _ => old

/-! ### Coordinate stores -/

/-- A byte with `n` of its bits from `i` up replaced. -/
def spliceBits (old : Byte) (i n x : Nat) : Byte :=
  let mask := BitVec.ofNat 8 ((2 ^ n - 1) * 2 ^ i)
  (old &&& ~~~mask) ||| (BitVec.ofNat 8 (x * 2 ^ i) &&& mask)

def execXst (d a : BitVec 8) (b : BitVec 7) (s : State) : Outcome State Fault Refusal :=
  s.runWord (.xst d a b)
    { hints := { cache := true, scope := true }, regs := regsUpTo [vn d, vn a, pn b + 1] } fun s =>
    match s.myRmw with
    | some r => (s.rmwFinish r s.ag.hints.cache false r.new).then fun s _ => .done s
    | none => s.xElement (.xst d a b) d a b fun s t k =>
      if !t.inside k then .done s
      else
        let at_ := t.bitAddr k
        let x := wordsNat (s.vs (vn d) t.elemRegs) % 2 ^ t.bits
        if 8 ≤ t.bits then
          (s.storeVA s.who s.scope s.ag.hints.cache (at_ / 8) (leBytes (t.bits / 8) x)).then fun s _ => .done s
        else
          let f := fun (bs : List Byte) => bs.map fun o => spliceBits o (at_ % 8) t.bits x
          let ask := NetKind.atomic false 14 1 (BitVec.ofNat 128 (x * 2 ^ (at_ % 8)))
            (BitVec.ofNat 128 ((2 ^ t.bits - 1) * 2 ^ (at_ % 8))) false
          (s.rmwVA s.who s.scope s.ag.hints.cache (at_ / 8) 1 false true ask f).then fun s _ => .done s

/-! ### Atomics -/

/-- Registers an operand of an atomic's size names (R322). -/
def atomRegs (z : BitVec 2) : Nat := 2 ^ z.toNat

/-- What an atomic demands (R322): a C4 hint for compare-and-swap and no other, its payload a multiple of the width. -/
def State.atomDemand (s : State) (cas : Bool) (d a : BitVec 8) (z : BitVec 2) (m : BitVec 1) : Demand :=
  let c := (s.ag.hints.c4.map BitVec.toNat).getD 0
  let k := atomRegs z
  { hints := { scope := true, c4 := cas, needC4 := cas },
    regs := regsUpTo ([vn d + k - 1, vn a + (if m = 0#1 then 1 else 0)] ++ if cas then [c + k - 1] else []),
    ok := !cas || c % k == 0 }

/-- ATOM, RED, ATOMF, REDF (R322 to R325). -/
def State.atomic (s : State) (i : Instr) (float returns : Bool) (d a : BitVec 8) (o : BitVec 4) (z : BitVec 2)
    (m : BitVec 1) : Outcome State Fault Refusal :=
  let cas := !float && o == 9#4
  let k := atomRegs z
  let n := 4 * k
  s.runWord i (s.atomDemand cas d a z m) fun s =>
    let v := wordsNat (s.vs (vn d) k)
    let c := if cas then wordsNat (s.vs ((s.ag.hints.c4.map BitVec.toNat).getD 0) k) else 0
    let put := fun (s : State) (x : Nat) => if returns then s.setVs (vn d) (regWords k x) else s
    if m = 1#1 then
      let ta := s.v (vn a)
      s.teamAccess ta n (s.afterAccesses fun s =>
        let old := s.tmNum ta.toNat n
        .done (put (s.tmWrite ta.toNat (leBytes n (atomValue float o.toNat n old v c))) old))
    else
      let f := fun (bs : List Byte) => leBytes n (atomValue float o.toNat n (leNat bs) v c)
      let ask := NetKind.atomic float o.toNat n (BitVec.ofNat 128 v) (BitVec.ofNat 128 c) returns
      (s.drain.rmwVA s.who s.scope none (s.pair (vn a)).toNat n returns false ask f).then fun s bs =>
        .done (if returns then (put s (leNat bs)).hold ((List.range k).map (vn d + ·)) else s)

def execAtom (d a : BitVec 8) (o : BitVec 4) (z : BitVec 2) (m : BitVec 1) (s : State) : Outcome State Fault Refusal :=
  s.atomic (.atom d a o z m) false true d a o z m

def execRed (d a : BitVec 8) (o : BitVec 4) (z : BitVec 2) (m : BitVec 1) (s : State) : Outcome State Fault Refusal :=
  s.atomic (.red d a o z m) false false d a o z m

def execAtomf (d a : BitVec 8) (o : BitVec 4) (z : BitVec 2) (m : BitVec 1) (s : State) : Outcome State Fault Refusal :=
  s.atomic (.atomf d a o z m) true true d a o z m

def execRedf (d a : BitVec 8) (o : BitVec 4) (z : BitVec 2) (m : BitVec 1) (s : State) : Outcome State Fault Refusal :=
  s.atomic (.redf d a o z m) true false d a o z m

/-! ### FENCE, WAITC, CFLUSH, CINV -/

/-- FENCE: the lane goes on once every earlier access of it has completed (R326). -/
def execFence (sc : BitVec 2) (s : State) : Outcome State Fault Refusal :=
  s.runWord (.fence sc) {} fun s => s.afterAccesses .done

/-- The monitor a lane shares: of its bundle, with equal word, compare and value (R194). -/
def State.sharedMonitor (s : State) (m : Monitor) (x : Monitor) : Bool :=
  x.pa == m.pa && x.size == m.size && x.cond == m.cond && x.value == m.value && x.lanes.any fun r =>
    match r, s.cur with
    | .lane c slot l, .lane c' slot' l' =>
      c == c' && slot == slot' && l / 8 % 16 == l' / 8 % 16 &&
      ((s.agentAt (.lane c slot l)).any fun a => a.parkedAt == s.cclk && a.pc == s.ag.pc + 4#64)
    | _, _ => false

/-- A WAITC whose condition does not hold: it takes or shares a monitor of the word's slice, or parks without one
(R194, R195). -/
def State.monitorWait (s : State) (w : CondWait) : Res :=
  let m : Monitor := { pa := w.pa, size := w.size, cond := w.cond, value := w.value, lanes := [s.cur] }
  match s.monitors.find? (s.sharedMonitor m) with
  | some x =>
    .park { s with monitors := s.monitors.map fun y => if y = x then { x with lanes := x.lanes ++ [s.cur] } else y }
      (.cond { w with monitor := true })
  | none =>
    if (s.monitors.filter fun (x : Monitor) => homeSlice x.pa = homeSlice w.pa).length < 256 then
      .park { s with monitors := s.monitors ++ [m] } (.cond { w with monitor := true })
    else .park s (.cond w)

def execWaitc (d : BitVec 8) (a : BitVec 7) (c : BitVec 4) (z : BitVec 2) (s : State) : Outcome State Fault Refusal :=
  let k := atomRegs z
  let n := 4 * k
  s.runWord (.waitc d a c z)
    { hints := { scope := true }, regs := regsUpTo [vn d + k - 1, pn a + 1], tadWait := true,
      ok := decide (2 ≤ s.scope.toNat) } fun s =>
    let at_ := s.pair (pn a)
    let s := s.drain
    if !vaOk at_.toNat n then .trap .access at_
    else if at_.toNat % n ≠ 0 then .trap .align at_
    else match s.pieces s.who.asid .rd 2 at_.toNat n with
      | (s, .inl x) => .page s (pageWait s.who x false)
      | (s, .inr []) => .done s
      | (s, .inr (p :: _)) =>
        if (p.cls != 1 && p.cls != 2) || paRange p.pa != .local_ then .trap .access at_
        else if s.heldBack s.scope [p] then .peer s
        else
          let s := s.releaseLine (p.pa / 128)
          match s.firstPoison p.pa n with
          | some x => .bad (p.va + (x - p.pa)) x
          | none =>
            let s := s.homeLoad s.who p none
            let w := BitVec.ofNat 64 (s.numAt p.pa n)
            let v := BitVec.ofNat 64 (wordsNat (s.vs (vn d) k))
            if condHolds c.toNat n w v then .done (s.setVs (vn d) (regWords k w.toNat))
            else s.monitorWait { pa := p.pa, size := n, cls := p.cls, cond := c.toNat, value := v, dest := vn d,
                                 monitor := false, asid := s.who.asid, page := p.va / 4096, hints := s.ag.hints }

/-- The line of a cache maintenance word: its owner L1 and its line; none for a host or aperture address (R328). -/
def State.lineOp (s : State) (a : BitVec 7) (f : State → Nat → Nat → State) : Res :=
  let at_ := s.pair (pn a)
  let s := s.drain
  if !vaOk at_.toNat 1 then .trap .access at_
  else match s.pieces s.who.asid .rd 2 at_.toNat 1 with
    | (s, .inl x) => .page s (pageWait s.who x false)
    | (s, .inr []) => .done s
    | (s, .inr (p :: _)) =>
      if s.refuses false p then .trap .access at_
      else if paRange p.pa = .local_ then .done (f s (s.who.l1Core (p.pa / 128)) (p.pa / 128))
      else .done s

def execCflush (a : BitVec 7) (s : State) : Outcome State Fault Refusal :=
  s.runWord (.cflush a) { regs := regsUpTo [pn a + 1] } fun s => s.lineOp a fun s c l => s.l1WriteBack c l

def execCinv (a : BitVec 7) (s : State) : Outcome State Fault Refusal :=
  s.runWord (.cinv a) { regs := regsUpTo [pn a + 1] } fun s => s.lineOp a fun s c l => (s.l1WriteBack c l).l1Drop c l

end Sys2Proof.Machine
end

