-- ==== Sys2Proof/Machine/Sync.lean ====
section
/-! DEFINITION. Barriers and basins: handles and their validity, and the instructions on them (R187 to R193, R329 to
R333). -/

namespace Sys2Proof.Machine

open Host (Outcome)

/-! ### Handles -/

/-- Teams in a cluster of the thread's launch: CLUS_X and CLUS_Y. -/
def State.clusterSize (s : State) : Nat × Nat :=
  match s.myLaunch with
  | some l => (l.record.clusX, l.record.clusY)
  | none => (1, 1)

/-- The position of the thread's team in its cluster (R186). -/
def State.clusterPos (s : State) : Nat :=
  (s.myTeam.map fun t => t.ci + s.clusterSize.1 * t.cj).getD 0

/-- The core at a position of the thread's cluster, none past its end (R187). -/
def State.coreAt (s : State) (pos : Nat) : Option Nat :=
  let c := s.clusterSize
  match s.myTeam with
  | none => none
  | some t =>
    if c.1 * c.2 ≤ 1 then (if pos = 0 then some s.coreNo else none)
    else if pos < c.1 * c.2 then some (t.origin + pos % c.1 + 16 * (pos / c.1)) else none

/-- The pool entry a valid barrier handle names: owning core and index; on another core than the user's, one that a lane of
the user's own cluster has allocated (R187, R188). -/
def State.validBarrier (s : State) (h : Word) : Option (Nat × Nat) :=
  if bits h 31 1 != 0#1 || bits h 16 1 != 0#1 || bits h 10 2 != 0#2 then none
  else match s.coreAt (bits h 12 4).toNat with
    | none => none
    | some c =>
      let e := (bits h 0 10).toNat
      let b := s.barrier c e
      if b.allocated && b.gen == bits h 20 11 && some b.launch == s.myLaunchNo
        && (c == s.coreNo || b.cluster == s.who.cluster) then some (c, e) else none

/-- The entry a valid basin handle names (R193). -/
def State.validBasin (s : State) (h : Word) : Option Nat :=
  if bits h 31 1 != 0#1 || bits h 6 14 != 0#14 || s.kind == .keeper then none
  else
    let e := (bits h 0 6).toNat
    let b := (s.core s.coreNo).basin e
    if b.allocated && b.gen == bits h 20 11 && some b.launch == s.myLaunchNo then some e else none

/-- A barrier handle (R187). -/
def barrierHandle (gen : BitVec 11) (psel cpos e : Nat) : Word :=
  BitVec.ofNat 32 (gen.toNat * 2 ^ 20 + psel * 2 ^ 17 + cpos * 2 ^ 12 + e)

/-- A basin handle (R193). -/
def basinHandle (gen : BitVec 11) (e : Nat) : Word := BitVec.ofNat 32 (gen.toNat * 2 ^ 20 + e)

/-- What follows the check of a barrier handle in a register (R188). -/
def State.onBarrier (s : State) (a : BitVec 8) (f : Nat → Nat → Res) : Res :=
  match s.validBarrier (s.v (vn a)) with
  | some (c, e) => f c e
  | none => .trap .barHandle ((s.v (vn a)).setWidth 64)

/-- What follows the check of a basin handle in a register (R193). -/
def State.onBasin (s : State) (a : BitVec 8) (f : Nat → Res) : Res :=
  match s.validBasin (s.v (vn a)) with
  | some e => f e
  | none => .trap .barHandle ((s.v (vn a)).setWidth 64)

/-! ### The pool -/

/-- The `n` lowest free entries of a core's pool; fewer when it holds fewer (R189). -/
def Core.freeEntries (k : Core) (n : Nat) : List Nat :=
  ((List.range 1024).filter fun e => !(k.barrier e).allocated).take n

/-- An entry allocated (R189). -/
def State.allocBarrier (s : State) (c e n : Nat) : State :=
  s.modBarrier c e fun b => { allocated := true, launch := s.myLaunchNo.getD 0, cluster := s.who.cluster, expect := n, refs := 1, gen := b.gen }

/-- The phase a selector names has closed: k ≠ 0 (R191). -/
def Barrier.closed (b : Barrier) (psel : Nat) : Bool := (b.phases.toNat + 8 - psel) % 8 != 0

def execBalloc (d : BitVec 8) (p : BitVec 3) (i : BitVec 9) (s : State) : Outcome State Fault Refusal :=
  s.runWord (.balloc d p i) { hints := { imm20 := true }, regs := regsUpTo [vn d], tad := false } fun s =>
    let n := (s.ag.hints.imm i).toInt
    if n < 1 || 65535 < n then .trap .barCount 0#64
    else match s.kind, (s.core s.coreNo).freeEntries 1 with
      | .team, [e] =>
        let h := barrierHandle (s.barrier s.coreNo e).gen 0 s.clusterPos e
        .done (((s.allocBarrier s.coreNo e n.toNat).setV (vn d) h).setP p true)
      | _, _ => .done ((s.setV (vn d) 0xFFFFFFFF#32).setP p false)

/-- A word on a barrier that a tadpole refuses (R333). -/
def State.barrierWord (s : State) (i : Instr) (regs : List Nat) (tad : Bool) (body : State → Res) :
    Outcome State Fault Refusal :=
  s.runWord i { regs := regsUpTo regs, tad := tad } body

def execBref (a : BitVec 8) (s : State) : Outcome State Fault Refusal :=
  s.barrierWord (.bref a) [vn a] false fun s => s.onBarrier a fun c e =>
    if 65535 ≤ (s.barrier c e).refs then .trap .barCount 0#64 else .done (s.takeRef c e)

def execBfree (a : BitVec 8) (s : State) : Outcome State Fault Refusal :=
  s.barrierWord (.bfree a) [vn a] false fun s => s.onBarrier a fun c e => .done (s.dropRef c e)

/-- Arrivals posted once every earlier access of the lane has completed, with the core's pts (R190, R330). -/
def State.arrive (s : State) (a : BitVec 8) (n : Nat) : Res :=
  s.onBarrier a fun c e =>
    if n < 1 || 65535 < n then .trap .barCount 0#64
    else s.afterAccesses fun s => .done (s.post c e n 0 0 (s.core s.coreNo).pts)

def execBarr (a : BitVec 8) (n : BitVec 4) (s : State) : Outcome State Fault Refusal :=
  s.barrierWord (.barr a n) [vn a] true fun s => s.arrive a (n.toNat + 1)

def execBarrReg (d a : BitVec 8) (s : State) : Outcome State Fault Refusal :=
  s.barrierWord (.barrReg d a) [vn d, vn a] true fun s => s.arrive a (s.v (vn d)).toNat

def execBexp (d a : BitVec 8) (s : State) : Outcome State Fault Refusal :=
  s.barrierWord (.bexp d a) [vn d, vn a] true fun s => s.onBarrier a fun c e =>
    .done (s.post c e 0 0 (s.v (vn d)).toNat 0#64)

/-- A closed phase seen through a register that held a handle: pts takes CLOSETS, and the register the handle with its
PSEL advanced (R191). -/
def State.seeClosed (s : State) (a : BitVec 8) (h : Word) (b : Barrier) : State :=
  (s.raisePts s.coreNo b.closeTs).setV (vn a) (advancePsel h)

def execBwait (a : BitVec 8) (p : BitVec 3) (s : State) : Outcome State Fault Refusal :=
  s.runWord (.bwait a p) { regs := regsUpTo [vn a], tadWait := true } fun s => s.onBarrier a fun c e =>
    let b := s.barrier c e
    let psel := bits (s.v (vn a)) 17 3
    if b.err then .done (s.setP p false)
    else if b.closed psel.toNat then .done ((s.seeClosed a (s.v (vn a)) b).setP p true)
    else .park s.drain (.barrier c e psel (vn a) p)

/-- BTEST: D takes the status, and then A the handle it held with its PSEL advanced (R331; log entry 33). -/
def execBtest (d a : BitVec 8) (p : BitVec 3) (s : State) : Outcome State Fault Refusal :=
  s.barrierWord (.btest d a p) [vn d, vn a] false fun s => s.onBarrier a fun c e =>
    let b := s.barrier c e
    if b.err then .done ((s.setV (vn d) 2#32).setP p false)
    else if b.closed (bits (s.v (vn a)) 17 3).toNat then
      .done (((s.setV (vn d) 1#32).seeClosed a (s.v (vn a)) b).setP p true)
    else .done ((s.setV (vn d) 0#32).setP p false)

def execTbar (s : State) : Outcome State Fault Refusal :=
  s.runWord .tbar { keeper := false, tadWait := true } fun s => .park s.drain .teamBarrier

def execCbar (s : State) : Outcome State Fault Refusal :=
  s.runWord .cbar { keeper := false, tadWait := true } fun s =>
    .park s.drain (if s.clusterSize.1 * s.clusterSize.2 ≤ 1 then .teamBarrier else .clusterBarrier)

/-! ### Basins -/

/-- The lowest free basin entry of a core (R193). -/
def Core.freeBasinEntry (k : Core) : Option Nat := (List.range 64).find? fun e => !(k.basin e).allocated

def execBsnnew (d a : BitVec 8) (p : BitVec 3) (s : State) : Outcome State Fault Refusal :=
  s.barrierWord (.bsnnew d a p) [vn d, vn a] false fun s =>
    let n := (s.v (vn a)).toNat
    if n < 1 || 32 < n then .trap .barCount 0#64
    else
      let c := s.coreNo
      let es := (s.core c).freeEntries n
      match s.kind, (s.core c).freeBasinEntry with
      | .team, some e =>
        if es.length < n then .done ((s.setV (vn d) 0xFFFFFFFF#32).setP p false)
        else
          let gen := ((s.core c).basin e).gen
          let s := es.foldl (fun s x => s.allocBarrier c x 1) s
          let s := s.modBasin c e fun _ => { allocated := true, launch := s.myLaunchNo.getD 0, slots := es, gen := gen }
          .done ((s.setV (vn d) (basinHandle gen e)).setP p true)
      | _, _ => .done ((s.setV (vn d) 0xFFFFFFFF#32).setP p false)

/-- Position WP reserved when the ring has room: the slot, its barrier's entry, the phase selector (R193). -/
def State.reserveSlot (s : State) (c e : Nat) : Option (State × Nat × Nat × Nat) :=
  let b := (s.core c).basin e
  let n := b.slots.length
  if (b.wp - b.rp).toNat < n then
    let slot := b.wp.toNat % n
    some (s.modBasin c e fun b => { b with wp := b.wp + 1#32 }, slot, b.slots.getD slot 0, b.wp.toNat / n % 8)
  else none

def execBsnpost (d : BitVec 7) (a : BitVec 8) (p : BitVec 3) (s : State) : Outcome State Fault Refusal :=
  s.barrierWord (.bsnpost d a p) [pn d + 1, vn a] false fun s => s.onBasin a fun e => s.afterAccesses fun s =>
    let c := s.coreNo
    match s.reserveSlot c e with
    | none => .done (s.setP p false)
    | some (s, slot, x, psel) =>
      let h := barrierHandle (s.barrier c x).gen psel s.clusterPos x
      .done (((s.setV (pn d) (BitVec.ofNat 32 slot)).setV (pn d + 1) h).setP p true)

def execBsnfill (d a : BitVec 8) (p : BitVec 3) (s : State) : Outcome State Fault Refusal :=
  s.runWord (.bsnfill d a p) { regs := regsUpTo [vn d, vn a], tadWait := true } fun s => s.onBasin a fun e =>
    let c := s.coreNo
    let r := ((s.core c).basin e).readSlot
    let b := s.barrier c r.2.2
    if b.err then .done (s.setP p false)
    else if b.closed r.2.1 then .done (((s.raisePts c b.closeTs).setV (vn d) (BitVec.ofNat 32 r.1)).setP p true)
    else .park s.drain (.basin c e (vn d) p)

def execBsnrel (a : BitVec 8) (p : BitVec 3) (s : State) : Outcome State Fault Refusal :=
  s.barrierWord (.bsnrel a p) [vn a] false fun s => s.onBasin a fun e => s.afterAccesses fun s =>
    let c := s.coreNo
    let r := ((s.core c).basin e).readSlot
    if (s.barrier c r.2.2).closed r.2.1 then
      .done ((s.modBasin c e fun b => { b with rp := b.rp + 1#32 }).setP p true)
    else .done (s.setP p false)

def execBsnfree (a : BitVec 8) (s : State) : Outcome State Fault Refusal :=
  s.barrierWord (.bsnfree a) [vn a] false fun s => s.onBasin a fun e => .done (s.freeBasin s.coreNo e)

end Sys2Proof.Machine
end

