-- ==== Sys2Proof/Machine/Engine.lean ====
section
/-! DEFINITION. The engines: enqueueing, sequence numbers, engine accesses to memory, units, faults and errors,
completion (R76, R78, R199 to R201, R206 to R215, R334, R335). -/

namespace Sys2Proof.Machine

open Host (Outcome)

/-! ### Queues and sequence numbers -/

/-- Entries of an engine queue (R199). -/
def queueSize (q : Nat) : Nat := if q = 0 then 32 else 16

/-- An engine queue of a core is full (R199). -/
def State.queueFull (s : State) (c q : Nat) : Bool :=
  decide (queueSize q ≤ ((s.core c).ops.filter fun (o : EngineOp) => o.queue = q).length)

/-- The operation enqueued by the thread: its number, its entry, its barrier reference, ESEQ.LAST and the predicate
(R199, R200, R334). `d` names the register that receives the number, if the word has one. -/
def State.enqueue (s : State) (q : Nat) (p : BitVec 3) (d : Option Nat) (o : EngineOp) : State :=
  let c := s.coreNo
  let k := s.core c
  let seq := (if q = 2 then k.meIssue else k.ceIssue) + 1#32
  let o := { o with seq := seq, queue := q, ets := k.pts }
  let k := if q = 2 then { k with meIssue := seq } else { k with ceIssue := seq }
  let s := s.setCore c { k with ops := k.ops ++ [o] }
  let s := match o.bar, o.ownRef with
    | some (bc, be), true => s.takeRef bc be
    | _, _ => s
  let s := match d with
    | some r => s.setV r seq
    | none => s
  (s.modAg fun a => { a with eseqLast := seq }).setP p true

/-- The operation of the thread, before it is numbered. -/
def State.newOp (s : State) (kind : OpKind) (bar : Option (Nat × Nat)) : EngineOp :=
  let w := s.who
  { seq := 0#32, queue := 0, kind := kind, slot := w.slot, lane := w.lane, launch := w.launch, asid := w.asid,
    bar := bar, ets := 0#64, cache := s.ag.hints.cache }

/-- ESEQ moved on past the operations that have completed in turn (R200); `fuel` bounds them. -/
def Core.advanceSeq (me : Bool) : Nat → Core → Core
  | 0, k => k
  | fuel + 1, k =>
    let next := (if me then k.eseqMe else k.eseqCe) + 1#32
    match k.doneOps.find? fun x => x.1 == me && x.2.1 == next with
    | none => k
    | some (_, _, t) =>
      let k := { k with doneOps := k.doneOps.filter fun x => !(x.1 == me && x.2.1 == next) }
      let k := if me then { k with eseqMe := next, meTs := tmax k.meTs t } else { k with eseqCe := next, ceTs := tmax k.ceTs t }
      Core.advanceSeq me fuel k

/-- The event that goes on with an operation; of a bulk read, one that looks at its end. -/
def EngineOp.event (o : EngineOp) (c : Nat) : Instr :=
  match o.kind with
  | .bulk _ _ _ _ => .burstDeliver c o.seq.toNat o.units
  | .tcpy _ _ _ | .twb _ _ _ => .tcpyComplete c o.seq.toNat
  | .gath _ | .scat _ => .gatherComplete c o.seq.toNat
  | .mma _ _ _ => .mmaComplete c o.seq.toNat
  | .acq _ => .acqComplete c o.seq.toNat
  | .stage => .teamStart c o.slot

/-- An operation set going, at its issue or after a wait: a bulk read with a burst, or with its end where none is left. -/
def State.goOn (s : State) (c : Nat) (o : EngineOp) : State :=
  if o.queue = 0 && o.mayBear then s.moveBursts c o else s.later [.event (o.event c)]

/-- An operation has completed: its entry is free, ESEQ counts it, and what waited for it is looked at again (R154,
R182, R199, R200). -/
def State.completeOp (s : State) (c queue : Nat) (seq : Word) (ets : DWord) : State :=
  match s.op c queue seq with
  | none => s
  | some o =>
    let s := { s with net := s.net.filter fun (e : Nat × NetAccess) =>
      !(e.2.core == c && e.2.engine == some (o.queue, seq)) }
    let s := s.modCore c fun k =>
      let k := { k with ops := k.ops.filter fun (x : EngineOp) => !x.is queue seq,
                        doneOps := (queue == 2, seq, ets) :: k.doneOps }
      k.advanceSeq (queue == 2) k.doneOps.length
    let s := s.wroteAt o.launch (tmax ets (s.core c).pts)
    let s := if queue == 2 then s.retry (s.peersOf (.lane c o.slot 0)) else s
    let next := ((s.core c).ops.filter fun (x : EngineOp) => queue == 2 && x.queue == 2 && x.slot == o.slot).map fun x =>
      Move.event (x.event c)
    s.later (next ++ [.event (.slotRelease c o.slot), .event (.regionClaim c o.slot)])

/-- The source of an operation's event records and its engine code (R179, R180, R215). -/
def EngineOp.src (o : EngineOp) : Nat :=
  match o.kind with
  | .bulk _ _ _ _ => 4
  | .tcpy _ _ _ | .twb _ _ _ | .stage => 1
  | .gath _ | .scat _ => 3
  | .mma _ _ _ | .acq _ => 2

def EngineOp.code (o : EngineOp) : Nat :=
  match o.kind with
  | .bulk _ _ _ _ => 3
  | .tcpy _ _ _ | .twb _ _ _ | .stage => 0
  | .gath _ | .scat _ => 2
  | .mma _ _ _ | .acq _ => 1

/-- An event record of an operation (R179). -/
def EngineOp.record (o : EngineOp) (kind status addr : Nat) : EventRec :=
  { kind := kind, ltag := 0, slot := o.slot, lane := some o.lane, src := o.src, bar := o.bar.map Prod.snd,
    status := BitVec.ofNat 16 status, addr := BitVec.ofNat 64 (addr % 2 ^ 56), launch := o.launch }

/-- The address a BULK_DONE record gives (R180). -/
def OpKind.source : OpKind → Nat
  | .bulk (.linear a _) _ _ _ => a
  | .bulk (.tensor r _) _ _ _ => r.base
  | _ => 0

/-- `.ev` was given (R206). -/
def OpKind.wantsEvent : OpKind → Bool
  | .bulk _ _ _ ev => ev
  | _ => false

/-- The post of an operation's barrier at `ts`, its BULK_DONE record, and its completion with its ets (R76, R190, R206,
R212). -/
def State.finishOp (s : State) (c : Nat) (o : EngineOp) (bytes : Nat) (ts : DWord) : State :=
  let ets := ((s.op c o.queue o.seq).map EngineOp.ets).getD o.ets
  let s := match o.bar with
    | some (bc, be) =>
      let s := s.post bc be 1 bytes 0 ts
      if o.ownRef then s.dropRef bc be else s
    | none => s
  let s := if o.kind.wantsEvent then s.sendEvent c (o.record 3 0 o.kind.source) else s
  s.completeOp c o.queue o.seq ets

/-- The end of an operation in error (R215): the barrier in the error state, its event record, BULK_DONE with STATUS 1,
and its completion. -/
def State.errorOp (s : State) (c : Nat) (o : EngineOp) (record : Option (Nat × Nat × Nat)) : State :=
  let s := match o.bar with
    | some (bc, be) =>
      let s := s.barrierError bc be
      if o.ownRef then s.dropRef bc be else s
    | none => s
  let s := match record with
    | some (kind, status, addr) => s.sendEvent c (o.record kind status addr)
    | none => s
  let s := if o.kind.wantsEvent then s.sendEvent c (o.record 3 1 o.kind.source) else s
  s.completeOp c o.queue o.seq o.ets

/-! ### Engine accesses -/

/-- What an access of an engine comes to. -/
inductive EngGot (α : Type) where
  | ok (s : State) (x : α)
  /-- A translation fault of the unit at an address (R214). -/
  | fault (unit : Nat) (w : PageWait)
  /-- A poisoned sector read by the unit at an address: the virtual address, and where it lies (R214). -/
  | poison (unit addr pa : Nat)
  /-- A condition no replay mends, or a refusal: the address, the kind and STATUS of the record (R57, R215). -/
  | bad (addr kind status : Nat)
  /-- A peer's answer is awaited. -/
  | wait (s : State)

def EngGot.bind {α β : Type} (g : EngGot α) (f : State → α → EngGot β) : EngGot β :=
  match g with
  | .ok s x => f s x
  | .fault u w => .fault u w
  | .poison u a pa => .poison u a pa
  | .bad a k t => .bad a k t
  | .wait s => .wait s

/-- An access as a part of the unit at an address. -/
def EngGot.inUnit {α : Type} (g : EngGot α) (unit : Nat) : EngGot α :=
  match g with
  | .fault _ w => .fault unit w
  | .poison _ a pa => .poison unit a pa
  | g => g

/-- Who performs an operation's accesses. -/
def EngineOp.who (o : EngineOp) (c : Nat) : Who :=
  { core := c, asid := o.asid, launch := o.launch, slot := o.slot, lane := o.lane }

/-- An engine read of a line of a source (R76): it takes no ownership and reads what the home holds (R78). -/
def State.engineTouch (s : State) (c : Nat) (o : EngineOp) (p : Piece) : State :=
  let line := p.pa / 128
  let s := s.l2Touch line o.cache false
  if p.cls = 2 then
    let t := tmax ((s.op c o.queue o.seq).map EngineOp.ets |>.getD o.ets) (s.l2Line line).wts
    (s.modL2 line fun l => { l with rts := tmax l.rts t }).modOp c o.queue o.seq fun o => { o with ets := t }
  else s

/-- An engine read of host or peer memory observes what the writes there follow (R76, R240). -/
def State.engineSees (s : State) (c : Nat) (o : EngineOp) : State :=
  s.modOp c o.queue o.seq fun o => { o with ets := tmax o.ets s.outTs }

/-- The code of a record that reports a refusal of a cause (R180). -/
def refusalKind : Cause → Nat
  | .peerRef => 5
  | .peerLink => 6
  | .hostLink => 7
  | _ => 4

/-- The STATUS of a record that reports a refused aperture access: the stamp beside the aperture where it is stale
(R180). -/
def NetAccess.status (a : NetAccess) (c : Cause) : Nat :=
  if c = .peerRef then a.aperture + 256 * a.stamp.toNat else if c = .peerLink then a.aperture else 0

/-- The bytes of the pieces of an engine read. -/
def State.enginePieces (s : State) (c : Nat) (o : EngineOp) : List Piece → EngGot (List Byte)
  | [] => .ok s []
  | p :: ps =>
    match paRange p.pa with
    | .aperture n x =>
      match List.find? (fun (e : Nat × NetAccess) => e.2.core == c && e.2.engine == some (o.queue, o.seq)
          && e.2.va == p.va && e.2.kind == .load p.len) s.net with
      | some (_, a) =>
        match a.phase with
        | .done bs => ((s.engineSees c o).enginePieces c o ps).bind fun s more => .ok s (bs ++ more)
        | .refused k => .bad p.va (refusalKind k) (a.status k)
        | _ => .wait s
      | none => .wait (s.netSend (o.who c) n x p.va (.load p.len) (some (o.queue, o.seq)))
    | .local_ => ((s.engineTouch c o p).enginePieces c o ps).bind fun s more => .ok s (s.bytesAt p.pa p.len ++ more)
    | _ => ((s.engineSees c o).enginePieces c o ps).bind fun s more => .ok s (s.bytesAt p.pa p.len ++ more)

/-- The page an engine unit waits for. -/
def EngineOp.pageWait (o : EngineOp) (addr : Nat) (write : Bool) : PageWait :=
  { asid := o.asid, page := addr / 4096, addr := addr, write := write, fetch := false }

/-- An engine read of `n` bytes at a virtual address (R76, R214, R215). -/
def State.engineLoad (s : State) (c : Nat) (o : EngineOp) (va n : Nat) : EngGot (List Byte) :=
  if !vaOk va n then .bad va 4 o.code
  else match s.pieces o.asid .rd 66000 va n with
    | (_, .inl a) => .fault va (o.pageWait a false)
    | (s, .inr ps) =>
      if ps.any (s.refuses false) then .bad va 4 o.code
      else if ps.any Piece.isHost && s.hostDown then .bad va 7 0
      else match ps.findSome? fun p => (s.firstPoison p.pa p.len).map fun a => (p.va + (a - p.pa), a) with
        | some a => .poison va a.1 a.2
        | none => s.enginePieces c o ps

/-- The team of an operation. -/
def State.opTeam (s : State) (c : Nat) (o : EngineOp) : Option Team := s.team c o.slot

/-- Bytes written to the team memory of an operation's team. -/
def State.opTmWrite (s : State) (c : Nat) (o : EngineOp) (a : Nat) (bs : List Byte) : State :=
  s.modTeam c o.slot fun t => { t with tm := putBytes t.tm a bs }

/-- Elements e0 to e0 + n − 1 of a row of a tile: those inside read from memory, the others the fill value (R210). The
Boolean says that some lie inside. -/
def State.engineElems (s : State) (c : Nat) (o : EngineOp) (t : TensorRec) (cs : List Int) (row e0 n : Nat) :
    EngGot (List Nat × Bool) :=
  let ins := (List.range n).filter fun i => t.inside (t.coords cs row (e0 + i))
  match ins.head?, ins.getLast? with
  | some lo, some hi =>
    let at_ := t.bitAddr (t.coords cs row (e0 + lo))
    let first := at_ / 8
    let last := (at_ + (hi - lo + 1) * t.bits + 7) / 8
    (s.engineLoad c o first (last - first)).bind fun s bs =>
      let x := leNat bs / 2 ^ (at_ % 8)
      .ok s ((List.range n).map (fun i =>
        if lo ≤ i ∧ i ≤ hi then x / 2 ^ ((i - lo) * t.bits) % 2 ^ t.bits else t.fillBits), true)
  | _, _ => .ok s ((List.range n).map fun _ => t.fillBits, false)

/-- Elements packed from bit 0 upward into bytes (R211). -/
def packElems (width : Nat) (xs : List Nat) : List Byte :=
  leBytes (xs.length * width / 8) (xs.foldr (fun x acc => x + 2 ^ width * acc) 0)

/-! ### A unit that cannot go on -/

/-- An operation stopped by what a unit met: its fault, its poison, or its end in error (R214, R215). -/
def State.stopOp {α : Type} (s : State) (c : Nat) (o : EngineOp) (g : EngGot α) : State :=
  let code := o.code
  match g with
  | .ok s _ => s
  | .wait s => s
  | .fault u w => (s.modOp c o.queue o.seq fun o => { o with phase := .faulted u w.addr (some w) }).later
      [.event (.engineUnitFault c code o.seq.toNat)]
  | .poison u a pa => ((s.notePoison pa).modOp c o.queue o.seq fun o => { o with phase := .faulted u a none }).later
      [.event (.engineUnitFault c code o.seq.toNat)]
  | .bad a k t => (s.modOp c o.queue o.seq fun o => { o with phase := .failed a k t }).later
      [.event (.engineUnitError c code o.seq.toNat)]

/-- A unit of an operation done. -/
def State.unitDone (s : State) (c : Nat) (o : EngineOp) (u : Nat) : State :=
  s.modOp c o.queue o.seq fun o => { o with unitsDone := u :: o.unitsDone }

/-! ### Writing global memory -/

/-- The bits of a global byte range that a run of elements fills: byte address to the source bit of each of its bits. -/
def bitRun (m : NMap (List (Option Nat))) (dst src n : Nat) : NMap (List (Option Nat)) :=
  (List.range n).foldl (fun m i =>
    let b := (dst + i) / 8
    let old := NMap.get (List.replicate 8 none) m b
    m.put b (old.set ((dst + i) % 8) (some (src + i)))) m

/-- The bytes a row of a TWB tile writes, with the scale pairs of its blocks (R209 to R211). -/
def twbRow (t : TensorRec) (cs : List Int) (src row : Nat) : NMap (List (Option Nat)) :=
  let n := t.tile.headD 0
  let m := (List.range n).foldl (fun m e =>
    let k := t.coords cs row e
    if t.inside k then
      (List.range t.bits).foldl (fun m i =>
        let o := row * t.rowBytes * 8 + e * t.bits + i
        bitRun m (t.bitAddr k + i) (8 * (src + t.place (o / 8)) + o % 8) 1) m
    else m) ([] : NMap (List (Option Nat)))
  if formatDxb t.format then
    (List.range (n / 32)).foldl (fun m j =>
      if (List.range 32).any fun i => t.inside (t.coords cs row (32 * j + i)) then
        bitRun m (8 * t.scaleAddr (t.coords cs row (32 * j))) (8 * (src + t.elemBytes + 2 * (row * (n / 32) + j))) 16
      else m) m
  else m

/-- The bytes a run writes, translated for an engine's write; a page that cannot be written stops it (R214, R215). -/
def State.dstBytes (s : State) (o : EngineOp) : NMap (List (Option Nat)) → EngGot (List DstByte)
  | [] => .ok s []
  | (va, src) :: rest =>
    if !vaOk va 1 then .bad va 4 o.code
    else match s.translate o.asid .wr va with
      | none => .fault va (o.pageWait va true)
      | some (s, m) =>
        let p : Piece := { va := va, pa := m.pa, len := 1, cls := m.cls, cache := m.cache }
        if s.refuses true p then .bad va 4 o.code
        else if p.isHost && s.hostDown then .bad va 7 0
        else (s.dstBytes o rest).bind fun s ds => .ok s ({ va := va, pa := m.pa, src := src } :: ds)

/-- A request that a home takes before another for a line: one for the line, or one of its set that waits for a way
(R78). -/
def State.ahead (s : State) (line : Nat) (r : OwnReq) : Bool :=
  r.line == line || (l2Key r.line == l2Key line && (s.l2Line r.line).owner.isNone)

/-- An ownership request for a line that the requests `older` precede (R78): granted when no engine owns the line, fewer
than 8 ways of its set are owned, and no older request goes first; otherwise it waits at the home. -/
def State.requestLine (s : State) (older : List OwnReq) (c queue : Nat) (seq : Word) (line : Nat) : State :=
  let s := s.l2Touch line ((s.op c queue seq).bind EngineOp.cache) false
  let r : OwnReq := { line := line, core := c, queue := queue, seq := seq }
  match (s.l2Line line).owner with
  | some x => if x = (c, queue, seq) then s else wait s r
  | none =>
    let owned := (NMap.get [] s.l2 (l2Key line)).filter fun (l : L2Line) => l.owner.isSome
    if owned.length < 8 && !older.any (s.ahead line) then s.modL2 line fun l => { l with owner := some (c, queue, seq) }
    else wait s r
where
  wait (s : State) (r : OwnReq) : State := if s.ownWait.contains r then s else { s with ownWait := s.ownWait ++ [r] }

/-- Lines some bytes lie in, ascending. -/
def linesOf (ds : List DstByte) : List Nat :=
  (ds.foldl (fun (m : NMap Unit) (d : DstByte) => if paRange d.pa = .local_ then m.put (d.pa / 128) () else m) []).map
    Prod.fst

/-- The byte address of the first element of a row that lies inside the tensor: the unit's address (R209, R214). -/
def TensorRec.rowAddr (t : TensorRec) (cs : List Int) (row : Nat) : Nat :=
  t.bitAddr (t.coords cs row
    (((List.range (t.tile.headD 0)).find? fun e => t.inside (t.coords cs row e)).getD 0)) / 8

/-- The bytes of a unit of a TWB or SCAT made ready and translated (R213). -/
def State.unitDst (s : State) (c : Nat) (o : EngineOp) (u : Nat) : EngGot (List DstByte) :=
  match o.kind with
  | .twb t cs src => (s.dstBytes o (twbRow t cs src u)).inUnit (t.rowAddr cs u)
  | .scat b =>
    (s.engineLoad c o (b.xaddr + 4 * u) 4).bind fun s bs =>
      let i := leNat bs
      let row := (b.gbase + i * b.stride) % 2 ^ 64
      if b.bound ≤ i then .ok s []
      else (s.dstBytes o (bitRun [] (8 * row) (8 * (b.taddr + u * b.rowlen)) (8 * b.rowlen))).inUnit row
  | _ => .ok s []

/-- Units of a TWB or SCAT from `u` on made ready in order, until one stops. -/
def State.prepareDst (c : Nat) (o : EngineOp) : Nat → Nat → State → EngGot Unit
  | 0, _, s => .ok s ()
  | n + 1, u, s =>
    match s.unitDst c o u with
    | .ok s ds =>
      State.prepareDst c o n (u + 1) ((s.modOp c o.queue o.seq fun o => { o with dst := o.dst ++ ds }).unitDone c o u)
    | .wait s => .wait s
    | g => .ok (s.stopOp c o g) ()

/-- Units of an operation that moves rows. -/
def OpKind.unitCount : OpKind → Nat
  | .tcpy t _ _ => t.rows
  | .twb t _ _ => t.rows
  | .gath b => b.count
  | .scat b => b.count
  | _ => 0

/-- The lines an operation has still to write, asked for in ascending order (R78, R212, R213). -/
def State.requestLines (s : State) (c : Nat) (o : EngineOp) : State :=
  match s.op c o.queue o.seq with
  | none => s
  | some o => (linesOf o.dst).foldl (fun s l => s.requestLine s.ownWait c o.queue o.seq l) s

/-- What a TWB or SCAT can make ready now, and the requests for its lines. -/
def State.prepareOp (s : State) (c queue : Nat) (seq : Word) : State :=
  match s.op c queue seq with
  | none => s
  | some o =>
    let k := o.unitsDone.length
    match State.prepareDst c o (o.kind.unitCount - k) k s with
    | .ok s _ => s.requestLines c o
    | .wait s => s
    | _ => s

/-- Lines an operation owns, ascending. -/
def State.ownedBy (s : State) (c : Nat) (o : EngineOp) : List Nat :=
  ((s.l2.flatMap fun (e : Nat × List L2Line) => e.2.filter fun (l : L2Line) => l.owner == some (c, o.queue, o.seq)).foldl
    (fun (m : NMap Unit) (l : L2Line) => m.put l.line ()) []).map Prod.fst

/-- Lines an operation owns written and released in ascending order (R78, R212). -/
def State.releaseAll (s : State) (c : Nat) (o : EngineOp) : State :=
  (s.ownedBy c o).foldl (fun s l => s.releaseLine l) s

/-- A byte of an operation's that lies in host memory written, or sent to an aperture's peer (R47, R55). -/
def State.farByte (s : State) (c : Nat) (o : EngineOp) (d : DstByte) : State :=
  match s.opTeam c o with
  | none => s
  | some t =>
    match paRange d.pa with
    | .aperture n x =>
      { s.netSend (o.who c) n x d.va (.store [d.value t 0#8]) (some (o.queue, o.seq)) with outTs := tmax s.outTs o.ets }
    | .host => if s.hostDown then s else { s.hostWrite d.pa [d.value t (s.byteAt d.pa)] with outTs := tmax s.outTs o.ets }
    | _ => s

/-- An aperture access of an operation that has been refused, and whether one is still out. -/
def State.opNet (s : State) (c : Nat) (o : EngineOp) : Option (NetAccess × Cause) × Bool :=
  let mine := s.net.filter fun (e : Nat × NetAccess) => e.2.core == c && e.2.engine == some (o.queue, o.seq)
  (mine.findSome? fun (e : Nat × NetAccess) => match e.2.phase with
    | .refused k => some (e.2, k)
    | _ => none,
   mine.any fun (e : Nat × NetAccess) => match e.2.phase with
    | .inNetwork | .accepted => true
    | _ => false)

/-- Ownership requests of an operation that still wait. -/
def State.ownershipOut (s : State) (c : Nat) (o : EngineOp) : Bool :=
  s.ownWait.any fun (r : OwnReq) => r.core == c && r.queue == o.queue && r.seq == o.seq

/-- The first byte of an operation that is lost because both host ports are down (R59). The model's reading:
log entry 100. -/
def State.farLost (s : State) (o : EngineOp) : Option DstByte :=
  if s.hostDown then o.dst.find? fun (d : DstByte) => paRange d.pa = .host else none

/-- The bytes of an operation beyond local memory written, once every line of it has been released (R47, R55). -/
def State.farOut (s : State) (c : Nat) (o : EngineOp) : State :=
  (o.dst.foldl (fun s d => s.farByte c o d) s).modOp c o.queue o.seq fun o => { o with dst := [] }

/-- An operation that ends in error, once no tadpole of it is alive, and what it had started has finished: bursts, and
rows on their way to memory (R214, R215). The model's reading: log entry 100. -/
def State.failEnd (s : State) (c : Nat) (o : EngineOp) : State :=
  match o.phase with
  | .failed a k t =>
    if (s.core c).tadAlive o || o.mayBear then s
    else
      let s := s.releaseAll c o
      match s.op c o.queue o.seq with
      | none => s
      | some o =>
        if s.ownershipOut c o then s
        else
          let s := match s.farLost o with
            | some d => if k = 7 then s else s.sendEvent c (o.record 7 0 d.va)
            | none => s
          let s := s.farOut c o
          if (s.opNet c o).2 then s else s.errorOp c ((s.op c o.queue o.seq).getD o) (some (k, t, a))
  | _ => s

/-- A TWB or SCAT goes on: it makes ready what it can, writes and releases the lines it owns, then its bytes beyond
local memory, and finishes (R78, R212, R213). -/
def State.writeOut (s : State) (c : Nat) (o : EngineOp) (bytes : Nat) : State :=
  let s := if o.phase == .running then s.prepareOp c o.queue o.seq else s
  match s.op c o.queue o.seq with
  | none => s
  | some o' =>
    let s := s.releaseAll c o'
    match s.op c o.queue o.seq with
    | none => s
    | some o =>
      if o.phase != .running then s.failEnd c o
      else if s.ownershipOut c o || o.unitsDone.length < o.kind.unitCount then s
      else
        match s.farLost o with
        | some d => s.stopOp c o (EngGot.bad (α := Unit) d.va 7 0)
        | none =>
        let s := s.farOut c o
        match s.opNet c o with
        | (some (a, k), _) => s.stopOp c o (EngGot.bad (α := Unit) a.va (refusalKind k) (a.status k))
        | (none, true) => s
        | (none, false) => s.finishOp c o bytes ((s.op c o.queue o.seq).map EngineOp.ets |>.getD o.ets)

/-! ### Reading into team memory -/

/-- The scale pairs of a row of a DXB tile, by block (R210). -/
def State.rowScales (s : State) (c : Nat) (o : EngineOp) (t : TensorRec) (cs : List Int) (row : Nat) :
    Nat → EngGot (List Byte)
  | 0 => .ok s []
  | n + 1 =>
    (s.rowScales c o t cs row n).bind fun s before =>
      if (List.range 32).any fun i => t.inside (t.coords cs row (32 * n + i)) then
        ((s.engineLoad c o (t.scaleAddr (t.coords cs row (32 * n))) 2).inUnit (t.rowAddr cs row)).bind fun s bs => .ok s (before ++ bs)
      else .ok s (before ++ [0x7F#8, 0x7F#8])

/-- A row of an operation that writes team memory: read, and written in place (R209 to R211, R213). -/
def State.rowIn (s : State) (c : Nat) (o : EngineOp) (u : Nat) : EngGot Unit :=
  match o.kind with
  | .tcpy t cs dst =>
    (s.engineElems c o t cs u 0 (t.tile.headD 0)).bind fun s xs =>
      (s.rowScales c o t cs u (if formatDxb t.format then t.tile.headD 0 / 32 else 0)).bind fun s sc =>
        let bs := packElems t.bits xs.1
        let s := (List.range bs.length).foldl (fun s i =>
          s.opTmWrite c o (dst + t.place (u * t.rowBytes + i)) [bs.getD i 0#8]) s
        .ok (s.opTmWrite c o (dst + t.elemBytes + u * sc.length) sc) ()
  | .gath b =>
    (s.engineLoad c o (b.xaddr + 4 * u) 4).bind fun s bs =>
      let i := leNat bs
      if b.bound ≤ i then .ok (s.opTmWrite c o (b.taddr + u * b.rowlen) (List.replicate b.rowlen 0#8)) ()
      else (s.engineLoad c o ((b.gbase + i * b.stride) % 2 ^ 64) b.rowlen).bind fun s row =>
        .ok (s.opTmWrite c o (b.taddr + u * b.rowlen) row) ()
  | _ => .ok s ()

/-- Rows from `u` on performed in order until one stops. After each one a free value says whether the next step of the
operation comes in a later CCLK: a lane that accesses the bytes meanwhile reads what the row has written, and what it
stores stays, so that either value of R212 can come about (log entry 98). -/
def State.rowsIn (c : Nat) (o : EngineOp) : Nat → Nat → State → EngGot Unit
  | 0, _, s => .ok s ()
  | n + 1, u, s =>
    match s.rowIn c o u with
    | .ok s _ =>
      let s := (s.unitDone c o u).drawn
      if Config.freeBool (s.free - 1) then .wait { s with delayed := s.delayed ++ [o.event c] }
      else State.rowsIn c o n (u + 1) s
    | .wait s => .wait s
    | g => .ok (s.stopOp c o g) ()

/-- A TCPY or GATH goes on: its remaining rows in order, and its end when all are done (R212, R213). -/
def State.readIn (s : State) (c : Nat) (o : EngineOp) (bytes : Nat) : State :=
  if o.phase != .running then s
  else
    let k := o.unitsDone.length
    match State.rowsIn c o (o.kind.unitCount - k) k s with
    | .ok s _ =>
      match s.op c o.queue o.seq with
      | some o => if o.phase == .running then s.finishOp c o bytes o.ets else s
      | none => s
    | .wait s => s
    | _ => s

/-! ### Events of the engines -/

/-- The operation an event names, and its queue: the copy and gather queues share one counter (R200). -/
def State.eventOp (s : State) (c seq : Nat) (me : Bool) : Option EngineOp :=
  s.op c (if me then 2 else 0) (BitVec.ofNat 32 seq)

/-- TCPY_COMPLETE (R212). -/
def execTcpyComplete (core seq : Nat) (s : State) : Outcome State Fault Refusal :=
  .next (match s.eventOp core seq false with
    | none => s
    | some o =>
      match o.kind with
      | .tcpy t _ _ => s.readIn core o t.bytes
      | .twb t _ _ => s.writeOut core o t.bytes
      | _ => s)

/-- GATHER_COMPLETE (R213). -/
def execGatherComplete (core seq : Nat) (s : State) : Outcome State Fault Refusal :=
  .next (match s.eventOp core seq false with
    | none => s
    | some o =>
      match o.kind with
      | .gath b => s.readIn core o (b.count * b.rowlen)
      | .scat b => s.writeOut core o (b.count * b.rowlen)
      | _ => s)

/-- ENGINE_UNIT_FAULT (R214): the SLOWPATH record; the firmware takes over the rest. -/
def execEngineUnitFault (core engine seq : Nat) (s : State) : Outcome State Fault Refusal :=
  .next (match s.eventOp core seq (engine == 1) with
    | none => s
    | some o =>
      match o.phase with
      | .faulted u a w =>
        (s.modOp core o.queue o.seq fun o => { o with phase := .slow u a w }).sendEvent core (o.record 9 o.code u)
      | _ => s)

/-- ENGINE_UNIT_ERROR (R215). -/
def execEngineUnitError (core engine seq : Nat) (s : State) : Outcome State Fault Refusal :=
  .next (match s.eventOp core seq (engine == 1) with
    | none => s
    | some o => s.failEnd core o)

/-- OWNERSHIP_GRANT (R78): the requests that wait for the line and those of its set that wait for a way, in arrival
order. -/
def execOwnershipGrant (line : Nat) (s : State) : Outcome State Fault Refusal :=
  let rs := s.ownWait.filter fun (r : OwnReq) => l2Key r.line = l2Key line
  .next (rs.foldl (fun s r =>
    let older := s.ownWait.takeWhile fun (x : OwnReq) => x ≠ r
    match s.op r.core r.queue r.seq with
    | none => { s with ownWait := s.ownWait.filter fun (x : OwnReq) => x ≠ r }
    | some o =>
      let s := s.requestLine older r.core r.queue r.seq r.line
      if (s.l2Line r.line).owner == some (r.core, r.queue, r.seq) then
        { s with ownWait := s.ownWait.filter fun (x : OwnReq) => x ≠ r }.goOn r.core o
      else s) s)

/-- ENGINE_LINE_RELEASE (R78). -/
def execEngineLineRelease (line : Nat) (s : State) : Outcome State Fault Refusal := .next (s.releaseLine line)

end Sys2Proof.Machine
end

