-- ==== Sys2Proof/Machine/EngineInstr.lean ====
section
/-! DEFINITION. Bulk reads and tadpoles, tensor copies, gather and scatter, mooring: the instructions and their events
(R69, R202 to R207, R336 to R344). -/

namespace Sys2Proof.Machine

open Host (Outcome)

/-! ### What the issues share -/

/-- Hints an engine issue accepts (R334). -/
def issueHints : HintUse := { imm20 := true, c4 := true, cache := true, needImm20 := true, needC4 := true }

/-- The payload of the IMM20 hint. -/
def Hints.payload (h : Hints) : Nat := (h.imm20.map BitVec.toNat).getD 0

/-- The register of the C4 hint. -/
def Hints.creg (h : Hints) : Nat := (h.c4.map BitVec.toNat).getD 0

/-- What follows checks, in order: the first that fails traps (R335). -/
def checks : List (Bool × Cause × DWord) → Res → Res
  | [], r => r
  | (ok, c, a) :: rest, r => if ok then checks rest r else .trap c a

/-- A tensor shape record checked at issue, and the coordinate registers it asks for (R201, R335). -/
def recordThen (i : Instr) (addr : DWord) (creg : Nat) (bs : List Byte) (s : State)
    (f : State → TensorRec → List Int → Res) : Res :=
  let t := parseRecord bs
  if !recordOk bs then .trap .record addr
  else if s.reach < creg + t.rank then .trap .illegal ((encode i).setWidth 64)
  else f s t (s.coordRegs creg t.rank)

/-- A tensor shape record read and checked at issue (R201, R335), with its coordinates. -/
def State.withRecord (s : State) (i : Instr) (addr : DWord) (creg : Nat) (f : State → TensorRec → List Int → Res) : Res :=
  (s.readRecord addr.toNat).then fun s bs => recordThen i addr creg bs s f

/-- The predicate of an issue that finds its queue full (R199). -/
def refused (s : State) (p : BitVec 3) : Res := .done (s.setP p false)

/-- An operation enqueued in the copy or gather queue, and the event that goes on with it. -/
def State.issueOp (s : State) (q : Nat) (p : BitVec 3) (o : EngineOp) : Res :=
  if s.queueFull s.coreNo q then refused s p
  else
    let s := s.enqueue q p none o
    .done (s.goOn s.coreNo { o with seq := s.ag.eseqLast, queue := q })

/-- The address of the first byte of team memory past its end, or past 2^32 (R335). -/
def State.tmRange (s : State) (a n : Nat) : Bool := decide (a + n ≤ s.tmemSize)

/-! ### BRDH -/

/-- The number of bursts of a tensor source, and of one row (R202). -/
def TensorRec.rowBursts (t : TensorRec) : Nat := (t.rowBytes + 63) / 64

/-- The bytes V of a burst of a tensor source, and the place of its first element in its row (R202). -/
def TensorRec.burst (t : TensorRec) (b : Nat) : Nat × Nat :=
  let piece := b % t.rowBursts
  (min 64 (t.rowBytes - 64 * piece), 512 * piece / t.bits)

/-- A burst holds an element inside the tensor (R202). -/
def TensorRec.burstInside (t : TensorRec) (cs : List Int) (b : Nat) : Bool :=
  let x := t.burst b
  (List.range (8 * x.1 / t.bits)).any fun i => t.inside (t.coords cs (b / t.rowBursts) (x.2 + i))

/-- The bursts of a source that are fetched from no memory and count as delivered (R202). -/
def BulkSource.outside (src : BulkSource) (units : Nat) : List Nat :=
  match src with
  | .linear _ _ => []
  | .tensor t cs => (List.range units).filter fun b => !t.burstInside cs b

/-- The bulk read enqueued, with its handler's entry (R337). -/
def State.issueBulk (s : State) (p : BitVec 3) (ev : Bool) (bar : Nat × Nat) (src : BulkSource) (units : Nat)
    (entry : DWord) : Res :=
  let g := 4 * (s.ag.hints.payload / 4096 % 64)
  s.issueOp 0 p { s.newOp (.bulk src entry.toNat (s.vs g 4) ev) (some bar) with
    units := units, unitsDone := src.outside units }

/-- The handler's index (R336). -/
def State.handlerIx (s : State) : Word := BitVec.ofNat 32 (s.ag.hints.payload % 4096)

/-- What BRDH demands (R336). -/
def State.brdhDemand (s : State) (d : BitVec 8) (a : BitVec 7) : Demand :=
  { hints := issueHints,
    regs := regsUpTo [vn d, pn a + 1, s.ag.hints.creg, 4 * (s.ag.hints.payload / 4096 % 64) + 3],
    ok := s.ag.hints.payload / 2 ^ 18 == 0, tad := false, keeper := false }

def execBrdhLin (d : BitVec 8) (a : BitVec 7) (e : BitVec 1) (p : BitVec 3) (s : State) : Outcome State Fault Refusal :=
  s.runWord (.brdhLin d a e p) (s.brdhDemand d a) fun s => s.inOrder fun s =>
    let at_ := s.pair (pn a)
    let n := s.v s.ag.hints.creg
    checks [(decide (at_.toNat < 2 ^ 56), .access, at_), (at_.toNat % 8 == 0, .align, at_),
            (n.toNat % 8 == 0, .align, n.setWidth 64)]
      (s.onBarrier d fun bc be =>
        if n.toNat < 8 || 2 ^ 31 < n.toNat then .trap .engArg 0#64
        else s.useEntry s.handlerIx none fun s x =>
          s.issueBulk p (e == 1#1) (bc, be) (.linear at_.toNat n.toNat) ((n.toNat + 63) / 64) x)

def execBrdhTen (d : BitVec 8) (a : BitVec 7) (e : BitVec 1) (p : BitVec 3) (s : State) : Outcome State Fault Refusal :=
  s.runWord (.brdhTen d a e p) (s.brdhDemand d a) fun s => s.inOrder fun s =>
    let at_ := s.pair (pn a)
    checks [(decide (at_.toNat < 2 ^ 56), .access, at_), (at_.toNat % 64 == 0, .align, at_)]
      (s.onBarrier d fun bc be =>
        ((s.readRecord at_.toNat).unlessPage (s.entryAt s.handlerIx)).then fun s bs =>
          (s.entryAt s.handlerIx).then fun s x =>
            recordThen (.brdhTen d a e p) at_ s.ag.hints.creg bs s fun s t cs =>
              enterWith s.handlerIx none (fun s x =>
                s.issueBulk p (e == 1#1) (bc, be) (.tensor t cs) (t.rows * t.rowBursts) x) s x)

/-! ### Tadpoles -/

/-- The bytes of a burst with its V, its row and its first element, and whether it bears a tadpole (R202, R203). -/
def State.burstBytes (s : State) (c : Nat) (o : EngineOp) (b : Nat) : EngGot (List Byte × Nat × Nat × Bool) :=
  match o.kind with
  | .bulk (.linear a n) _ _ _ =>
    let v := min 64 (n - 64 * b)
    (s.engineLoad c o (a + 64 * b) v).bind fun s bs => .ok s (bs, 0, 64 * b, true)
  | .bulk (.tensor t cs) _ _ _ =>
    let row := b / t.rowBursts
    let x := t.burst b
    (s.engineElems c o t cs row x.2 (8 * x.1 / t.bits)).bind fun s xs =>
      .ok s (packElems t.bits xs.1, row, x.2, xs.2)
  | _ => .ok s ([], 0, 0, false)

/-- A lane of a tadpole at birth (R203). -/
def tadLane (bs : List Byte) (arg : List Word) (entry burst row first i : Nat) : Agent :=
  let word := fun (off : Nat) => BitVec.ofNat 32 (leNat ((List.range 4).map fun k => bs.getD (off + k) 0#8))
  let put := fun (m : NMap Word) (r : Nat) (x : Word) => NMap.set 0#32 m r x
  let v := put (put [] 0 (word (8 * i))) 1 (word (8 * i + 4))
  let v := (List.range 4).foldl (fun m k => put m (2 + k) (arg.getD k 0#32)) v
  let v := put (put (put (put v 12 (BitVec.ofNat 32 burst)) 13 (BitVec.ofNat 32 row)) 14 (BitVec.ofNat 32 first)) 15
    (BitVec.ofNat 32 bs.length)
  { v := v, pc := BitVec.ofNat 64 entry }

/-- A free tadpole slot of a core, the lowest (R203). -/
def Core.freeTad (k : Core) : Option Nat := (List.range 64).find? fun i => (k.tads.find? i).isNone

/-- The bytes a bulk read posts (R206). -/
def OpKind.bulkBytes : OpKind → Nat
  | .bulk (.linear _ n) _ _ _ => n
  | .bulk (.tensor t _) _ _ _ => t.elemBytes
  | _ => 0

/-- An item of a work list that a tadpole of a bulk read has appended is not yet written (R205). -/
def State.itemOut (s : State) (c : Nat) (seq : Word) : Bool :=
  s.wlItems.any fun (e : Nat × WlItem) => e.2.who.core == c && e.2.bulk == some seq

/-- The moment a bulk read may finish: its bursts delivered, failed or outside, its tadpoles ended, every effect of
theirs performed (R206). The model's reading: log entry 95. -/
def State.bulkTest (s : State) (c : Nat) (seq : Word) : State :=
  match s.op c 0 seq with
  | none => s
  | some o =>
    if o.mayBear || (s.core c).tadAlive o || s.itemOut c seq then s
    else match o.phase with
      | .running =>
        if o.tadTrapped then s.errorOp c o none else s.finishOp c o o.kind.bulkBytes (tmax (s.core c).pts o.ets)
      | _ => s

/-- The domain of the issuing lane of a bulk read tested once it can bear no more tadpoles (R158, R161). -/
def State.bearTest (s : State) (c : Nat) (o : EngineOp) : State :=
  match (s.agentAt (.lane c o.slot o.lane)).bind Agent.domain with
  | some dom => s.tdTest (s.core c).pts dom
  | none => s

/-- An operation that can no longer finish: it starts no further unit, and ends in error once the units it had started have
finished or failed and none of its tadpoles is alive (R214, R215). -/
def State.failOp (s : State) (c : Nat) (o : EngineOp) (addr kind status : Nat) : State :=
  ((s.modOp c o.queue o.seq fun o => { o with phase := .failed addr kind status }).later
      [.event (.engineUnitError c o.code o.seq.toNat)]).bearTest c o

/-- Bursts of a bulk read that had started when one of its units failed: a free set of those not yet delivered, of
sixteen at most (R214). -/
def State.startedWith (s : State) (c : Nat) (o : EngineOp) (failed : Nat) : State :=
  let draw := fun (i : Nat) => Config.freeMove (s.free + i)
  let bs := ((List.range (draw 0 % 17)).map fun i => draw (i + 1) % max 1 o.units).dedup.filter fun b =>
    b ≠ failed && !o.unitsDone.contains b
  ({ s with free := s.free + 17 }.modOp c o.queue o.seq fun o => { o with started := bs }).later
    (bs.map fun b => .event (.burstDeliver c o.seq.toNat b))

/-- A burst that had started fails in its turn: it is no longer under way, and the firmware has it to perform (R214). -/
def State.burstFails (s : State) (c : Nat) (o : EngineOp) (b : Nat) : State :=
  let s := (s.modOp c o.queue o.seq fun o => { o with started := o.started.filter (· ≠ b) }).nextBurst c o.seq
  match o.phase with
  | .failed _ _ _ => s.later [.event (.engineUnitError c o.code o.seq.toNat)]
  | _ => s

/-- BURST_DELIVER (R202, R203, R206): a burst returns; it bears a tadpole when a slot is free, and otherwise waits in the
copy engine. A burst already delivered leaves only the test of the bulk read's end. -/
def execBurstDeliver (core seq burst : Nat) (s : State) : Outcome State Fault Refusal :=
  let q := BitVec.ofNat 32 seq
  .next (match s.op core 0 q with
    | none => s
    | some o =>
      if o.unitsDone.contains burst || o.units ≤ burst || !o.delivers burst then
        let s := match o.phase with
          | .failed _ _ _ => s.later [.event (.engineUnitError core o.code seq)]
          | _ => s
        (s.bearTest core o).bulkTest core q
      else match s.burstBytes core o burst with
        | .ok s (bs, row, first, bears) =>
          match o.kind, (s.core core).freeTad with
          | .bulk _ entry arg _, some slot =>
            let s := s.unitDone core o burst
            let tad : Tadpole := { seq := q, burst := burst, slot := o.slot, lane := o.lane,
                                   lanes := (List.range 8).map fun i => (i, tadLane bs arg entry burst row first i) }
            let s := if bears then s.modCore core fun k => { k with tads := k.tads.put slot tad } else s
            let s := if (s.op core 0 q).any EngineOp.mayBear then s.nextBurst core q else s.bearTest core o
            let s := match o.phase with
              | .failed _ _ _ => s.later [.event (.engineUnitError core o.code seq)]
              | _ => s
            s.bulkTest core q
          | _, _ => s
        | .wait s => s
        | g =>
          if o.startedLeft.contains burst then s.burstFails core o burst
          else match g with
            | .bad a k t => (if o.ascending then s else s.startedWith core o burst).failOp core o a k t
            | g => if o.ascending then s.stopOp core o g else (s.stopOp core o g).startedWith core o burst)

/-- TEND: a lane of a tadpole ends once its earlier accesses and appends have completed; the last one ends the tadpole
(R205, R338). -/
def execTend (s : State) : Outcome State Fault Refusal :=
  s.runWord .tend { team := false, keeper := false } fun s => s.afterAccesses fun s =>
    if s.wlItems.any fun (e : Nat × WlItem) => e.2.agent == s.cur then .peer s
    else match s.cur with
    | .tad c slot _ =>
      let s := { s.putAgent s.cur { s.ag with status := .ended, hints := {} } with cur := .none, ag := {} }
      match (s.core c).tads.find? slot with
      | none => .placed s
      | some t =>
        if t.lanes.all fun (e : Nat × Agent) => e.2.ended then
          let s := s.modCore c fun k => { k with tads := k.tads.del slot }
          .placed ((s.wakeBursts c).later [.event (.burstDeliver c t.seq.toNat t.burst)])
        else .placed s
    | _ => .done s

/-! ### TCPY and TWB -/

/-- What TCPY and TWB demand (R339). -/
def State.copyDemand (s : State) (d : BitVec 8) (a : BitVec 7) : Demand :=
  { hints := issueHints, regs := regsUpTo [vn d, pn a + 1, s.ag.hints.creg, s.ag.hints.payload % 256],
    ok := s.ag.hints.payload / 256 == 0, tad := false, keeper := false }

/-- The checks of a tensor copy before its record is read (R335, R340). -/
def State.copyChecks (s : State) (a : BitVec 7) (f : DWord → Word → Res) : Res :=
  let at_ := s.pair (pn a)
  let t := s.v (s.ag.hints.payload % 256)
  checks [(decide (at_.toNat < 2 ^ 56), .access, at_), (at_.toNat % 64 == 0, .align, at_),
          (t.toNat % 128 == 0, .align, t.setWidth 64)] (f at_ t)

def execTcpy (d : BitVec 8) (a : BitVec 7) (b : BitVec 1) (p : BitVec 3) (s : State) : Outcome State Fault Refusal :=
  s.runWord (.tcpy d a b p) (s.copyDemand d a) fun s => s.inOrder fun s => s.copyChecks a fun at_ t =>
    let go := fun (bar : Option (Nat × Nat)) (basin : Option Nat) =>
      s.withRecord (.tcpy d a b p) at_ s.ag.hints.creg fun s r cs =>
        let c := s.coreNo
        match basin with
        | none =>
          if !s.tmRange t.toNat r.bytes then .trap .access (t.setWidth 64)
          else s.issueOp 0 p (s.newOp (.tcpy r cs t.toNat) bar)
        | some e =>
          let bs := (s.core c).basin e
          let slot := bs.wp.toNat % bs.slots.length
          let dst := t.toNat + slot * ((r.bytes + 127) / 128 * 128)
          if !s.tmRange dst r.bytes then .trap .access (BitVec.ofNat 64 dst)
          else if s.queueFull c 0 then refused s p
          else match s.reserveSlot c e with
            | none => refused s p
            | some (s, _, x, _) =>
              s.issueOp 0 p { s.newOp (.tcpy r cs dst) (some (c, x)) with ownRef := false }
    if b = 1#1 then s.onBasin d fun e => go none (some e) else s.onBarrier d fun bc be => go (some (bc, be)) none

def execTwb (d : BitVec 8) (a : BitVec 7) (p : BitVec 3) (s : State) : Outcome State Fault Refusal :=
  s.runWord (.twb d a p) (s.copyDemand d a) fun s => s.inOrder fun s => s.copyChecks a fun at_ t =>
    s.onBarrier d fun bc be =>
      s.withRecord (.twb d a p) at_ s.ag.hints.creg fun s r cs =>
        if !s.tmRange t.toNat r.bytes then .trap .access (t.setWidth 64)
        else if s.queueFull s.coreNo 0 then refused s p
        else match s.issueOp 0 p (s.newOp (.twb r cs t.toNat) (some (bc, be))) with
          | .done s => .done (s.prepareOp s.coreNo 0 s.ag.eseqLast)
          | r => r

/-! ### GATH and SCAT -/

/-- The gather block in team memory (R341): its fields and whether its reserved bytes are zero. -/
def gatherBlock (bs : List Byte) : GatherBlock :=
  { xaddr := fieldAt bs 0 8, gbase := fieldAt bs 8 8, stride := fieldAt bs 16 4, bound := fieldAt bs 20 4,
    count := fieldAt bs 24 4, rowlen := fieldAt bs 28 4, taddr := fieldAt bs 32 4 }

/-- The first misaligned field of a gather block, or its count (R201, R341, R342). -/
def GatherBlock.misaligned (b : GatherBlock) : Option Nat :=
  [b.xaddr, b.gbase, b.taddr, b.stride, b.rowlen].find? fun x => x % 4 ≠ 0

/-- GATH and SCAT (R213, R341, R342). -/
def State.gather (s : State) (i : Instr) (a : BitVec 8) (p : BitVec 3) (mk : GatherBlock → OpKind)
    (after : State → State) : Outcome State Fault Refusal :=
  s.runWord i { hints := { cache := true }, regs := regsUpTo [vn a], tad := false, keeper := false } fun s =>
    s.inOrder fun s =>
      let ta := s.v (vn a)
      let bs := s.tmBytes ta.toNat 48
      let b := gatherBlock bs
      let h := BitVec.ofNat 32 (fieldAt bs 36 4)
      checks [(s.tmRange ta.toNat 48, .access, ta.setWidth 64), (ta.toNat % 16 == 0, .align, ta.setWidth 64)]
        (match s.validBarrier h with
         | none => .trap .barHandle (h.setWidth 64)
         | some bar =>
           if b.count < 1 || 65536 < b.count || b.rowlen < 4 || 4096 < b.rowlen || fieldAt bs 40 8 != 0 then
             .trap .engArg 0#64
           else if !s.tmRange b.taddr (b.count * b.rowlen) then .trap .access (BitVec.ofNat 64 b.taddr)
           else match b.misaligned with
             | some x => .trap .align (BitVec.ofNat 64 x)
             | none =>
               if s.queueFull s.coreNo 1 then refused s p
               else match s.issueOp 1 p (s.newOp (mk b) (some bar)) with
                 | .done s => .done (after s)
                 | r => r)

def execGath (a : BitVec 8) (p : BitVec 3) (s : State) : Outcome State Fault Refusal :=
  s.gather (.gath a p) a p .gath id

def execScat (a : BitVec 8) (p : BitVec 3) (s : State) : Outcome State Fault Refusal :=
  s.gather (.scat a p) a p .scat fun s => s.prepareOp s.coreNo 0 s.ag.eseqLast

/-! ### Mooring -/

/-- The lines of local memory of a range translated for MOOR and UNMOOR, and whether all of the range lies there and none
of it in an aperture or host memory (R343, R344). -/
def State.moorLines (s : State) (a : BitVec 7) (d : BitVec 8) (f : State → Bool → List Nat → Res) : Res :=
  let at_ := s.pair (pn a)
  let n := (s.v (vn d)).toNat
  if 2 ^ 56 ≤ at_.toNat then .trap .access at_
  else if n < 1 || 2 ^ 24 < n then .trap .engArg 0#64
  else if !vaOk at_.toNat n then .trap .access at_
  else match s.pieces s.who.asid .rd (n / 32 + 2) at_.toNat n with
    | (s, .inl x) => .page s (pageWait s.who x false)
    | (s, .inr ps) =>
      match ps.find? fun (p : Piece) => p.cls == 3 || (match paRange p.pa with
          | .registers | .unassigned => true
          | _ => false) with
      | some p => .trap .access (BitVec.ofNat 64 p.va)
      | none =>
        let near := ps.filter fun (p : Piece) => paRange p.pa == .local_
        f s (near.length == ps.length) ((near.foldl (fun (m : NMap Unit) (p : Piece) => m.put (p.pa / 128) ()) []).map Prod.fst)

/-- A set holds no more than 4 lines moored or reserved once some more are (R69, R343). -/
def State.moorFits (s : State) (agent : AgentRef) (lines : List Nat) (line : Nat) : Bool :=
  let key := l2Key line
  let moored := ((NMap.get [] s.l2 key).filter fun (l : L2Line) => l.moor.isSome).map L2Line.line
  let others := (s.moors.filter fun (m : Mooring) => m.agent ≠ agent).flatMap Mooring.held
  decide ((((moored ++ others ++ lines).filter fun x => l2Key x = key).dedup).length ≤ 4)

/-- Every line of a MOOR moored to the end of its lease; those not present are filled (R69, R343). -/
def State.moorCommit (s : State) (lease : Nat) (lines : List Nat) : State :=
  let end_ := s.cclk + lease * 32768
  lines.foldl (fun s line =>
    (s.l2Touch line none false).modL2 line fun l => { l with moor := some (match l.moor with
      | some m => max m.1 end_
      | none => end_, s.myLaunchNo.getD 0) }) s

/-- The slices of a MOOR asked in a free order, each for the lines it homes; others may act between two of them, and a
slice that refuses ends it (R343). `fuel` bounds the slices. -/
def State.moorSlices (s : State) (p : BitVec 3) (lease : Nat) : Nat → Mooring → Res
  | 0, x => .done (({ s with moors := s.moors.filter fun (m : Mooring) => m.agent ≠ x.agent }.moorCommit lease x.held).setP p true)
  | fuel + 1, x =>
    let free := { s with moors := s.moors.filter fun (m : Mooring) => m.agent ≠ x.agent }
    match x.left[Config.freeMove s.free % x.left.length]? with
    | none => .done ((free.moorCommit lease x.held).setP p true)
    | some line =>
      let here := x.left.filter fun l => homeSlice (l * 128) = homeSlice (line * 128)
      if !here.all (s.moorFits x.agent here) then .done (free.drawn.setP p false)
      else
        let x : Mooring := { x with left := x.left.filter fun l => !here.contains l, held := x.held ++ here }
        let s := { free.drawn with moors := free.moors ++ [x] }
        if !x.left.isEmpty && s.pauses then .again s.drawn else s.drawn.moorSlices p lease fuel x

/-- MOOR (R69, R343): a range that meets an aperture or host memory answers false; otherwise every line is moored, or
none. -/
def execMoor (d : BitVec 8) (a : BitVec 7) (p : BitVec 3) (s : State) : Outcome State Fault Refusal :=
  let lease := s.ag.hints.payload
  s.runWord (.moor d a p)
    { hints := { imm20 := true, needImm20 := true }, regs := regsUpTo [vn d, pn a + 1],
      ok := decide (1 ≤ lease) && decide (lease < 65536), tad := false, keeper := false } fun s =>
    match s.moors.find? fun (m : Mooring) => m.agent = s.cur with
    | some x => s.moorSlices p lease 256 x
    | none => s.afterAccesses fun s => s.moorLines a d fun s all lines =>
      if all then s.moorSlices p lease 256 { agent := s.cur, left := lines } else .done (s.setP p false)

/-- A line unmoored: its class becomes normal (R68, R344). -/
def State.unmoorLine (s : State) (line : Nat) : State :=
  s.modL2 line fun l => if l.moor.isSome then { l with moor := none, cls := 1 } else l

def execUnmoor (d : BitVec 8) (a : BitVec 7) (s : State) : Outcome State Fault Refusal :=
  s.runWord (.unmoor d a) { regs := regsUpTo [vn d, pn a + 1], tad := false, keeper := false } fun s =>
    s.afterAccesses fun s => s.moorLines a d fun s _ lines => .done (lines.foldl (fun s line => s.unmoorLine line) s)

/-- MOOR_LEASE_END (R69): the line is unmoored when its lease has ended. -/
def execMoorLeaseEnd (line : Nat) (s : State) : Outcome State Fault Refusal :=
  .next (match (s.l2Line line).moor with
    | some m => if m.1 ≤ s.cclk then s.unmoorLine line else s
    | none => s)

end Sys2Proof.Machine
end

