-- ==== Sys2Proof/Machine/Unit.lean ====
section
/-! DEFINITION. What the clutch, layer and work-list units share: reading a line for an operation, and performing its
writes as one step at device scope (R76, R87, R96, R113, R114, R354, R355). -/

namespace Sys2Proof.Machine

/-- The lines an operation has read or will write, and the state so far (R87, R113): nothing is written before `commit`. -/
structure Tx where
  s : State
  lines : List Nat
  deriving DecidableEq, Repr

/-- A transaction of an operation begun. -/
def State.begin (s : State) : Tx := { s := s, lines := [] }

/-- A range within one line: translated, its page checked, its line noted; the physical address (R355 rows 4 and 5). -/
def Tx.line (x : Tx) (need : Need) (va n : Nat) : Got (Tx × Nat) :=
  let at_ := BitVec.ofNat 64 va
  if !vaOk va n then .trap .access at_
  else match x.s.translate x.s.who.asid need va with
    | none => .page x.s (pageWait x.s.who va need.writes)
    | some (s, m) =>
      if m.cls ≠ 2 || paRange m.pa ≠ .local_ then .trap .access at_
      else .ok s ({ s := s.releaseLine (m.pa / 128), lines := m.pa / 128 :: x.lines }, m.pa)

/-- A range within one line read: a poisoned sector anywhere in the line raises MEMERR, at the first byte read of it, or at
its own address where none is read (R87, R113, R355 row 6; log entry 27). -/
def Tx.read (x : Tx) (need : Need) (va n : Nat) : Got (Tx × Nat) :=
  (x.line need va n).bind fun s r =>
    match r.1.s.firstPoison (r.2 / 128 * 128) 128 with
    | some a =>
      let hit := if a / 32 = r.2 / 32 then r.2 else a
      .bad (va + hit - r.2) hit
    | none => .ok s r

/-- The step of an operation (R76, R95): every line it read or writes takes the timestamp of a store, its bytes are
written, and the core's pts takes the largest. -/
def Tx.commit (x : Tx) (writes : List (Nat × List Byte)) : State :=
  let core := x.s.coreNo
  let p := (x.s.core core).pts
  let ls : List Nat := (x.lines ++ writes.map fun (w : Nat × List Byte) => w.1 / 128).dedup
  let written := fun (l : Nat) => writes.any fun (w : Nat × List Byte) =>
    decide (w.1 / 128 ≤ l) && decide (l * 128 < w.1 + w.2.length)
  let s := ls.foldl (fun (s : State) (l : Nat) =>
    let s := s.l2Touch l none (written l)
    s.stamp l (storeTs p (s.l2Line l))) x.s
  let s := writes.foldl (fun (s : State) (w : Nat × List Byte) => s.homeWrite w.1 w.2) s
  ls.foldl (fun (s : State) (l : Nat) => s.raisePts core (s.l2Line l).wts) s

/-- An operation of a unit that goes on with a transaction. -/
def Got.tx (g : Got (Tx × Nat)) (f : Tx → Nat → Res) : Res := g.then fun _ r => f r.1 r.2

/-- A check of a unit's word (R355 rows 2 and 3). -/
def State.descAddr (s : State) (a : BitVec 7) (f : Nat → Res) : Res :=
  let at_ := s.pair (pn a)
  checks [(decide (at_.toNat < 2 ^ 56), .access, at_), (at_.toNat % 64 == 0, .align, at_)] (f at_.toNat)

end Sys2Proof.Machine
end

