-- ==== Sys2Proof/Machine/Clutch.lean ====
section
/-! DEFINITION. Clutches: the stored image, the operations of the clutch units, the six instructions (R85 to R107, R354
to R358). -/

namespace Sys2Proof.Machine

open Host (Outcome)

/-! ### The element stream -/

/-- An element: key, offset and tag as one field (offset << TW, tag), attribute bytes (R91, R102). -/
structure Elem where
  key : Nat
  ot : Nat
  attr : List Byte
  deriving DecidableEq, Repr

/-- Some bits written most significant first: their number and their count (R8). -/
structure BitStr where
  val : Nat
  len : Nat
  deriving DecidableEq, Repr

def BitStr.append (a b : BitStr) : BitStr := { val := a.val * 2 ^ b.len + b.val, len := a.len + b.len }

/-- The shortest code of a gap (R92). -/
def gapCode (g : Nat) : BitStr :=
  if g = 0 then ⟨0, 1⟩
  else if g ≤ 4 then ⟨0b10 * 2 ^ 2 + (g - 1), 4⟩
  else if g ≤ 20 then ⟨0b110 * 2 ^ 4 + (g - 5), 7⟩
  else if g ≤ 276 then ⟨0b1110 * 2 ^ 8 + (g - 21), 12⟩
  else if g ≤ 65812 then ⟨0b11110 * 2 ^ 16 + (g - 277), 21⟩
  else ⟨0b11111 * 2 ^ 62 + g, 67⟩

/-- The number of bytes most significant first (R8, R91). -/
def beNat (bs : List Byte) : Nat := bs.foldl (fun acc b => acc * 256 + b.toNat) 0

def beBytes (n x : Nat) : List Byte := (leBytes n x).reverse

/-- The stream of some elements after a key (R91); `w` is OW + TW, `ab` the attribute bytes. DESIGN CHOICE, log entry 50: a
key below the FENCE before it is coded with gap 0. -/
def encodeElems (w ab : Nat) : Nat → List Elem → BitStr
  | _, [] => ⟨0, 0⟩
  | last, e :: es =>
    ((gapCode (e.key - last)).append (BitStr.append ⟨e.ot, w⟩ ⟨beNat e.attr, 8 * ab⟩)).append (encodeElems w ab e.key es)

/-- `n` bits of a payload of 1,920 from a position. -/
def takeBits (p pos n : Nat) : Nat := p / 2 ^ (1920 - pos - n) % 2 ^ n

/-- A gap decoded at a position: its value and the position after it (R92). -/
def decodeGap (p pos : Nat) : Nat × Nat :=
  let one := fun i => takeBits p (pos + i) 1 == 1
  if !one 0 then (0, pos + 1)
  else if !one 1 then (takeBits p (pos + 2) 2 + 1, pos + 4)
  else if !one 2 then (takeBits p (pos + 3) 4 + 5, pos + 7)
  else if !one 3 then (takeBits p (pos + 4) 8 + 21, pos + 12)
  else if !one 4 then (takeBits p (pos + 5) 16 + 277, pos + 21)
  else (takeBits p (pos + 5) 62, pos + 67)

/-- `n` elements decoded from a position within `bits` bits; none when they do not end at it (R87). -/
def decodeElems (p bits w ab : Nat) : Nat → Nat → Nat → Option (List Elem)
  | 0, pos, _ => if pos = bits then some [] else none
  | n + 1, pos, last =>
    let g := decodeGap p pos
    if bits < g.2 + w + 8 * ab then none
    else
      let e : Elem := { key := last + g.1, ot := takeBits p g.2 w,
                        attr := beBytes ab (takeBits p (g.2 + w) (8 * ab)) }
      (decodeElems p bits w ab n (g.2 + w + 8 * ab) e.key).map fun es => e :: es

/-! ### The descriptor -/

/-- A clutch descriptor's fields (R85), with its physical address. -/
structure Clutch where
  pa : Nat
  pool : Nat
  index : Nat
  count : Nat
  cap : Nat
  free : Nat
  live : Nat
  elems : Nat
  gen : Nat
  empty : Nat
  kw : Nat
  ow : Nat
  tw : Nat
  ab : Nat
  deriving DecidableEq, Repr

def State.clutchAt (s : State) (pa : Nat) : Clutch :=
  let f := fun o n => s.numAt (pa + o) n
  { pa := pa, pool := f 0 8, index := f 8 8, count := f 16 4, cap := f 20 4, free := f 24 4, live := f 28 4,
    elems := f 32 8, gen := f 40 4, empty := f 44 4, kw := f 48 1, ow := f 49 1, tw := f 50 1, ab := f 51 1 }

/-- The conditions of R87 on a descriptor. -/
def State.clutchOk (s : State) (c : Clutch) : Bool :=
  decide (1 ≤ c.kw) && decide (c.kw ≤ 62) && decide (c.ow + c.tw ≤ 32) && (c.ab == 0 || c.ab == 4 || c.ab == 8)
    && s.numAt (c.pa + 52) 4 == 1 && s.zeroAt (c.pa + 56) 8 && c.pool % 256 == 0 && decide (c.pool < 2 ^ 56)
    && c.index % 16 == 0 && decide (c.index < 2 ^ 56) && decide (c.count ≤ c.cap) && decide (c.count ≤ 0xFFFFFFFE)
    && decide (c.live ≤ c.count) && (c.free == 0xFFFFFFFF || decide (c.free < c.count))

/-- The unit's fields of a descriptor as bytes 16 to 47 (R85). -/
def Clutch.unitFields (c : Clutch) : List Byte :=
  leBytes 4 c.count ++ leBytes 4 c.cap ++ leBytes 4 c.free ++ leBytes 4 c.live ++ leBytes 8 c.elems ++ leBytes 4 c.gen
    ++ leBytes 4 c.empty

/-- Bits of offset and tag. -/
def Clutch.w (c : Clutch) : Nat := c.ow + c.tw

/-! ### Index entries and blocks -/

/-- An index entry (R88). -/
structure IndexEntry where
  fence : Nat
  block : Nat
  deriving DecidableEq, Repr

def IndexEntry.bytes (e : IndexEntry) : List Byte := leBytes 8 e.fence ++ leBytes 4 e.block ++ leBytes 4 0

/-- Index entry i read and checked (R87, R88). -/
def Tx.entry (x : Tx) (c : Clutch) (need : Need) (i : Nat) : Got (Tx × IndexEntry) :=
  let va := c.index + 16 * i
  (x.read need va 16).bind fun s r =>
    let e : IndexEntry := { fence := r.1.s.numAt r.2 8, block := r.1.s.numAt (r.2 + 8) 4 }
    if 2 ^ 62 ≤ e.fence || !r.1.s.zeroAt (r.2 + 12) 4 || c.count ≤ e.block then .trap .clDesc (BitVec.ofNat 64 va)
    else .ok s (r.1, e)

/-- Index entries from i on, `n` of them, read and checked. -/
def Tx.entries (x : Tx) (c : Clutch) (need : Need) : Nat → Nat → Got (Tx × List IndexEntry)
  | 0, _ => .ok x.s (x, [])
  | n + 1, i =>
    (x.entry c need i).bind fun _ r => (Tx.entries r.1 c need n (i + 1)).bind fun s t => .ok s (t.1, r.2 :: t.2)

/-- The lookup (R95): the last entry whose fence is at most the key, or the first; found by halving. -/
def Tx.lookup (x : Tx) (c : Clutch) (need : Need) (key : Nat) : Nat → Nat → Nat → Got (Tx × Nat)
  | 0, lo, _ => .ok x.s (x, lo)
  | fuel + 1, lo, hi =>
    if hi ≤ lo + 1 then .ok x.s (x, lo)
    else
      let mid := (lo + hi) / 2
      (x.entry c need mid).bind fun _ r =>
        if r.2.fence ≤ key then Tx.lookup r.1 c need key fuel mid hi else Tx.lookup r.1 c need key fuel lo mid

/-- A linked block (R89): where it is, its header and its elements. -/
structure Block where
  pa : Nat
  fence : Nat
  next : Nat
  elems : List Elem
  deriving DecidableEq, Repr

/-- Bits of the prefix of a gap code of a length (R92). -/
def gapPrefix (len : Nat) : Nat :=
  if len = 1 then 1 else if len = 4 then 2 else if len = 7 then 3 else if len = 12 then 4 else 5

/-- `n` gap codes can take `r` bits in all with gaps that add up to at most `room` (R92): so many of each form, the two
shortest from what is left. -/
def gapsFit (n r room : Nat) : Bool :=
  (List.range (r / 67 + 1)).any fun f => (List.range ((r - 67 * f) / 21 + 1)).any fun e =>
    (List.range ((r - 67 * f - 21 * e) / 12 + 1)).any fun d =>
      (List.range ((r - 67 * f - 21 * e - 12 * d) / 7 + 1)).any fun c =>
        let m := n - (f + e + d + c)
        let q := r - 67 * f - 21 * e - 12 * d - 7 * c
        let b := (q - m) / 3
        decide (f + e + d + c ≤ n) && decide (m ≤ q) && (q - m) % 3 == 0 && decide (b ≤ m)
          && decide (b + 5 * c + 21 * d + 277 * e ≤ room)

/-- The forms of a gap code (R92): the ones its prefix begins with, its bits and the least gap it codes. -/
def gapForms : List (Nat × Nat × Nat) := [(0, 1, 0), (1, 4, 1), (2, 7, 5), (3, 12, 21), (4, 21, 277), (5, 67, 0)]

/-- The first `limit` bits of a payload show that no stream that begins so holds `n` elements in exactly `bits` bits with
keys below 2^KW (R87). A gap of which only the prefix lies in them is at least what the bits there give. -/
def revealed (p bits kw w ab limit : Nat) : Nat → Nat → Nat → Bool
  | 0, pos, _ => pos != bits
  | n + 1, pos, last =>
    let g := decodeGap p pos
    let fixed := w + 8 * ab
    if limit < pos + gapPrefix (g.2 - pos) then
      !gapForms.any fun f => decide (limit - pos ≤ f.1) && decide (last + f.2.2 < 2 ^ kw)
        && decide (pos + f.2.1 + (n + 1) * fixed ≤ bits)
        && gapsFit n (bits - (pos + f.2.1 + (n + 1) * fixed)) (2 ^ kw - 1 - (last + f.2.2))
    else decide (bits < g.2 + fixed) || decide (2 ^ kw ≤ last + g.1)
      || revealed p bits kw w ab limit n (g.2 + fixed) (last + g.1)

/-- The linked block of an entry, read and checked line by line (R87, R89, R355). -/
def Tx.block (x : Tx) (c : Clutch) (need : Need) (e : IndexEntry) : Got (Tx × Block) :=
  let va := c.pool + 256 * e.block
  let bad := Got.trap .clDesc (BitVec.ofNat 64 va)
  (x.read need va 128).bind fun _ r =>
    let pa := r.2
    let s1 := r.1.s
    let bits := s1.numAt (pa + 10) 2
    let count := s1.numAt (pa + 8) 2
    let next := s1.numAt (pa + 12) 4
    if s1.numAt pa 8 ≠ e.fence || (next ≠ 0xFFFFFFFF && c.count ≤ next) || decide (1920 < bits)
        || revealed (beNat (s1.bytesAt (pa + 16) 112) * 2 ^ 1024) bits c.kw c.w c.ab 896 count 0 e.fence then bad
    else (r.1.read need (va + 128) 128).bind fun s t =>
      let payload := t.1.s.bytesAt (pa + 16) 112 ++ t.1.s.bytesAt t.2 128
      match decodeElems (beNat payload) bits c.w c.ab count 0 e.fence with
      | some es =>
        if es.any fun x => decide (2 ^ c.kw ≤ x.key) then bad
        else .ok s (t.1, { pa := pa, fence := e.fence, next := next, elems := es })
      | none => bad

/-- The stream of a block's elements. -/
def Clutch.stream (c : Clutch) (fence : Nat) (es : List Elem) : BitStr := encodeElems c.w c.ab fence es

/-- Elements fit in a block's payload (R97). -/
def Clutch.fits (c : Clutch) (fence : Nat) (es : List Elem) : Bool := decide ((c.stream fence es).len ≤ 1920)

/-- The 256 bytes of a block (R89). -/
def Clutch.blockBytes (c : Clutch) (fence next : Nat) (es : List Elem) : List Byte :=
  let b := c.stream fence es
  leBytes 8 fence ++ leBytes 2 es.length ++ leBytes 2 b.len ++ leBytes 4 next
    ++ beBytes 240 (b.val * 2 ^ (1920 - b.len))

/-- The block at FREE_HEAD: its physical address and its NEXT, the one field read of it (R87). DESIGN CHOICE, log entry 27:
poison in its first sector is reported at the block's address. -/
def Tx.freeBlock (x : Tx) (c : Clutch) : Got (Tx × Nat × Nat) :=
  let va := c.pool + 256 * c.free
  (x.read .rw va 16).bind fun _ r =>
    let next := r.1.s.numAt (r.2 + 12) 4
    if next ≠ 0xFFFFFFFF && c.count ≤ next then .trap .clDesc (BitVec.ofNat 64 va)
    else (r.1.line .rw (va + 128) 128).bind fun s t => .ok s (t.1, r.2, next)

/-- Index entry i made ready to be written: its physical address. -/
def Tx.slot (x : Tx) (c : Clutch) (i : Nat) : Got (Tx × Nat) := x.line .rw (c.index + 16 * i) 16

/-- Index entries from i on made ready to be written. -/
def Tx.slots (x : Tx) (c : Clutch) : Nat → Nat → Got (Tx × List Nat)
  | 0, _ => .ok x.s (x, [])
  | n + 1, i => (x.slot c i).bind fun _ r => (Tx.slots r.1 c n (i + 1)).bind fun s t => .ok s (t.1, r.2 :: t.2)

/-- Writes of some entries to their slots. -/
def entryWrites (pas : List Nat) (es : List IndexEntry) : List (Nat × List Byte) :=
  List.zipWith (fun pa (e : IndexEntry) => (pa, e.bytes)) pas es

/-! ### Outcomes -/

/-- What an operation returns beside its predicate (R101, R357). -/
structure ClOut where
  status : Nat
  gen : Nat
  /-- Cursor key, offset and tag, ordinal; attribute. -/
  cursor : Option (Nat × Nat) := none
  ordinal : Option Nat := none
  attr : Option (List Byte) := none
  deriving DecidableEq, Repr

/-- An outcome written to the clutch block at register d and the predicate (R356, R357). -/
def State.clReturn (s : State) (d : Nat) (p : BitVec 3) (o : ClOut) : State :=
  let s := match o.cursor with
    | some (k, ot) => s.setVs d [BitVec.ofNat 32 k, BitVec.ofNat 32 (k / 2 ^ 32), BitVec.ofNat 32 ot]
    | none => s
  let s := match o.ordinal with
    | some n => s.setV (d + 3) (BitVec.ofNat 32 n)
    | none => s
  let s := match o.attr with
    | some bs => s.setVs (d + 4) [BitVec.ofNat 32 (leNat (bs.take 4)), BitVec.ofNat 32 (leNat (bs.drop 4))]
    | none => s
  (s.setVs (d + 6) [BitVec.ofNat 32 o.status, BitVec.ofNat 32 o.gen]).setP p (o.status == 0)

/-- An operation's end: its writes with the descriptor's, its outcome. -/
def Tx.clDone (x : Tx) (c : Clutch) (writes : List (Nat × List Byte)) (d : Nat) (p : BitVec 3) (o : ClOut) : Res :=
  let desc := if writes.isEmpty then [] else [(c.pa + 16, c.unitFields)]
  .done ((x.commit (writes ++ desc)).clReturn d p { o with gen := c.gen })

/-- A refusal for an empty pool, counted (R98). -/
def Tx.poolEmpty (x : Tx) (c : Clutch) (d : Nat) (p : BitVec 3) : Res :=
  let c := { c with empty := min 0xFFFFFFFF (c.empty + 1) }
  .done ((x.commit [(c.pa + 16, c.unitFields)]).clReturn d p { status := 4, gen := c.gen })

/-- The split point of R98. -/
def splitPoint (es : List Elem) : Option Nat :=
  let key := fun i => (es.getD i ⟨0, 0, []⟩).key
  let m := es.length / 2
  let at_ := fun i => decide (1 ≤ i) && key i != key (i - 1)
  match (List.range (es.length - m)).find? fun i => at_ (m + i) with
  | some i => some (m + i)
  | none => (List.range m).reverse.find? at_

/-- A block rewritten with new elements, split when they do not fit (R97, R98): `i` is its index entry. DESIGN CHOICE, log
entry 93: COUNT does not fall below 0. -/
def Tx.rewrite (x : Tx) (c : Clutch) (i : Nat) (b : Block) (es : List Elem) (d : Nat) (p : BitVec 3) (o : ClOut)
    (delta : Int) : Res :=
  let c' := { c with elems := ((c.elems : Int) + delta).toNat }
  if c.fits b.fence es then x.clDone c' [(b.pa, c.blockBytes b.fence b.next es)] d p o
  else match splitPoint es with
    | none => x.clDone c [] d p { status := 5, gen := 0 }
    | some k =>
      let lo := es.take k
      let hi := es.drop k
      let fence := (hi.headD ⟨0, 0, []⟩).key
      if !c.fits b.fence lo || !c.fits fence hi then x.clDone c [] d p { status := 5, gen := 0 }
      else if c.free = 0xFFFFFFFF then x.poolEmpty c d p
      else
        let n := min (c.live - i) (c.cap - (i + 1))
        ((x.entries c .rw (c.live - (i + 1)) (i + 1)).bind fun _ r =>
          (r.1.slots c n (i + 1)).bind fun _ t => (t.1.freeBlock c).bind fun s u => .ok s (u, r.2, t.2)).then
          fun _ (u, later, pas) =>
            let new : IndexEntry := { fence := fence, block := c.free }
            let c' := { c' with free := u.2.2, live := c.live + 1, gen := (c.gen + 1) % 2 ^ 32 }
            u.1.clDone c' ([(b.pa, c.blockBytes b.fence c.free lo), (u.2.1, c.blockBytes fence b.next hi)]
              ++ entryWrites pas (new :: later)) d p o

/-- A block that a remove has emptied returned to the pool (R100). DESIGN CHOICE, log entry 93: the predecessor, whose NEXT
is written, is read and checked as a whole first, and COUNT does not fall below 0. -/
def Tx.returnBlock (x : Tx) (c : Clutch) (i : Nat) (e : IndexEntry) (b : Block) (d : Nat) (p : BitVec 3) (o : ClOut) :
    Res :=
  let c' := { c with elems := c.elems - 1, free := e.block, live := c.live - 1, gen := (c.gen + 1) % 2 ^ 32 }
  let freed := (b.pa, c.blockBytes 0 c.free [])
  if i = 0 then x.clDone c' [freed] d p o
  else
    ((x.entry c .rw (i - 1)).bind fun _ r => (r.1.block c .rw r.2).bind fun _ q =>
      (q.1.entries c .rw (c.live - (i + 1)) (i + 1)).bind fun _ t =>
        (t.1.slots c (c.live - (i + 1)) i).bind fun s u => .ok s (u.1, q.2, t.2, u.2)).then
      fun _ (y, pred, later, pas) =>
        y.clDone c' ([freed, (pred.pa + 12, leBytes 4 b.next)] ++ entryWrites pas later) d p o

/-! ### The instructions -/

/-- The descriptor stage of an operation (R87). -/
def State.onClutch (s : State) (a : BitVec 7) (need : Need) (f : Tx → Clutch → Res) : Res :=
  s.inOrder fun s => s.descAddr a fun va =>
    (s.begin.read need va 64).tx fun x pa =>
      let c := x.s.clutchAt pa
      if x.s.clutchOk c then f x c else .trap .clDesc (BitVec.ofNat 64 va)

/-- What a word on a clutch demands (R354, R356). -/
def clDemand (regs : List Nat) : Demand := { regs := regsUpTo regs, keeper := false }

/-- The key of a clutch block (R356). -/
def State.clKey (s : State) (d : Nat) : Nat := (s.v d).toNat + 2 ^ 32 * (bits (s.v (d + 1)) 0 30).toNat

/-- The attribute bytes of a clutch block, by AB (R356). -/
def State.clAttr (s : State) (d ab : Nat) : List Byte := (wordsBytes (s.vs (d + 4) 2) 8).take ab

/-- The width check of CLINS and CLREM (R357). -/
def State.clWidth (s : State) (d : Nat) (c : Clutch) : Bool :=
  bits (s.v (d + 1)) 30 2 != 0#2 || decide (2 ^ c.kw ≤ s.clKey d)
    || (decide (c.w < 32) && decide (2 ^ c.w ≤ (s.v (d + 2)).toNat))

/-- The position order of an element against a key and an offset with tag (R93). -/
def Elem.le (e : Elem) (key ot : Nat) : Bool := decide (e.key < key) || (e.key == key && decide (e.ot ≤ ot))

def Elem.is (e : Elem) (key ot : Nat) : Bool := e.key == key && e.ot == ot

def execClins (d : BitVec 8) (a : BitVec 7) (p : BitVec 3) (s : State) : Outcome State Fault Refusal :=
  s.runWord (.clins d a p) (clDemand [vn d + 7, pn a + 1]) fun s => s.onClutch a .rw fun x c =>
    let d := vn d
    if s.clWidth d c then x.clDone c [] d p { status := 6, gen := 0 }
    else
      let e : Elem := { key := s.clKey d, ot := (s.v (d + 2)).toNat, attr := s.clAttr d c.ab }
      if c.live = 0 then
        if c.free = 0xFFFFFFFF then x.poolEmpty c d p
        else ((x.slot c 0).bind fun _ r => (r.1.freeBlock c).bind fun st u => .ok st (u, r.2)).then fun _ (u, pa) =>
          let c' := { c with free := u.2.2, live := 1, elems := c.elems + 1 }
          u.1.clDone c' [(u.2.1, c.blockBytes 0 0xFFFFFFFF [e]), (pa, IndexEntry.bytes { fence := 0, block := c.free })] d p
            { status := 0, gen := 0, ordinal := some 1 }
      else
        ((x.lookup c .rw e.key 33 0 c.live).bind fun _ r => (r.1.entry c .rw r.2).bind fun _ t =>
          (t.1.entries c .rw (min 1 (c.live - (r.2 + 1))) (r.2 + 1)).bind fun _ n =>
            (n.1.block c .rw t.2).bind fun st b => .ok st (b.1, r.2, b.2)).then fun _ (x, i, b) =>
          let before := b.elems.takeWhile fun y => y.le e.key e.ot
          let run := (b.elems.filter fun y => y.is e.key e.ot).length
          x.rewrite c i b (before ++ e :: b.elems.drop before.length) d p
            { status := 0, gen := 0, ordinal := some (run + 1) } 1

def execClrem (d : BitVec 8) (a : BitVec 7) (p : BitVec 3) (s : State) : Outcome State Fault Refusal :=
  s.runWord (.clrem d a p) (clDemand [vn d + 7, pn a + 1]) fun s => s.onClutch a .rw fun x c =>
    let d := vn d
    if s.clWidth d c then x.clDone c [] d p { status := 6, gen := 0 }
    else if c.live = 0 then x.clDone c [] d p { status := 3, gen := 0 }
    else
      let key := s.clKey d
      let ot := (s.v (d + 2)).toNat
      ((x.lookup c .rw key 33 0 c.live).bind fun _ r => (r.1.entry c .rw r.2).bind fun _ t =>
        (t.1.entries c .rw (min 1 (c.live - (r.2 + 1))) (r.2 + 1)).bind fun _ n =>
          (n.1.block c .rw t.2).bind fun st b => .ok st (b.1, r.2, t.2, b.2)).then fun _ (x, i, e, b) =>
        let run := (b.elems.filter fun y => y.is key ot).length
        match (List.range b.elems.length).reverse.find? fun k => (b.elems.getD k ⟨0, 0, []⟩).is key ot with
        | none => x.clDone c [] d p { status := 3, gen := 0 }
        | some k =>
          let gone := b.elems.getD k ⟨0, 0, []⟩
          let o : ClOut := { status := 0, gen := 0, ordinal := some run, attr := some gone.attr }
          let es := b.elems.eraseIdx k
          if es.isEmpty && (i ≠ 0 || c.live = 1) then x.returnBlock c i e b d p o
          else x.rewrite c i b es d p o (-1)

/-- The ordinals of a block's elements: each one's place in its run (R93). -/
def ordinals : List Elem → Option Elem → Nat → List (Elem × Nat)
  | [], _, _ => []
  | e :: es, last, n =>
    let k := match last with
      | some l => if l.is e.key e.ot then n + 1 else 1
      | none => 1
    (e, k) :: ordinals es (some e) k

def execClnext (d : BitVec 8) (a : BitVec 7) (p : BitVec 3) (s : State) : Outcome State Fault Refusal :=
  let h := s.ag.hints.creg
  s.runWord (.clnext d a p)
    { clDemand [vn d + 7, pn a + 1, h + 1] with hints := { c4 := true, needC4 := true }, ok := h % 2 == 0 } fun s =>
    s.onClutch a .rd fun x c =>
      let d := vn d
      let key := s.clKey d
      let ot := (s.v (d + 2)).toNat
      let ord := (s.v (d + 3)).toNat
      let hi := (s.pair h).toNat
      let finish : ClOut := { status := 1, gen := 0 }
      if c.live = 0 then x.clDone c [] d p finish
      else
        ((x.lookup c .rd key 33 0 c.live).bind fun _ r => (r.1.entry c .rd r.2).bind fun _ t =>
          (t.1.entries c .rd (min 1 (c.live - (r.2 + 1))) (r.2 + 1)).bind fun _ n =>
            (n.1.block c .rd t.2).bind fun st b => .ok st (b.1, n.2, b.2)).then fun _ (x, after, b) =>
          let above := fun (y : Elem × Nat) =>
            decide (key < y.1.key) || (y.1.key == key && (decide (ot < y.1.ot) || (y.1.ot == ot && decide (ord < y.2))))
          match (ordinals b.elems none 0).find? above with
          | some (e, k) =>
            if e.key ≤ hi then
              x.clDone c [] d p
                { status := 0, gen := 0, cursor := some (e.key, e.ot), ordinal := some k, attr := some e.attr }
            else x.clDone c [] d p finish
          | none => match after with
            | [] => x.clDone c [] d p finish
            | n :: _ =>
              if hi < n.fence then x.clDone c [] d p finish
              else x.clDone c [] d p { status := 2, gen := 0, cursor := some (n.fence, 0), ordinal := some 0 }

def execClcnt (d a : BitVec 7) (s : State) : Outcome State Fault Refusal :=
  s.runWord (.clcnt d a) (clDemand [pn d + 1, pn a + 1]) fun s => s.onClutch a .rd fun x c =>
    .done ((x.commit []).setPair (pn d) (BitVec.ofNat 64 c.elems))

def execClstat (d : BitVec 6) (a : BitVec 7) (s : State) : Outcome State Fault Refusal :=
  s.runWord (.clstat d a) (clDemand [qn d + 3, pn a + 1]) fun s => s.onClutch a .rd fun x c =>
    .done ((x.commit []).setVs (qn d) ([c.live, c.count, c.gen, c.empty].map (BitVec.ofNat 32)))

/-- New blocks made ready to be written, in ascending order: their physical addresses (R358). -/
def Tx.newBlocks (x : Tx) (c : Clutch) : Nat → Nat → Got (Tx × List Nat)
  | 0, _ => .ok x.s (x, [])
  | n + 1, i =>
    let va := c.pool + 256 * i
    (x.line .rw va 128).bind fun _ r => (r.1.line .rw (va + 128) 128).bind fun _ q =>
      (Tx.newBlocks q.1 c n (i + 1)).bind fun s t => .ok s (t.1, r.2 :: t.2)

def execClgrow (d : BitVec 8) (a : BitVec 7) (p : BitVec 3) (s : State) : Outcome State Fault Refusal :=
  s.runWord (.clgrow d a p) (clDemand [vn d, pn a + 1]) fun s => s.onClutch a .rw fun x c =>
    let n := (s.v (vn d)).toNat
    let out := fun (s : State) (status : Word) => Res.done ((s.setV (vn d) status).setP p (status == 0#32))
    if n < 1 || 65536 < n then .trap .engArg 0#64
    else if c.cap < c.count + n || 0xFFFFFFFE < c.count + n then out (x.commit []) 7#32
    else (x.newBlocks c n c.count).then fun _ (x, pas) =>
      let writes := (List.range n).zip pas |>.map fun (i, pa) =>
        (pa, c.blockBytes 0 (if i + 1 = n then c.free else c.count + i + 1) [])
      let c' := { c with count := c.count + n, free := c.count }
      out (x.commit (writes ++ [(c.pa + 16, c'.unitFields)])) 0#32

end Sys2Proof.Machine
end

