-- ==== Sys2Proof/Machine/Collective.lean ====
section
/-! DEFINITION. Group collectives: arriving at an instance, its performance once every named lane has arrived
(R170, R171, R266, R297 to R299). -/

namespace Sys2Proof.Machine

open Host (Outcome)

/-! ### Results -/

/-- One combination of VRED and VSCAN (R299). -/
def redCombine (ftz : Bool) (op t : BitVec 4) (x y : Word) : Word :=
  match op.toNat with
  | 0 =>
    if t = 2#4 then BitVec.ofNat 32 (f32.pack .rn ftz ((unpack32 ftz x).add .rn (unpack32 ftz y))) else x + y
  | 1 => if t = 2#4 then fm false x y else minWord (t == 1#4) x y
  | 2 => if t = 2#4 then fm true x y else maxWord (t == 1#4) x y
  | 3 => x &&& y
  | 4 => x ||| y
  | _ => x ^^^ y
where
  fm (mx : Bool) (x y : Word) : Word :=
    let g := fun (x : Word) => if ftz then f32.flushIn x.toNat else x.toNat
    BitVec.ofNat 32 (f32.minMax mx (g x) (g y))

/-- Two sides of the tree of R266, either of which may be absent. -/
def redSides (f : Word → Word → Word) : Option Word → Option Word → Option Word
  | some x, some y => some (f x y)
  | some x, none => some x
  | none, y => y

/-- The tree combination over lane indices (R266); `x` gives the value of a named lane. -/
def redTree (f : Word → Word → Word) (x : Nat → Option Word) : Option Word :=
  let pair := fun i => redSides f (x (2 * i)) (x (2 * i + 1))
  redSides f (redSides f (pair 0) (pair 1)) (redSides f (pair 2) (pair 3))

/-- The inclusive prefix of a lane, combined left to right (R266). -/
def redScan (f : Word → Word → Word) (x : Nat → Option Word) (l : Nat) : Option Word :=
  (List.range (l + 1)).foldl (fun acc i => redSides f acc (x i)) none

/-- A value of a lane: what it issued (R298): the value or pair compared, and the selector. -/
structure Arrived where
  x : DWord
  sel : Word
  deriving DecidableEq, Repr

/-- The mask of the named lanes `f` holds of. -/
def namedMask (vals : Nat → Option Arrived) (f : Arrived → Bool) : Word :=
  BitVec.ofNat 32 (((List.range 8).map fun k => match vals k with
    | some v => if f v then 2 ^ k else 0
    | none => 0).sum)

/-- A predicate source after its inversion (R298). -/
def Arrived.true (v : Arrived) : Bool := v.x != 0#64

/-- The thread of a named lane `l` with its result written, from what the named lanes issued (R298, R299). -/
def collectResult (i : Instr) (ftz : Bool) (vals : Nat → Option Arrived) (l : Nat) (a : Agent) : Agent :=
  match vals l with
  | none => a
  | some me =>
    match i with
    | .vshfl d _ _ m =>
      let s := (if m = 0#1 then bits me.sel 0 3 else (BitVec.ofNat 3 l) ^^^ bits me.sel 0 3).toNat
      a.setReg d.toNat (bits ((vals s).getD me).x 0 32)
    | .vbal d _ _ _ => a.setReg d.toNat (namedMask vals Arrived.true)
    | .vvote q _ _ _ m =>
      let t := namedMask vals Arrived.true
      let all := namedMask vals fun _ => true
      a.setPred q (if m = 0#1 then t != 0#32 else t == all)
    | .vmatch d _ _ _ => a.setReg d.toNat (namedMask vals fun v => v.x == me.x)
    | .elect p _ => a.setPred p (!(List.range l).any fun k => (vals k).isSome)
    | .vred d op t _ =>
      a.setReg d.toNat ((redTree (redCombine ftz op t) fun k => (vals k).map fun v => bits v.x 0 32).getD 0#32)
    | .vscan d op t _ =>
      a.setReg d.toNat ((redScan (redCombine ftz op t) (fun k => (vals k).map fun v => bits v.x 0 32) l).getD 0#32)
    | _ => a

/-! ### Instances -/

/-- What a lane issued to the instance of an address and a mask. -/
def Agent.arrivedAt (a : Agent) (pc : DWord) (mask : BitVec 8) : Option Arrived :=
  match a.status with
  | .parked (.collective _ p _ m x sel) => if p = pc && m = mask then some { x := x, sel := sel } else none
  | _ => none

/-- An instance of a group performed when its arrived lanes cover its mask (R170). -/
def Team.perform (t : Team) (g : Nat) (i : Instr) (pc : DWord) (mask : BitVec 8) : Team :=
  let vals := fun k => (t.lanes.find? (8 * g + k)).bind fun a => a.arrivedAt pc mask
  if (List.range 8).all fun k => !mask.getLsbD k || (vals k).isSome then
    { t with lanes := t.lanes.map fun (e : Nat × Agent) =>
        if e.1 / 8 = g && (e.2.arrivedAt pc mask).isSome then (e.1, (collectResult i t.ftz vals (e.1 % 8) e.2).wake)
        else e }
  else t

/-- Every instance of a group tested (R170). -/
def Team.performAll (t : Team) (g : Nat) : Team :=
  t.lanes.foldl (fun t (e : Nat × Agent) =>
    if e.1 / 8 = g then
      match t.lanes.find? e.1 with
      | some a =>
        match a.status with
        | .parked (.collective i pc _ mask _ _) => t.perform g i pc mask
        | _ => t
      | none => t
    else t) t

/-- The tests of a group after a bundle of it: its masks, its instances (R169, R170). -/
def Team.endBundle (t : Team) (g : Nat) : Team :=
  let t := (t.testMasks g).performAll g
  { t with cleared := t.cleared.filter fun k => k / 16 ≠ g }

/-- The tests that follow a bundle of some groups of a team, and those of its barriers (R169, R170, R192). -/
def State.endBundle (s : State) (c slot : Nat) (groups : List Nat) : State :=
  (s.modTeam c slot fun t => groups.foldl Team.endBundle t).testTeam c slot

/-! ### The instructions -/

/-- A lane that issues a collective (R171, R297): the mask is bits 7:0 of B. -/
def State.collective (s : State) (i : Instr) (b : BitVec 8) (regs : List Nat) (x : State → DWord) (sel : State → Word) :
    Outcome State Fault Refusal :=
  s.runWord i { regs := regsUpTo (vn b :: regs), keeper := false, tadWait := true } fun s =>
    let mask := bits (s.v (vn b)) 0 8
    let live := (s.myTeam.map fun t => t.liveMask (s.laneId / 8)).getD 0#8
    if mask &&& laneBit s.laneId = 0#8 || mask &&& ~~~live != 0#8 then .trap .collMask (mask.setWidth 64)
    else .park s (.collective i s.ag.pc s.ag.trapAt mask (x s) (sel s))

/-- A predicate source as an issued value. -/
def boolD (b : Bool) : DWord := if b then 1#64 else 0#64

def execVshfl (d a b : BitVec 8) (m : BitVec 1) (s : State) : Outcome State Fault Refusal :=
  s.collective (.vshfl d a b m) b [vn d, vn a] (fun s => (s.v (vn d)).setWidth 64) fun s => s.v (vn a)

def execVbal (d : BitVec 8) (x : BitVec 1) (p : BitVec 3) (b : BitVec 8) (s : State) : Outcome State Fault Refusal :=
  s.collective (.vbal d x p b) b [vn d] (fun s => boolD (s.predX x p)) fun _ => 0#32

def execVvote (q : BitVec 3) (x : BitVec 1) (p : BitVec 3) (b : BitVec 8) (m : BitVec 1) (s : State) :
    Outcome State Fault Refusal :=
  s.collective (.vvote q x p b m) b [] (fun s => boolD (s.predX x p)) fun _ => 0#32

def execVmatch (d a b : BitVec 8) (m : BitVec 1) (s : State) : Outcome State Fault Refusal :=
  s.collective (.vmatch d a b m) b [vn d, vn a + m.toNat]
    (fun s => if m = 1#1 then s.pair (vn a) else (s.v (vn a)).setWidth 64) fun _ => 0#32

def execElect (p : BitVec 3) (b : BitVec 8) (s : State) : Outcome State Fault Refusal :=
  s.collective (.elect p b) b [] (fun _ => 0#64) fun _ => 0#32

def execVred (d : BitVec 8) (op t : BitVec 4) (b : BitVec 8) (s : State) : Outcome State Fault Refusal :=
  s.collective (.vred d op t b) b [vn d] (fun s => (s.v (vn d)).setWidth 64) fun _ => 0#32

def execVscan (d : BitVec 8) (op t : BitVec 4) (b : BitVec 8) (s : State) : Outcome State Fault Refusal :=
  s.collective (.vscan d op t b) b [vn d] (fun s => (s.v (vn d)).setWidth 64) fun _ => 0#32

end Sys2Proof.Machine
end

