-- ==== Sys2Proof/Machine/Layer.lean ====
section
/-! DEFINITION. Layered render targets: the stored image, the layer unit's operations, the six instructions (R108 to
R123, R354, R355, R359 to R361). -/

namespace Sys2Proof.Machine

open Host (Outcome)

/-! ### The stored image -/

/-- A layered target descriptor's fields (R108), with its virtual and its physical address. -/
structure Target where
  va : Nat
  pa : Nat
  headBase : Nat
  pool : Nat
  seqBase : Nat
  width : Nat
  height : Nat
  lbound : Nat
  mode : Nat
  clear : Word
  bgRG : Word
  bgBA : Word
  pageCap : Nat
  pages : Nat
  freeHead : Nat
  freeCount : Nat
  deriving DecidableEq, Repr

def State.targetAt (s : State) (va pa : Nat) : Target :=
  let f := fun o n => s.numAt (pa + o) n
  { va := va, pa := pa, headBase := f 0 8, pool := f 8 8, seqBase := f 16 8, width := f 24 2, height := f 26 2,
    lbound := f 28 1, mode := f 29 1, clear := BitVec.ofNat 32 (f 32 4), bgRG := BitVec.ofNat 32 (f 36 4),
    bgBA := BitVec.ofNat 32 (f 40 4), pageCap := f 44 4, pages := f 48 4, freeHead := f 52 4, freeCount := f 56 4 }

/-- RULE: 0 OVER, 1 NEAR, 2 ADD. -/
def Target.rule (t : Target) : Nat := t.mode % 4

def Target.mergePolicy (t : Target) : Bool := Nat.testBit t.mode 2

def Target.ordered (t : Target) : Bool := Nat.testBit t.mode 3

/-- The conditions of R113 on a descriptor. -/
def State.targetOk (s : State) (t : Target) : Bool :=
  Nat.testBit t.mode 7 && t.rule != 3 && t.mode / 16 % 8 == 0 && s.zeroAt (t.pa + 30) 2 && s.zeroAt (t.pa + 60) 4
    && t.headBase % 128 == 0 && decide (t.headBase < 2 ^ 56) && t.pool % 256 == 0 && decide (t.pool < 2 ^ 56)
    && (!t.ordered || (t.seqBase % 4 == 0 && decide (t.seqBase < 2 ^ 56)))
    && decide (1 ≤ t.width) && decide (t.width ≤ 16384) && decide (1 ≤ t.height) && decide (t.height ≤ 16384)
    && decide (1 ≤ t.lbound) && decide (t.lbound ≤ 16) && decide (1 ≤ t.pageCap) && decide (t.pageCap ≤ 2 ^ 23)
    && decide (t.pages ≤ t.pageCap)

/-- The unit's fields as bytes 48 to 59 (R108). -/
def Target.unitFields (t : Target) : List Byte := leBytes 4 t.pages ++ leBytes 4 t.freeHead ++ leBytes 4 t.freeCount

/-- A fragment: a node of a list, or one that arrives (R110). `idx` is its node, `at_` its physical address and
`seqAt` that of its sequence word. -/
structure Frag where
  depth : Word
  rg : Word
  ba : Word
  seq : Word
  idx : Nat := 0
  at_ : Nat := 0
  seqAt : Option Nat := none
  deriving DecidableEq, Repr

/-- Sixteen bytes of a node (R110). -/
def nodeBytes (d rg ba : Word) (next : Nat) : List Byte :=
  leBytes 4 d.toNat ++ leBytes 4 rg.toNat ++ leBytes 4 ba.toNat ++ leBytes 4 (next % 2 ^ 27)

/-- The writes of a node: its words with its NEXT, and its sequence word (R110). -/
def Frag.writes (f : Frag) (next : Nat) : List (Nat × List Byte) :=
  (f.at_, nodeBytes f.depth f.rg f.ba next)
    :: (match f.seqAt with
        | some a => [(a, leBytes 4 f.seq.toNat)]
        | none => [])

/-- The writes of a list: each node with the next one's index (R110). -/
def listWrites : List Frag → List (Nat × List Byte)
  | [] => []
  | f :: fs => f.writes ((fs.head?.map Frag.idx).getD 0) ++ listWrites fs

/-- The bytes of a pixel's head word (R109). -/
def headBytes (fs : List Frag) : List Byte := leBytes 4 (fs.length * 2 ^ 27 + (fs.head?.map Frag.idx).getD 0)

/-- A pixel in its target: its head word and its list. -/
structure Pixel where
  headVa : Nat
  headPa : Nat
  list : List Frag
  deriving DecidableEq, Repr

/-- The sequence word of a node read, where the target keeps one (R110). -/
def Tx.seqWord (x : Tx) (t : Target) (need : Need) (n : Nat) : Got (Tx × Word × Option Nat) :=
  if t.ordered then
    (x.read need (t.seqBase + 4 * n) 4).bind fun s r => .ok s (r.1, BitVec.ofNat 32 (r.1.s.numAt r.2 4), some r.2)
  else .ok x.s (x, 0#32, none)

/-- A NEXT with `left` nodes still to come breaks the chain: it ends too early or too late, or names no node (R113). -/
def Target.breaks (t : Target) (left n : Nat) : Bool := if left = 0 then n != 0 else n == 0 || decide (16 * t.pages ≤ n)

/-- The chain of R113 read node by node: `n` the index, `left` the nodes still to come. A node's line shows that its NEXT
breaks the chain before its sequence word is read (R355). -/
def Tx.chain (x : Tx) (t : Target) (need : Need) (headVa : Nat) : Nat → Nat → Got (Tx × List Frag)
  | 0, n => if t.breaks 0 n then .trap .ltDesc (BitVec.ofNat 64 headVa) else .ok x.s (x, [])
  | left + 1, n =>
    if t.breaks (left + 1) n then .trap .ltDesc (BitVec.ofNat 64 headVa)
    else
      (x.read need (t.pool + 16 * n) 16).bind fun _ r =>
        let word := fun i => r.1.s.numAt (r.2 + 4 * i) 4
        if 2 ^ 27 ≤ word 3 || t.breaks left (word 3) then .trap .ltDesc (BitVec.ofNat 64 headVa)
        else (r.1.seqWord t need n).bind fun _ q =>
          let f : Frag := { depth := BitVec.ofNat 32 (word 0), rg := BitVec.ofNat 32 (word 1),
                            ba := BitVec.ofNat 32 (word 2), seq := q.2.1, idx := n, at_ := r.2, seqAt := q.2.2 }
          (Tx.chain q.1 t need headVa left (word 3)).bind fun s c => .ok s (c.1, f :: c.2)

/-- The pixel a register names, its head word and its chain read and checked (R113). -/
def Tx.pixel (x : Tx) (t : Target) (need : Need) (xy : Word) : Got (Tx × Pixel) :=
  let px := (bits xy 0 16).toNat
  let py := (bits xy 16 16).toNat
  if t.width ≤ px || t.height ≤ py then .trap .layerXY (BitVec.ofNat 64 t.va)
  else
    let va := t.headBase + 4 * (py * t.width + px)
    (x.read need va 4).bind fun _ r =>
      let w := r.1.s.numAt r.2 4
      let count := w / 2 ^ 27
      let head := w % 2 ^ 27
      if t.lbound < count || (head = 0) != (count = 0) then .trap .ltDesc (BitVec.ofNat 64 va)
      else (r.1.chain t need va count head).bind fun s c => .ok s (c.1, { headVa := va, headPa := r.2, list := c.2 })

/-! ### Depths, merging and resolving -/

/-- The value of a depth. -/
def depthOf (d : Word) : FVal := f32.unpack d.toNat

/-- Whether a new fragment enters after a node (R115). -/
def entersAfter (ordered : Bool) (node new : Frag) : Bool :=
  let n := depthOf node.depth
  let d := depthOf new.depth
  n.lt d || (n.eqv d && (!ordered || decide (node.seq.toNat ≤ new.seq.toNat)))

/-- The insertion point: after the last node the fragment enters after (R115). -/
def insertionPoint (ordered : Bool) (new : Frag) : List Frag → Nat
  | [] => 0
  | f :: fs =>
    let r := insertionPoint ordered new fs
    if r ≠ 0 then r + 1 else if entersAfter ordered f new then 1 else 0

/-- The difference of two depths, back minus front, for the choice of R116: NaN ranks above every other, an infinity
above every finite one. -/
def depthGap (front back : FVal) : FVal :=
  match front, back with
  | .nan, _ => .nan
  | _, .nan => .nan
  | .inf s, .inf t => if s = t then .fin false 0 0 else .inf false
  | .inf _, .fin .. => .inf false
  | .fin .., .inf _ => .inf false
  | .fin s m e, .fin t n g => FVal.add .rn (.fin t n g) (FVal.neg (.fin s m e))

def gapLess (a b : FVal) : Bool :=
  match a, b with
  | .nan, _ => false
  | _, .nan => true
  | x, y => x.lt y

/-- The differences of the adjacent pairs of a list. -/
def gaps : List Frag → List FVal
  | f :: g :: fs => depthGap (depthOf f.depth) (depthOf g.depth) :: gaps (g :: fs)
  | _ => []

/-- The pair to merge: the smallest difference, the nearest on a tie (R116). -/
def mergePlace (fs : List Frag) : Nat :=
  let gs := gaps fs
  (List.range gs.length).foldl (fun (best i : Nat) => if gapLess (gs.getD i .nan) (gs.getD best .nan) then i else best) 0

/-- FP32 rounding of an exact value, subnormals kept. -/
def round32 (x : FVal) : FVal := f32.unpack (f32.pack .rn false x)

/-- sat_f16 of R119. -/
def satF16 (x : FVal) : Nat :=
  match x with
  | .nan => f16.nan
  | x =>
    let y := f16.pack .rn false x
    y / f16.signBit * f16.signBit + min (y % f16.signBit) 0x7BFF

/-- The four channels of a colour pair: R, G, B, A. -/
def channels (rg ba : Word) : List FVal :=
  [bits rg 0 16, bits rg 16 16, bits ba 0 16, bits ba 16 16].map fun (c : BitVec 16) => f16.unpack c.toNat

/-- 1 − alpha, rounded to FP32. -/
def oneMinus (a : FVal) : FVal := round32 (FVal.add .rn (.fin false 1 0) a.neg)

/-- A colour pair of four FP16 encodings. -/
def colourPair (cs : List Nat) : Word × Word :=
  (BitVec.ofNat 32 (cs.getD 0 0 + 2 ^ 16 * cs.getD 1 0), BitVec.ofNat 32 (cs.getD 2 0 + 2 ^ 16 * cs.getD 3 0))

/-- The merge of a front and a back member (R119), in the front's place with no node yet. -/
def Target.merge (t : Target) (f b : Frag) : Frag :=
  if t.rule = 1 then f
  else
    let fc := channels f.rg f.ba
    let bc := channels b.rg b.ba
    let k := if t.rule = 0 then oneMinus (fc.getD 3 .nan) else .fin false 1 0
    let out := List.zipWith (fun (x y : FVal) => satF16 (round32 (FVal.add .rn x (if t.rule = 0 then k.mul y else y)))) fc bc
    let c := colourPair out
    { f with rg := c.1, ba := c.2, seq := if f.seq.toNat ≤ b.seq.toNat then b.seq else f.seq }

/-- A fragment put in another's node. -/
def Frag.inNode (f n : Frag) : Frag := { f with idx := n.idx, at_ := n.at_, seqAt := n.seqAt }

/-- The list after the merge at the bound (R116): the pair's result in the front's place. With both members stored the
result takes the front's node, and the fragment the back's, which the merge frees. -/
def Target.mergeList (t : Target) (fs : List Frag) : List Frag :=
  let i := mergePlace fs
  match fs.drop i with
  | f :: b :: rest =>
    let m := t.merge f b
    let stored := f.idx ≠ 0 && b.idx ≠ 0
    let m := m.inNode (if f.idx ≠ 0 then f else b)
    (fs.take i ++ m :: rest).map fun (x : Frag) => if stored && x.idx = 0 then x.inNode b else x
  | _ => fs

/-- The composite of a list over the background (R123): four FP32 values. -/
def resolve (fs : List Frag) (bgRG bgBA : Word) : List Word :=
  let bg := channels bgRG bgBA
  let acc := if fs.isEmpty then bg
    else (fs.map (fun (f : Frag) => channels f.rg f.ba) ++ [bg]).foldl (fun (acc c : List FVal) =>
      let k := oneMinus (acc.getD 3 .nan)
      List.zipWith (fun (x y : FVal) => round32 (FVal.add .rn x (k.mul y))) acc c) (List.replicate 4 (.fin false 0 0))
  acc.map fun (x : FVal) => BitVec.ofNat 32 (f32.pack .rn false x)

/-! ### The steps of the unit -/

/-- The descriptor stage of an operation (R113). -/
def State.onTarget (s : State) (a : BitVec 7) (need : Need) (f : Tx → Target → Res) : Res :=
  s.inOrder fun s => s.descAddr a fun va =>
    (s.begin.read need va 64).tx fun x pa =>
      let t := x.s.targetAt va pa
      if x.s.targetOk t then f x t else .trap .ltDesc (BitVec.ofNat 64 va)

/-- A counter of node 0 incremented, saturating: its write (R112). -/
def Tx.counter (x : Tx) (t : Target) (k : Nat) : Got (Tx × List (Nat × List Byte)) :=
  if t.pages = 0 then .ok x.s (x, [])
  else (x.read .rw (t.pool + 4 * k) 4).bind fun s r =>
    .ok s (r.1, [(r.2, leBytes 4 (min 0xFFFFFFFF (r.1.s.numAt r.2 4 + 1)))])

/-- Some counters incremented. -/
def Tx.counters (x : Tx) (t : Target) : List Nat → Got (Tx × List (Nat × List Byte))
  | [] => .ok x.s (x, [])
  | k :: ks => (x.counter t k).bind fun _ r => (Tx.counters r.1 t ks).bind fun s q => .ok s (q.1, r.2 ++ q.2)

/-- The node at FREE_HEAD read for a fragment, with its NEXT (R113, R116). -/
def Tx.freeNode (x : Tx) (t : Target) (f : Frag) : Got (Tx × Frag × Nat) :=
  (x.read .rw (t.pool + 16 * t.freeHead) 16).bind fun _ r =>
    let next := r.1.s.numAt (r.2 + 12) 4 % 2 ^ 27
    let done := fun (s : State) (x : Tx) (sa : Option Nat) =>
      Got.ok s (x, { f with idx := t.freeHead, at_ := r.2, seqAt := sa }, next)
    if t.ordered then (r.1.line .rw (t.seqBase + 4 * t.freeHead) 4).bind fun s q => done s q.1 (some q.2)
    else done r.1.s r.1 none

/-- The nodes of a list freed, nearest first (R120): their writes and the descriptor. -/
def Target.free (t : Target) : List Frag → List (Nat × List Byte) × Target
  | [] => ([], t)
  | f :: fs =>
    let r := Target.free { t with freeHead := f.idx, freeCount := (t.freeCount + 1) % 2 ^ 32 } fs
    ((f.at_, nodeBytes 0#32 0#32 0#32 t.freeHead) :: r.1, r.2)

/-- The write of a descriptor's unit fields. -/
def Target.write (t : Target) : Nat × List Byte := (t.pa + 48, t.unitFields)

/-- A FRAG's end: its writes, its status, the pixel's COUNT, its predicate (R359, R360). -/
def Tx.fragDone (x : Tx) (writes : List (Nat × List Byte)) (d : Nat) (p : BitVec 3) (status count : Nat) : Res :=
  .done (((x.commit writes).setVs (d + 5) [BitVec.ofNat 32 status, BitVec.ofNat 32 count]).setP p (decide (status < 3)))

/-- A fragment that takes part in a merge at its pixel (R116, R118). -/
def Tx.fragMerge (x : Tx) (t : Target) (q : Pixel) (all : List Frag) (counts : List Nat) (d : Nat) (p : BitVec 3)
    (status : Nat) : Res :=
  (x.counters t counts).then fun _ (x, cw) =>
    let fs := t.mergeList all
    x.fragDone (listWrites fs ++ [(q.headPa, headBytes fs)] ++ cw) d p status fs.length

/-- The insertion of a fragment that is not far (R116 to R118). -/
def Tx.fragInsert (x : Tx) (t : Target) (q : Pixel) (f : Frag) (d : Nat) (p : BitVec 3) : Res :=
  let c := q.list.length
  let i := insertionPoint t.ordered f q.list
  let all := fun (f : Frag) => q.list.take i ++ f :: q.list.drop i
  let late := if t.ordered && q.list.any fun (n : Frag) => decide (f.seq.toNat ≤ n.seq.toNat) then [3] else []
  if c = t.lbound then x.fragMerge t q (all f) (0 :: late) d p 1
  else if t.freeHead = 0 then
    if !t.mergePolicy then .trap .layerPool (BitVec.ofNat 64 q.headVa)
    else if c = 0 then
      (x.counters t [2]).then fun _ (x, cw) => x.fragDone cw d p 3 0
    else x.fragMerge t q (all f) (1 :: late) d p 2
  else
    ((x.freeNode t f).bind fun _ r => (r.1.counters t late).bind fun s u => .ok s (u.1, r.2, u.2)).then
      fun _ (x, (f, next), cw) =>
        let fs := all f
        let t := { t with freeHead := next, freeCount := (t.freeCount + 2 ^ 32 - 1) % 2 ^ 32 }
        x.fragDone (listWrites fs ++ [(q.headPa, headBytes fs), t.write] ++ cw) d p 0 fs.length

/-! ### The instructions -/

def execFrag (d : BitVec 8) (a : BitVec 7) (p : BitVec 3) (s : State) : Outcome State Fault Refusal :=
  s.runWord (.frag d a p) (clDemand [vn d + 6, pn a + 1]) fun s => s.onTarget a .rw fun x t =>
    let d := vn d
    (x.pixel t .rw (s.v d)).then fun _ (x, q) =>
      let f : Frag := { depth := s.v (d + 1), rg := s.v (d + 2), ba := s.v (d + 3), seq := s.v (d + 4) }
      let dv := depthOf f.depth
      if dv.isNan || (depthOf t.clear).lt dv then x.fragDone [] d p 4 q.list.length
      else x.fragInsert t q f d p

def execFrrd (d : BitVec 8) (a : BitVec 7) (s : State) : Outcome State Fault Refusal :=
  s.runWord (.frrd d a) (clDemand [vn d + 6, pn a + 1]) fun s => s.onTarget a .rd fun x t =>
    let d := vn d
    (x.pixel t .rd (s.v d)).then fun _ (x, q) =>
      let bg : Frag := { depth := t.clear, rg := t.bgRG, ba := t.bgBA, seq := 0#32 }
      let f := q.list.getD (s.v (d + 4)).toNat bg
      .done (((x.commit []).setVs (d + 1) [f.depth, f.rg, f.ba, f.seq]).setV (d + 6) (BitVec.ofNat 32 q.list.length))

/-- A list freed and its head word zeroed (R120, R123). -/
def Tx.freeList (x : Tx) (t : Target) (q : Pixel) : State :=
  let r := t.free q.list
  x.commit (r.1 ++ [(q.headPa, leBytes 4 0), r.2.write])

def execRslv (d : BitVec 6) (a : BitVec 7) (f : BitVec 1) (s : State) : Outcome State Fault Refusal :=
  let need := if f = 1#1 then .rw else .rd
  s.runWord (.rslv d a f) (clDemand [qn d + 3, pn a + 1]) fun s => s.onTarget a need fun x t =>
    (x.pixel t need (s.v (qn d))).then fun _ (x, q) =>
      let s := if f = 1#1 then x.freeList t q else x.commit []
      .done (s.setVs (qn d) (resolve q.list t.bgRG t.bgBA))

def execFrclr (d : BitVec 8) (a : BitVec 7) (s : State) : Outcome State Fault Refusal :=
  s.runWord (.frclr d a) (clDemand [vn d, pn a + 1]) fun s => s.onTarget a .rw fun x t =>
    (x.pixel t .rw (s.v (vn d))).then fun _ (x, q) => .done (x.freeList t q)

/-- New pages made ready to be written, in ascending order: the physical addresses of their lines (R360). -/
def Tx.newPages (x : Tx) (t : Target) : Nat → Nat → Got (Tx × List Nat)
  | 0, _ => .ok x.s (x, [])
  | n + 1, i =>
    (x.line .rw (t.pool + 128 * i) 128).bind fun _ r =>
      (Tx.newPages r.1 t n (i + 1)).bind fun s q => .ok s (q.1, r.2 :: q.2)

/-- The 128 bytes of half a new page: nodes 8 × half up, each chained to the next index, the last of all to the old
FREE_HEAD; node 0 is four zero counters (R111). -/
def newNodes (half last oldHead : Nat) : List Byte :=
  (List.range 8).flatMap fun i =>
    let n := 8 * half + i
    nodeBytes 0#32 0#32 0#32 (if n = 0 then 0 else if n = last then oldHead else n + 1)

def execPooladd (d : BitVec 8) (a : BitVec 7) (p : BitVec 3) (s : State) : Outcome State Fault Refusal :=
  s.runWord (.pooladd d a p) (clDemand [vn d, pn a + 1]) fun s => s.onTarget a .rw fun x t =>
    let n := (s.v (vn d)).toNat
    let out := fun (s : State) (status : Word) => Res.done ((s.setV (vn d) status).setP p (status == 0#32))
    if n < 1 || 65536 < n then .trap .engArg 0#64
    else if t.pageCap < t.pages + n then out (x.commit []) 5#32
    else (x.newPages t (2 * n) (2 * t.pages)).then fun _ (x, pas) =>
      let first := max (16 * t.pages) 1
      let last := 16 * (t.pages + n) - 1
      let writes := ((List.range (2 * n)).zip pas).map fun (i, pa) => (pa, newNodes (2 * t.pages + i) last t.freeHead)
      let t := { t with pages := t.pages + n, freeHead := first,
                        freeCount := (t.freeCount + (last + 1 - first)) % 2 ^ 32 }
      out (x.commit (writes ++ [t.write])) 0#32

def execPoolst (d : BitVec 8) (a : BitVec 7) (s : State) : Outcome State Fault Refusal :=
  s.runWord (.poolst d a) (clDemand [vn d + 5, pn a + 1]) fun s => s.onTarget a .rd fun x t =>
    let out := fun (s : State) (cs : List Nat) =>
      Res.done (s.setVs (vn d) (([t.pages, t.freeCount] ++ cs).map (BitVec.ofNat 32)))
    if t.pages = 0 then out (x.commit []) [0, 0, 0, 0]
    else (x.read .rd t.pool 16).tx fun x pa =>
      out (x.commit []) ((List.range 4).map fun i => x.s.numAt (pa + 4 * i) 4)

end Sys2Proof.Machine
end

