-- ==== Sys2Proof/Machine/Visibility.lean ====
section
/-! DEFINITION. The visibility unit: ray traversal and tile coverage (R219 to R233, R362 to R364). -/

namespace Sys2Proof.Machine

open Host (Outcome)

/-! ### Ray traversal -/

/-- A stack entry of a traversal (R225). -/
structure RayEntry where
  ref : Word
  t : Word
  leaf : Bool
  deriving DecidableEq, Repr

/-- The traversal state of a ray block (R225, R362); the stack's top first. -/
structure Ray where
  o : List Word
  d : List Word
  tmin : Word
  tmax : Word
  ncount : Word
  nodes : DWord
  stack : List RayEntry
  deriving DecidableEq, Repr

/-- What a step returns (R227): its status, and with LEAF or SPILL an entry. -/
structure RayResult where
  status : Nat
  entry : Option RayEntry := none
  deriving DecidableEq, Repr

def fval (x : Word) : FVal := f32.unpack x.toNat

def FVal.isZero : FVal → Bool
  | .fin _ 0 _ => true
  | _ => false

/-- The greater and the lesser of two encodings by value; the first where they are equal. -/
def maxF (a b : Word) : Word := if (fval a).lt (fval b) then b else a
def minF (a b : Word) : Word := if (fval b).lt (fval a) then b else a

/-- A quotient of a slab, rounded once (R226). -/
def slabQuot (mode : Rnd) (edge o d : Word) : Word :=
  BitVec.ofNat 32 (f32.pack mode false ((FVal.add .rn (fval edge) (fval o).neg).div (fval d)))

/-- One axis of the box test (R226): none is a miss, otherwise the interval narrowed. -/
def slabAxis (o d lo hi : Word) (i : Word × Word) : Option (Word × Word) :=
  if (fval d).isZero then
    if (fval o).lt (fval lo) || (fval hi).lt (fval o) then none else some i
  else
    let pos := !d.getLsbD 31
    let nf := if pos then lo else hi
    let ff := if pos then hi else lo
    some (maxF i.1 (slabQuot .rd nf o d), minF i.2 (slabQuot .ru ff o d))

/-- The box test of a child (R226): none is a miss, otherwise the entry distance. `box` is LO.x to HI.z. -/
def slab (r : Ray) (box : List Word) : Option Word :=
  let lo := fun i => box.getD i 0#32
  let hi := fun i => box.getD (3 + i) 0#32
  if box.any fun (b : Word) => (fval b).isNan then some r.tmin
  else if (List.range 3).any fun i => (fval (hi i)).lt (fval (lo i)) then none
  else
    let axis := fun (i : Nat) (x : Word × Word) => slabAxis (r.o.getD i 0#32) (r.d.getD i 0#32) (lo i) (hi i) x
    (((axis 0 (r.tmin, r.tmax)).bind (axis 1)).bind (axis 2)).bind fun x =>
      if (fval x.2).lt (fval x.1) then none else some x.1

/-- A little-endian word of some bytes. -/
def wordIn (bs : List Byte) (o : Nat) : Word := BitVec.ofNat 32 (leNat ((bs.drop o).take 4))

/-- The entry a child of a node pushes, with its place (R223, R227). -/
def childEntry (r : Ray) (node : List Byte) (c : Nat) : Option (Nat × RayEntry) :=
  let h := wordIn node 0
  let ref := wordIn node (112 + 4 * c)
  let leaf := h.getLsbD (4 + c)
  if h.getLsbD c && (leaf || decide (ref.toNat < r.ncount.toNat)) then
    (slab r ((List.range 6).map fun i => wordIn node (16 + 24 * c + 4 * i))).map fun t => (c, { ref := ref, t := t, leaf := leaf })
  else none

/-- Whether a child is pushed after another: a lesser entry distance, of equal ones the lower number (R227). -/
def onTop (a b : Nat × RayEntry) : Bool :=
  (fval a.2.t).lt (fval b.2.t) || (!(fval b.2.t).lt (fval a.2.t) && decide (a.1 < b.1))

/-- A child put in its place among others, the one that ends on top first. -/
def insertChild (x : Nat × RayEntry) : List (Nat × RayEntry) → List (Nat × RayEntry)
  | [] => [x]
  | y :: ys => if onTop x y then x :: y :: ys else y :: insertChild x ys

/-- The entries of a node that go on the stack, the top first; none for a node with a reserved header bit (R223). -/
def nodeEntries (r : Ray) (node : List Byte) : List RayEntry :=
  if wordIn node 0 >>> 8 != 0#32 || ((node.drop 4).take 12).any (· != 0#8) then []
  else (((List.range 4).filterMap (childEntry r node)).foldr insertChild []).map Prod.snd

/-- Half a node read: a device-scope load of 64 bytes, after the lane's earlier stores (R75, R219, R228). Where the block
puts it at an address that cannot be read, the unit does not trap (R363): its bytes are free. -/
def State.fetchHalf (s : State) (at_ : DWord) : Got (List Byte) :=
  match s.drain.loadVA s.who 2#2 none at_.toNat 64 with
  | .trap .access _ =>
    let r := s.drawn.recall ((List.range 64).map (Config.unreadNode s.free))
    .ok r.1 r.2
  | g => g

/-- A node read: its two halves in a free order, between which other agents may act (R219, R228). -/
def State.fetchNode (s : State) (r : Ray) (ref : Word) : Got (List Byte) :=
  let at_ := r.nodes + BitVec.ofNat 64 (128 * ref.toNat)
  let o := s.drawn.recall [BitVec.ofNat 8 (Config.freeMove s.free % 2)]
  let upper := o.2 == [1#8]
  (o.1.fetchHalf (if upper then at_ + 64#64 else at_)).bind fun t a =>
    if o.1.readsNow && t.pauses then .again t.drawn
    else (t.drawn.fetchHalf (if upper then at_ else at_ + 64#64)).bind fun s b => .ok s (if upper then b ++ a else a ++ b)

/-- A step of R227, with the dropped entries of R363: `left` nodes may still be visited, and `fuel` bounds the entries
popped. -/
def State.rayStep (s : State) (r : Ray) : Nat → Nat → Got (Ray × RayResult)
  | 0, _ => .ok s (r, { status := 3 })
  | fuel + 1, left =>
    match r.stack with
    | [] => .ok s (r, { status := 1 })
    | e :: rest =>
      if (fval r.tmax).lt (fval e.t) then s.rayStep { r with stack := rest } fuel left
      else if e.leaf then .ok s ({ r with stack := rest }, { status := 0, entry := some e })
      else if r.ncount.toNat ≤ e.ref.toNat then s.rayStep { r with stack := rest } fuel left
      else if 4 < rest.length then
        .ok s ({ r with stack := r.stack.dropLast }, { status := 2, entry := r.stack.getLast? })
      else if left = 0 then .ok s (r, { status := 3 })
      else (s.fetchNode r e.ref).bind fun s node =>
        s.rayStep { r with stack := nodeEntries r node ++ rest } fuel (left - 1)

/-- The whole step: END at once for a ray that R227 refuses. At most 16 nodes of at most 4 entries are visited beside
the 8 entries of the stack. -/
def State.rayRun (s : State) (r : Ray) : Got (Ray × RayResult) :=
  if (r.tmin :: r.o ++ r.d).any (fun x => (fval x).isNan || (fval x).isInf) || (fval r.tmax).isNan then
    .ok s (r, { status := 1 })
  else s.rayStep r 80 16

/-- A ray block as registers from d hold it (R362). -/
def State.rayBlock (s : State) (d : Nat) : Ray :=
  let st := s.v (d + 9)
  let depth := (bits st 0 4).toNat
  { o := s.vs d 3, d := s.vs (d + 3) 3, tmin := s.v (d + 6), tmax := s.v (d + 7), ncount := s.v (d + 8),
    nodes := s.pair (d + 14),
    stack := ((List.range depth).map fun i =>
      { ref := s.v (d + 16 + i), t := s.v (d + 24 + i), leaf := st.getLsbD (8 + i) : RayEntry }).reverse }

/-- D + 9 of a ray block (R362). -/
def rayStatus (r : Ray) (status : Nat) (leaf : Bool) : Word :=
  let ls := (r.stack.reverse.map RayEntry.leaf).zipIdx.map fun (x : Bool × Nat) => if x.1 then 2 ^ (8 + x.2) else 0
  BitVec.ofNat 32 (r.stack.length + ls.sum + 2 ^ 16 * status + (if leaf then 2 ^ 20 else 0))

/-- A step's results written to the ray block (R362, R363). -/
def State.rayWrite (s : State) (d : Nat) (r : Ray) (res : RayResult) : State :=
  let st := r.stack.reverse
  let pad := fun (ws : List Word) => ws ++ List.replicate (8 - ws.length) 0#32
  let s := match res.entry with
    | some e => s.setVs (d + 10) [e.ref, e.t]
    | none => s
  let leaf := match res.entry with
    | some e => e.leaf
    | none => (s.v (d + 9)).getLsbD 20
  ((s.setV (d + 9) (rayStatus r res.status leaf)).setVs (d + 16) (pad (st.map RayEntry.ref))).setVs (d + 24)
    (pad (st.map RayEntry.t))

/-- The step of a word of ray mode; its results, and what `f` writes, are written once it has met no fault (R363). -/
def State.rayEnd (s : State) (d : Nat) (r : Ray) (f : State → State) : Res :=
  (s.rayRun r).then fun s x => .done ((f s).rayWrite d x.1 x.2)

/-- A BVH record within the limits of R220. -/
def bvhOk (bs : List Byte) : Bool :=
  leNat (bs.take 8) % 128 == 0 && decide (leNat (bs.take 8) < 2 ^ 56) && decide (1 ≤ (wordIn bs 8).toNat)
    && decide ((wordIn bs 8).toNat ≤ 2 ^ 31) && (bs.drop 12).all (· == 0#8)

def execIsect (d : BitVec 8) (a : BitVec 7) (s : State) : Outcome State Fault Refusal :=
  s.runWord (.isect d a) (clDemand [vn d + 31, pn a + 1]) fun s =>
    let d := vn d
    let at_ := s.pair (pn a)
    if 2 ^ 56 ≤ at_.toNat then .trap .access at_
    else if at_.toNat % 32 ≠ 0 then .trap .record at_
    else (s.drain.loadVA s.who 2#2 none at_.toNat 32).then fun s bs =>
      if !bvhOk bs then .trap .record at_
      else
        let first : RayEntry := { ref := s.v (d + 10), t := s.v (d + 6), leaf := (s.v (d + 9)).getLsbD 20 }
        let n := wordIn bs 8
        let nodes := BitVec.ofNat 64 (leNat (bs.take 8))
        s.rayEnd d { s.rayBlock d with ncount := n, nodes := nodes, stack := [first] } fun s =>
          ((s.setV (d + 8) n).setPair (d + 12) at_).setPair (d + 14) nodes

/-- Reserved bits of D + 9: 7:4, 19:18 and 31:21 (R362). -/
def rayReserved (x : Word) : Bool := x &&& 0xFFEC00F0#32 != 0#32

def execIsnext (d : BitVec 8) (s : State) : Outcome State Fault Refusal :=
  s.runWord (.isnext d) (clDemand [vn d + 31]) fun s =>
    let d := vn d
    let st := s.v (d + 9)
    if 8 < (bits st 0 4).toNat || rayReserved st then
      .done (s.setV (d + 9) (st &&& ~~~(0x30000#32) ||| 0x10000#32))
    else s.rayEnd d (s.rayBlock d) id

/-! ### Tile coverage -/

/-- An edge: its origin and its vector (R230). -/
structure Edge where
  x : Int
  y : Int
  dx : Int
  dy : Int
  deriving DecidableEq, Repr

def Edge.at (e : Edge) (x y : Int) : Int := e.dx * (y - e.y) - e.dy * (x - e.x)

/-- A value of the edge function counts as inside: positive, or zero on an owning edge (R230). -/
def Edge.inside (e : Edge) (v : Int) : Bool :=
  decide (0 < v) || (v == 0 && (decide (e.dy < 0) || (e.dy == 0 && decide (0 < e.dx))))

/-- The sample of a pixel. -/
def sample (p : Nat) : Int := 256 * p + 128

/-- A mask bit: the subtile of `n` pixels a side at a pixel, tested at the corner that makes each edge largest; with
n = 1, the pixel's sample (R230, R231). -/
def covers (es : List Edge) (n px py : Nat) : Bool :=
  es.all fun (e : Edge) =>
    let x := if 0 < -e.dy then sample (px + n - 1) else sample px
    let y := if 0 < e.dx then sample (py + n - 1) else sample py
    e.inside (e.at x y)

/-- The edges of three vertices (R230). -/
def edgesOf (vs : List (Int × Int)) : List Edge :=
  let v := fun i => vs.getD (i % 3) (0, 0)
  (List.range 3).map fun i =>
    { x := (v i).1, y := (v i).2, dx := (v (i + 1)).1 - (v i).1, dy := (v (i + 1)).2 - (v i).2 }

/-- The mask of a tile (R230, R231). -/
def tileMask (es : List Edge) (w px py : Nat) : Nat :=
  let side := if w = 4 then 4 else 8
  ((List.range (side * side)).map fun b =>
    if covers es (w / side) (px + w / side * (b % side)) (py + w / side * (b / side)) then 2 ^ b else 0).sum

/-- An integer as an exact value. -/
def FVal.ofInt (x : Int) : FVal := .fin (decide (x < 0)) x.natAbs 0

/-- The value of the plane through three vertices at a point, exact up to one rounding (R232): Z0 (A − p − q) + Z1 p +
Z2 q over the area A, with p and q the edge functions opposite vertices 1 and 2. -/
def planeAt (vs : List (Int × Int)) (zs : List FVal) (area x y : Int) : Word :=
  let es := edgesOf vs
  let e := fun i => (es.getD i ⟨0, 0, 0, 0⟩).at x y
  let z := fun i => zs.getD i .nan
  let num := FVal.sum [(z 2).mul (FVal.ofInt (e 0)), (z 0).mul (FVal.ofInt (e 1)), (z 1).mul (FVal.ofInt (e 2))]
  BitVec.ofNat 32 (f32.pack .rd false (num.div (FVal.ofInt area)))

/-- The least of some encodings by value. -/
def leastF : List Word → Word
  | [] => 0#32
  | [x] => x
  | x :: xs => minF x (leastF xs)

/-- ZN of a tile (R232). -/
def tileDepth (vs : List (Int × Int)) (zs : List Word) (area : Int) (w px py mask : Nat) : Word :=
  if mask = 0 then 0x7F800000#32
  else if zs.any fun z => (fval z).isNan then 0xFF800000#32
  else if zs.any fun z => (fval z).isInf then leastF zs
  else
    let corner := fun x y => planeAt vs (zs.map fval) area (sample x) (sample y)
    maxF (leastF zs)
      (leastF [corner px py, corner (px + w - 1) py, corner px (py + w - 1), corner (px + w - 1) (py + w - 1)])

def execTcov (d : BitVec 8) (s : State) : Outcome State Fault Refusal :=
  s.runWord (.tcov d) (clDemand [vn d + 13]) fun s =>
    let d := vn d
    let c := fun i => (s.v (d + i)).toInt
    let w := (s.v (d + 10)).toNat
    let px := (bits (s.v (d + 9)) 0 16).toNat
    let py := (bits (s.v (d + 9)) 16 16).toNat
    if (List.range 6).any (fun i => decide (c i < -(2 ^ 23)) || decide (2 ^ 23 ≤ c i)) || !(w == 4 || w == 32 || w == 256)
        || px % w != 0 || py % w != 0 || decide (32768 ≤ px) || decide (32768 ≤ py) then .trap .engArg 0#64
    else
      let a := (c 2 - c 0) * (c 5 - c 1) - (c 3 - c 1) * (c 4 - c 0)
      let flip := decide (a < 0)
      let vs := if flip then [(c 0, c 1), (c 4, c 5), (c 2, c 3)] else [(c 0, c 1), (c 2, c 3), (c 4, c 5)]
      let z := fun i => s.v (d + 6 + i)
      let zs := if flip then [z 0, z 2, z 1] else [z 0, z 1, z 2]
      let mask := if a = 0 then 0 else tileMask (edgesOf vs) w px py
      let owner := if w = 256 then px / 256 % 2 + 2 * (py / 256 % 2) else 0
      .done (s.setVs (d + 10) [BitVec.ofNat 32 mask, BitVec.ofNat 32 (mask / 2 ^ 32),
        tileDepth vs zs (if flip then -a else a) w px py mask,
        BitVec.ofNat 32 ((if flip then 1 else 0) + (if mask = 0 then 2 else 0) + 4 * owner)])

end Sys2Proof.Machine
end

