-- ==== Sys2Proof/Machine/System.lean ====
section
/-! DEFINITION. System registers, TRAP, ERET and BRK, the keeper instructions, hint words and words that are no
instruction (R178 to R180, R271, R274, R275, R365 to R375). -/

namespace Sys2Proof.Machine

open Host (Outcome)

/-! ### System registers -/

/-- What the thread may do with a register of the table (R366). -/
def accessOf (r : SysReg) : AgentKind → SysAccess
  | .team => r.lane
  | .tad => r.tad
  | .keeper => r.keeper

/-- What the thread may do with a register number; none is not in the table (R366). -/
def State.sysAccess (s : State) (n : BitVec 12) : SysAccess := ((sysReg n).map fun r => accessOf r s.kind).getD .refused

/-- Whether a register has 64 bits (R366). -/
def sysWide (n : BitVec 12) : Bool := ((sysReg n).map SysReg.wide).getD false

/-- Lane's place in its team, x fastest (R366). -/
def lanePos (l : Launch) (lane : Nat) : Nat :=
  lane % l.record.teamX + 2 ^ 10 * (lane / l.record.teamX % l.record.teamY)
    + 2 ^ 20 * (lane / (l.record.teamX * l.record.teamY))

/-- The context a keeper thread runs in. -/
def State.myContext (s : State) : Option KeeperCtx :=
  match s.cur with
  | .keeper c n => (s.core c).contexts.find? n
  | _ => none

/-- The records a context may take now (R180, R372): a routine's delivered ones, at most 64 at a time; the firmware's
are those of the event queue. -/
def State.available (s : State) : List EventRec :=
  match s.myContext with
  | some x => if x.launch.isNone then (s.core s.coreNo).eq else x.records.take 64
  | none => []

/-- The 32-bit value of a register of the table for a thread that may read it (R366). -/
def State.sysWord (s : State) (n : Nat) : Word :=
  let t := s.myTeam
  let ofTeam := fun (f : Team → Nat) => BitVec.ofNat 32 ((t.map f).getD 0)
  match n with
  | 0x000 => BitVec.ofNat 32 s.laneId
  | 0x001 => match s.cur with
    | .tad _ slot _ => BitVec.ofNat 32 slot
    | _ => BitVec.ofNat 32 (s.laneId / 8)
  | 0x002 => BitVec.ofNat 32 ((s.myLaunch.map fun l => lanePos l s.laneId).getD 0)
  | 0x003 => ofTeam Team.x
  | 0x004 => ofTeam Team.y
  | 0x005 => ofTeam Team.z
  | 0x006 => ofTeam fun t => t.ci + ((s.myLaunch.map fun l => l.record.clusX).getD 0) * t.cj
  | 0x007 => BitVec.ofNat 32 (s.home.1 % 64)
  | 0x008 => match s.myLaunchNo with
    | some l => BitVec.ofNat 32 ((s.core s.coreNo).tagOf l)
    | none => 0#32
  | 0x009 => BitVec.ofNat 32 (s.coreNo % 160)
  | 0x00A => BitVec.ofNat 32 (dieOfCore s.coreNo)
  | 0x00B => if s.kind = .tad then 8#32 else ofTeam Team.nlanes
  | 0x020 => s.ag.trapCause
  | 0x023 => (if s.ag.handler then 2#32 else 0#32) ||| (if s.ftz then 1#32 else 0#32)
  | 0x030 => BitVec.ofNat 32 ((s.myLaunch.map fun l => l.record.dtlen).getD 0)
  | 0x040 => (s.core s.coreNo).eseqCe
  | 0x041 => (s.core s.coreNo).eseqMe
  | 0x042 => s.ag.eseqLast
  | 0x050 => BitVec.ofNat 32 s.available.length
  | _ => 0#32

/-- The value of a 64-bit register of the table (R366). -/
def State.sysPair (s : State) (n : Nat) : DWord :=
  match n with
  | 0x010 => BitVec.ofNat 64 s.cclk
  | 0x021 => s.ag.trapPc
  | 0x022 => s.ag.trapAddr
  | 0x031 => BitVec.ofNat 64 ((s.myLaunch.map fun l => l.record.dtab).getD 0)
  | 0x032 => s.ag.link
  | _ => 0#64

/-- The observation a read of ESEQ.CE or ESEQ.ME makes: pts takes the largest ets of the completions it counts (R76,
R244). -/
def State.sysObserve (s : State) (n : Nat) : State :=
  match n with
  | 0x040 => s.raisePts s.coreNo (s.core s.coreNo).ceTs
  | 0x041 => s.raisePts s.coreNo (s.core s.coreNo).meTs
  | _ => s

/-- Reads as zero in this kind of thread (R366). -/
def State.sysZero (s : State) (n : BitVec 12) : Bool := s.sysAccess n == .zero

def execMfs (d : BitVec 8) (n : BitVec 12) (s : State) : Outcome State Fault Refusal :=
  s.runWord (.mfs d n)
    { regs := regsUpTo [if sysWide n then vn d + 1 else vn d], ok := s.sysAccess n != .refused } fun s =>
    let s' := s.sysObserve n.toNat
    .done (if sysWide n then s'.setPair (vn d) (if s.sysZero n then 0#64 else s.sysPair n.toNat)
      else s'.setV (vn d) (if s.sysZero n then 0#32 else s.sysWord n.toNat))

def execMts (d : BitVec 8) (n : BitVec 12) (s : State) : Outcome State Fault Refusal :=
  s.runWord (.mts d n) { regs := regsUpTo [vn d + 1], ok := s.sysAccess n == .rw } fun s =>
    let x := codeAddr (s.pair (vn d))
    .done (s.modAg fun a => if n = 0x021#12 then { a with trapPc := x } else { a with link := x })

/-! ### Traps and stops -/

def execTrap (n : BitVec 8) (s : State) : Outcome State Fault Refusal :=
  s.runWord (.trap n) {} fun s => .trap .swTrap (n ++ bits (s.ag.pc + 4#64) 0 56)

def execEret (s : State) : Outcome State Fault Refusal :=
  s.runWord .eret { tad := false, keeper := false } fun s =>
    if s.ag.handler then .placed s.returnTrap else .trap .illegal ((encode .eret).setWidth 64)

def execBrk (s : State) : Outcome State Fault Refusal :=
  s.runWord .brk { tad := false, keeper := false } fun s =>
    .done (s.holdTeam.stopRecord 2 0#32 s.ag.pc)

/-! ### The keeper core -/

/-- The 16 bytes of an event record (R179). -/
def EventRec.bytes (r : EventRec) : List Byte :=
  leBytes 1 r.kind ++ leBytes 1 r.ltag ++ leBytes 2 (r.slot % 64 * 2 ^ 10 + r.lane.getD 0)
    ++ leBytes 2 (r.src * 2 ^ 12 + (if r.lane.isSome then 2 ^ 11 else 0) + (if r.bar.isSome then 2 ^ 10 else 0) + r.bar.getD 0)
    ++ leBytes 2 r.status.toNat ++ leBytes 8 (r.addr.toNat % 2 ^ 56)

/-- The oldest record a context may take written to four registers (R372). -/
def State.showRecord (s : State) (d : Nat) (p : BitVec 3) (r : EventRec) : State :=
  (s.setVs d (regWords 4 (leNat r.bytes))).setP p true

/-- The oldest record taken out of the context's view (R372). -/
def State.dropRecord (s : State) : State :=
  match s.cur with
  | .keeper c n => match (s.core c).contexts.find? n with
    | some x =>
      if x.launch.isNone then s.modCore c fun k => { k with eq := k.eq.drop 1 }
      else s.modCore c fun k => { k with contexts := k.contexts.put n { x with records := x.records.drop 1 } }
    | none => s
  | _ => s

/-- A word of the keeper core alone (R365). -/
def State.keeperWord (s : State) (i : Instr) (regs : Nat) (body : State → Res) : Outcome State Fault Refusal :=
  s.runWord i { regs := regs, team := false, tad := false } body

def execEvpop (d : BitVec 6) (p : BitVec 3) (s : State) : Outcome State Fault Refusal :=
  s.keeperWord (.evpop d p) (regsUpTo [qn d + 3]) fun s =>
    match s.available with
    | [] => .done (s.setP p false)
    | r :: _ => .done ((s.showRecord (qn d) p r).dropRecord)

def execEvpeek (d : BitVec 6) (p : BitVec 3) (s : State) : Outcome State Fault Refusal :=
  s.keeperWord (.evpeek d p) (regsUpTo [qn d + 3]) fun s =>
    match s.available with
    | [] => .done (s.setP p false)
    | r :: _ => .done (s.showRecord (qn d) p r)

/-- A held team released (R176): lanes stopped by a trap end as by EXIT, every other goes on. -/
def State.releaseTeam (s : State) (c slot : Nat) : State :=
  match s.team c slot with
  | none => s
  | some t =>
    let s := s.setTeam c slot { t with held := false }
    t.lanes.foldl (fun s (e : Nat × Agent) => if e.2.status == .stopped then s.endLane c slot e.1 else s) s

/-- A team ended by TKILL or QCTL.KILL, wherever it stands (R126, R374). -/
def State.killTeam (s : State) (c slot : Nat) : State :=
  let s := s.modTeam c slot fun t =>
    { t with phase := if t.phase == .staging then .running else t.phase, claims := [], stage := none }
  (s.endTeam c slot).retireTeam c slot

/-- A team the context reaches, not ended (R374). -/
def State.reachTeam (s : State) (slot : Nat) : Option Team :=
  match s.team s.coreNo slot with
  | some t =>
    if t.phase != .retired && (s.myLaunchNo.isNone || s.myLaunchNo == some t.launch) then some t else none
  | none => none

/-- The team slot a register names (R374), by its key: where a stopped team has given its slot number to another (R152),
the one the context reaches. -/
def State.slotIn (s : State) (a : BitVec 8) : Nat :=
  let n := (bits (s.v (vn a)) 0 6).toNat
  (((s.core s.coreNo).teams.map Prod.fst).find? fun k => k % 64 == n && (s.reachTeam k).isSome).getD n

def execTrel (a : BitVec 8) (p : BitVec 3) (s : State) : Outcome State Fault Refusal :=
  s.keeperWord (.trel a p) (regsUpTo [vn a]) fun s =>
    match s.reachTeam (s.slotIn a) with
    | some t =>
      if t.held then .done ((s.releaseTeam s.coreNo (s.slotIn a)).setP p true) else .done (s.setP p false)
    | none => .done (s.setP p false)

def execTkill (a : BitVec 8) (p : BitVec 3) (s : State) : Outcome State Fault Refusal :=
  s.keeperWord (.tkill a p) (regsUpTo [vn a]) fun s =>
    match s.reachTeam (s.slotIn a) with
    | some _ => .done ((s.killTeam s.coreNo (s.slotIn a)).setP p true)
    | none => .done (s.setP p false)

def execIdle (s : State) : Outcome State Fault Refusal :=
  s.keeperWord .idle 0 fun s => if s.available.isEmpty then .park s .idle else .done s

/-! ### Hint words -/

/-- A hint word executed: it enters the pending set and has no other effect (R275). -/
def State.addHint (s : State) (f : Hints → Hints) : Outcome State Fault Refusal :=
  match s.cur with
  | .none => .fault .noAgent
  | _ => .next (s.modAg fun a => { a with
      pc := a.pc + 4#64, hints := f { a.hints with first := some (a.hints.first.getD a.pc) } })

def execHintImm20 (i : BitVec 21) (s : State) : Outcome State Fault Refusal :=
  s.addHint fun h => { h with imm20 := some i, twice := h.twice || h.imm20.isSome }

def execHintGuard (x : BitVec 1) (p : BitVec 3) (s : State) : Outcome State Fault Refusal :=
  s.addHint fun h => { h with guard := some (x ++ p), twice := h.twice || h.guard.isSome }

def execHintC4 (c : BitVec 8) (s : State) : Outcome State Fault Refusal :=
  s.addHint fun h => { h with c4 := some c, twice := h.twice || h.c4.isSome }

def execHintCache (k : BitVec 2) (s : State) : Outcome State Fault Refusal :=
  s.addHint fun h => { h with cache := some k, twice := h.twice || h.cache.isSome, malformed := h.malformed || k == 3#2 }

def execHintScope (sc : BitVec 2) (s : State) : Outcome State Fault Refusal :=
  s.addHint fun h => { h with scope := some sc, twice := h.twice || h.scope.isSome }

def execHintDxbd (d : BitVec 4) (s : State) : Outcome State Fault Refusal :=
  s.addHint fun h => { h with dxbd := some d, twice := h.twice || h.dxbd.isSome, malformed := h.malformed || d == 0#4 }

def execMalformedHint (_w : Word) (s : State) : Outcome State Fault Refusal :=
  s.addHint fun h => { h with malformed := true }

/-- A word that is no instruction raises ILLEGAL (R271, R273). -/
def execWordLevelIllegal (w : Word) (s : State) : Outcome State Fault Refusal :=
  s.runWord (.wordLevelIllegal w) { ok := false } fun s => .done s

end Sys2Proof.Machine
end

