-- ==== Sys2Proof/Machine/Launches.lean ====
section
/-! DEFINITION. Launches after they are taken: their units, their stop and their completion (R132, R133, R141). -/

namespace Sys2Proof.Machine

open Host (Outcome)

/-! ### Units -/

/-- A launch is handed out by clusters (R141). -/
def LaunchRec.clustered (r : LaunchRec) : Bool := decide (1 < r.clusX * r.clusY)

/-- The units of a launch: its teams, or its clusters (R141). -/
def LaunchRec.units (r : LaunchRec) : Nat :=
  if r.clustered then r.gridX / r.clusX * (r.gridY / r.clusY) * r.gridZ else r.gridX * r.gridY * r.gridZ

/-- A team of a unit: its place in the cluster and its grid coordinates (R141). -/
structure Place where
  i : Nat
  j : Nat
  x : Nat
  y : Nat
  z : Nat
  deriving DecidableEq, Repr

/-- The teams of a unit (R141). -/
def LaunchRec.unitTeams (r : LaunchRec) (n : Nat) : List Place :=
  if r.clustered then
    let ncx := r.gridX / r.clusX
    let ncy := r.gridY / r.clusY
    (List.range r.clusY).flatMap fun j => (List.range r.clusX).map fun i =>
      { i := i, j := j, x := n % ncx * r.clusX + i, y := n / ncx % ncy * r.clusY + j, z := n / (ncx * ncy) }
  else [{ i := 0, j := 0, x := n % r.gridX, y := n / r.gridX % r.gridY, z := n / (r.gridX * r.gridY) }]

/-- The linear number of a team (R127). -/
def LaunchRec.teamNumber (r : LaunchRec) (p : Place) : Nat := p.x + r.gridX * (p.y + r.gridY * p.z)

/-- Lanes of a team (R143). -/
def LaunchRec.lanes (r : LaunchRec) : Nat := r.teamX * r.teamY * r.teamZ

/-! ### Stopping launches -/

/-- A fault record of a launch that names no core (R136, R137). -/
def launchFault (cause src : Nat) : FaultRec :=
  { cause := cause, src := src, die := 4, core := 0xFFFF, lane := 0xFFFF, team := 0xFFFFFFFF }

/-- The teams of a launch: core and slot. -/
def State.teamsOf (s : State) (n : Nat) : List (Nat × Nat) :=
  s.cores.flatMap fun (c : Nat × Core) => c.2.teams.filterMap fun (t : Nat × Team) =>
    if t.2.launch = n then some (c.1, t.1) else none

/-- A launch has a team that has not ended. -/
def State.resident (s : State) (n : Nat) : Bool :=
  s.cores.any fun (c : Nat × Core) => c.2.teams.any fun (t : Nat × Team) => t.2.launch == n && t.2.phase != .retired

/-- Units of a launch the dies hold and have not placed given up. -/
def State.dropUnits (s : State) (n : Nat) : State :=
  { s with dies := s.dies.map fun (d : Nat × Die) => (d.1, { d.2 with
      held := d.2.held.filter fun (u : HeldUnit) => u.launch ≠ n,
      drain := d.2.drain.filter fun x => x.1 ≠ n }) }

/-- A launch stopped: a record to its sink, no further unit placed, its teams ended (R126). -/
def State.stopLaunch (s : State) (n : Nat) (r : FaultRec) : State :=
  let s := (s.sinkPut n r).modLaunch n fun l => { l with stopped := true }
  let s := s.dropUnits n
  (s.teamsOf n).foldl (fun s t => s.killTeam t.1 t.2) s

/-- Every launch that `f` holds of and that is not stopped, stopped with a record, in the order of taking. -/
def State.stopLaunches (s : State) (f : Nat → Launch → Bool) (r : FaultRec) : State :=
  (s.launches.filter fun (e : Nat × Launch) => f e.1 e.2 && !e.2.stopped).foldl
    (fun s (e : Nat × Launch) => s.stopLaunch e.1 r) s

/-! ### Completion -/

/-- Everything of a launch has ended and been reported (R132). -/
def State.launchOver (s : State) (n : Nat) : Bool :=
  match s.launch n with
  | none => false
  | some l =>
    (l.stopped || decide (l.record.units ≤ l.nextUnit))
      && s.dies.all (fun (d : Nat × Die) => d.2.held.all fun (u : HeldUnit) => u.launch != n)
      && s.cores.all (fun (c : Nat × Core) =>
          c.2.teams.all (fun (t : Nat × Team) => t.2.launch != n) && c.2.ops.all (fun (o : EngineOp) => o.launch != n)
            && c.2.eq.all (fun (r : EventRec) => r.launch != n || r.reported)
            && c.2.eqHeld.all (fun (r : EventRec) => r.launch != n || r.reported))
      && s.wlItems.all (fun (e : Nat × WlItem) => e.2.who.launch != n)
      && s.net.all (fun (e : Nat × NetAccess) => e.2.launch != n || !e.2.out)
      && s.cmd.fqHeld.all (fun x => x.2 != some n)

/-- What a core holds of a launch given up when it completes: its tag, its routine context, its barriers and basins
(R178, R179, R189). -/
def State.leaveCore (s : State) (n core : Nat) : State :=
  let k := s.core core
  let s := (s.dropContexts core (· == some n)).modCore core fun k =>
    { k with tags := k.tags.filter fun (e : Nat × Nat) => e.2 ≠ n }
  let s := k.basins.foldl (fun s (e : Nat × Basin) => if e.2.allocated && e.2.launch == n then s.freeBasin core e.1 else s) s
  k.barriers.foldl (fun s (e : Nat × Barrier) =>
    if (s.barrier core e.1).allocated && e.2.launch == n then s.freeBarrier core e.1 else s) s

/-- The lines that a launch moored last unmoored, their class normal (R68, R69). -/
def State.unmoorLaunch (s : State) (n : Nat) : State :=
  let free := fun (l : L2Line) => if l.moor.any fun m => m.2 == n then { l with moor := none, cls := 1 } else l
  { s with l2 := s.l2.map fun (e : Nat × List L2Line) => (e.1, e.2.map free) }

/-- A physical address in use: a multiple of `n` in the local or the host range (R128). -/
def physOk (a n : Nat) : Bool := a % n == 0 && (paRange a == .local_ || paRange a == .host)

/-- LAUNCH_COMPLETE (R69, R132, R140): the L1s write back, the completion word is stored, or a HOSTLINK record says that
it is lost (R59), the lines the launch moored are unmoored, the launch is gone. -/
def State.completeLaunch (s : State) (n : Nat) : State :=
  match s.launch n with
  | none => s
  | some l =>
    let s := l.cores.foldl (fun s c => (s.writeBackAll c).leaveCore n c) s
    let x := l.record.doneSeq ||| (if l.faulted then 0x8000000000000000#64 else 0#64)
    let a := l.record.doneAddr
    let lost := physOk a 8 && paRange a == .host && s.hostDown
    let written := physOk a 8 && !lost
    let s := if written then s.deviceStoreAt l.endTs a (leBytes 8 x.toNat)
      else if lost then s.sinkPut n { launchFault 7 1 with addr := a } else s
    let s := s.unmoorLaunch n
    let s := { s with launches := s.launches.del n, net := s.net.filter fun (e : Nat × NetAccess) => e.2.launch ≠ n }
    if written && Nat.testBit l.record.flags 2 then s.setInt 2 else s

def execLaunchComplete (launch : Nat) (s : State) : Outcome State Fault Refusal :=
  .next (if s.launchOver launch then s.completeLaunch launch else s)

end Sys2Proof.Machine
end

