-- ==== Sys2Proof/Machine/Scheduler.lean ====
section
/-! DEFINITION. The die schedulers: where a team fits, placement, clusters and drains, pre-emption with lazy save,
staging and the start of teams, the release of slots (R141 to R148, R152 to R156, R182). -/

namespace Sys2Proof.Machine

open Host (Outcome)

/-! ### Where a team fits -/

/-- The berth of a group of a team (R144). -/
def Team.groupBerth (t : Team) (g : Nat) : Nat := (t.berth + g) % 16

/-- A team holds storage: it has not ended (R182). -/
def Team.holds (t : Team) : Bool := t.phase != .retired

/-- The groups of a team on a berth, with their shares (R143). -/
def Team.onBerth (t : Team) (b : Nat) : List (List Nat × Nat) :=
  (t.vrf.zipIdx.filter fun x => t.groupBerth x.2 = b).map Prod.fst

/-- Kilobytes of team memory a team takes (R143). -/
def tmUnits (tmem : Nat) : Nat := (tmem + 1023) / 1024

/-- Storage a team takes on a core (R143, R144), with the victims' regions it claims (R154). -/
structure Alloc where
  slot : Nat
  vrf : List (List Nat × Nat)
  tmBase : Nat
  tiles : List Nat
  claims : List (Nat × Region)
  deriving DecidableEq, Repr

/-- The teams of a core that hold storage, split by whether they are victims. -/
def Core.holders (k : Core) (victims : List Nat) (soft : Bool) : List (Nat × Team) :=
  k.teams.filter fun (e : Nat × Team) => e.2.holds && (victims.contains e.1 == soft)

/-- Numbers below `n` outside `hard`, those outside `soft` first, `want` of them; none where there are too few. -/
def takeFree (n want : Nat) (hard soft : List Nat) : Option (List Nat) :=
  let ok := (List.range n).filter fun i => !hard.contains i
  let picked := ((ok.filter fun i => !soft.contains i) ++ ok.filter fun i => soft.contains i).take want
  if picked.length = want then some picked else none

/-- A run of `want` numbers below `n` outside `hard` that takes in the fewest of `soft`, the lowest one of those (R144,
R154, R183). -/
def takeRun (n want : Nat) (hard soft : List Nat) : Option (List Nat) :=
  let run := fun (b : Nat) => (List.range want).map (b + ·)
  let cost := fun (b : Nat) => ((run b).filter soft.contains).length
  (((List.range (n + 1 - want)).filter fun b => !(run b).any hard.contains).foldl
    (fun (best : Option Nat) b => match best with
      | some x => if cost b < cost x then some b else some x
      | none => some b) none).map run

/-- Shares of the VRF for groups from `g` on, those taken so far with their berths; a share is contiguous (R183). -/
def Core.allocVrf (k : Core) (victims : List Nat) (berth blocks : Nat) :
    Nat → Nat → List (Nat × List Nat × Nat) → Option (List (List Nat × Nat))
  | 0, _, done => some (done.map Prod.snd)
  | n + 1, g, done =>
    let b := (berth + g) % 16
    let used := fun (soft : Bool) => (k.holders victims soft).flatMap fun (e : Nat × Team) => e.2.onBerth b
    let mine := (done.filter fun x => x.1 = b).map Prod.snd
    let hard := used false ++ mine
    match takeRun 256 blocks (hard.flatMap Prod.fst) ((used true).flatMap Prod.fst),
        takeFree 32 1 (hard.map Prod.snd) ((used true).map Prod.snd) with
    | some cs, some [p] => k.allocVrf victims berth blocks n (g + 1) (done ++ [(b, cs, p)])
    | _, _ => none

/-- Whether a range of kilobytes meets the team memory of some teams. -/
def meetsTm (ts : List (Nat × Team)) (base n : Nat) : Bool :=
  ts.any fun (e : Nat × Team) =>
    decide (base < e.2.tmBase / 1024 + tmUnits e.2.tmem) && decide (e.2.tmBase / 1024 < base + n)

/-- The kilobytes of team memory some teams hold. -/
def tmHeld (ts : List (Nat × Team)) : List Nat :=
  ts.flatMap fun (e : Nat × Team) => (List.range (tmUnits e.2.tmem)).map (e.2.tmBase / 1024 + ·)

/-- The range of team memory that fits and takes the least of the victims' storage, the lowest of those: free storage is
taken first (R144, R154). -/
def Core.allocTm (k : Core) (victims : List Nat) (n : Nat) : Option Nat :=
  (takeRun 512 n (tmHeld (k.holders victims false)) (tmHeld (k.holders victims true))).map fun r => r.headD 0

/-- The regions of a victim some storage meets and that are not yet saved (R154). -/
def Team.claimed (v : Team) (vslot berth : Nat) (a : Alloc) (tm : Nat) : List (Nat × Region) :=
  let tmemR := if meetsTm [(vslot, v)] (a.tmBase / 1024) tm then [Region.tmem] else []
  let acsR := if a.tiles.any v.tiles.contains then [Region.acs] else []
  let vrfR := ((List.range 16).filter fun b =>
    let mine := (a.vrf.zipIdx.filter fun x => (berth + x.2) % 16 = b).map Prod.fst
    (v.onBerth b).any fun x => mine.any fun y => x.2 == y.2 || x.1.any y.1.contains).map Region.vrf
  ((tmemR ++ acsR ++ vrfR).filter fun r => !v.saved.contains r).map fun r => (vslot, r)

/-- The key of a team slot that a team may take: the lowest number no team has, else the lowest one all of whose teams are
victims, which keep their own keys (R143, R152). -/
def Core.slotFor (k : Core) (victims : List Nat) : Option Nat :=
  let key := fun (i : Nat) => ((List.range 64).map (i + 64 * ·)).find? fun n => (k.teams.find? n).isNone
  let takes := fun (i : Nat) => k.teams.filter fun (e : Nat × Team) => e.1 % 64 == i
  match (List.range 64).find? fun i => (takes i).isEmpty with
  | some i => some i
  | none => ((List.range 64).find? fun i => (takes i).all fun (e : Nat × Team) => victims.contains e.1).bind key

/-- A launch has a tag on the core, or one is free (R143, R179). -/
def Core.tagFits (k : Core) (launch : Nat) : Bool :=
  k.tags.any (fun (e : Nat × Nat) => e.2 == launch) || decide (k.tags.length < 256)

/-- The storage a team of a launch takes on a core, its victims' storage taken as removed; none where it does not fit
(R143, R144, R152). -/
def Core.fit (k : Core) (launch : Nat) (r : LaunchRec) (victims : List Nat) : Option Alloc :=
  let g := (r.lanes + 7) / 8
  let tm := tmUnits r.tmem
  let tilesOf := fun (soft : Bool) => (k.holders victims soft).flatMap fun (e : Nat × Team) => e.2.tiles
  if !k.started || !k.tagFits launch then none
  else match k.slotFor victims, k.allocVrf victims k.startBerth r.regs8 g 0 [], k.allocTm victims tm,
      takeFree 64 ((g + 7) / 8) (tilesOf false) (tilesOf true) with
    | some slot, some vrf, some tmBase, some tiles =>
      let a : Alloc := { slot := slot, vrf := vrf, tmBase := 1024 * tmBase, tiles := tiles, claims := [] }
      let claims := (k.holders victims true).flatMap fun (e : Nat × Team) => e.2.claimed e.1 k.startBerth a tm
      some { a with claims := claims }
    | _, _, _, _ => none

/-! ### Victims -/

/-- The priority of a team's launch. -/
def State.prioOf (s : State) (t : Team) : Nat := ((s.launch t.launch).map Launch.prio).getD 0

/-- Whether a victim goes before another: lower priority, then later start (R152). -/
def victimBefore (a b : Nat × Nat × Nat) : Bool := decide (a.2.1 < b.2.1) || (a.2.1 == b.2.1 && decide (b.2.2 < a.2.2))

def insertVictim (x : Nat × Nat × Nat) : List (Nat × Nat × Nat) → List (Nat × Nat × Nat)
  | [] => [x]
  | y :: ys => if victimBefore x y then x :: y :: ys else y :: insertVictim x ys

/-- Teams of a core that may be victims of a priority, in the order they are chosen (R152): their slots. -/
def State.victims (s : State) (core p : Nat) : List Nat :=
  (((s.core core).teams.filterMap fun (e : Nat × Team) =>
    if e.2.holds && decide (s.prioOf e.2 < p) then some (e.1, s.prioOf e.2, e.2.startTime) else none).foldr
      insertVictim []).map Prod.fst

/-- The fewest victims with which a unit's team fits on a core, with the storage it then takes (R152). -/
def State.fitWith (s : State) (core n : Nat) (l : Launch) : Option (List Nat × Alloc) :=
  let vs := s.victims core l.prio
  (List.range (vs.length + 1)).findSome? fun i =>
    ((s.core core).fit n l.record (vs.take i)).map fun a => (vs.take i, a)

/-- A core holds a stopped team of a priority at least `p`: no unit of `p` is placed on it (R156). -/
def State.closedTo (s : State) (core p : Nat) : Bool :=
  (s.core core).teams.any fun (e : Nat × Team) => e.2.holds && e.2.preempted && decide (p ≤ s.prioOf e.2)

/-! ### Search -/

/-- The cores of a die in the order they are tried (R145): from the one after the last, awake rows first. -/
def State.searchOrder (s : State) (die : Nat) : List Nat :=
  let last := (NMap.get {} s.dies die : Die).lastCore
  let all := (List.range 160).map fun i => die * 160 + (last + 1 + i) % 160
  all.filter (fun c => !(s.core c).deepIdle) ++ all.filter fun c => (s.core c).deepIdle

/-- The cores of a cluster's rectangle with their places, none where it does not lie on the die (R146). -/
def rectangle (r : LaunchRec) (origin : Nat) : Option (List (Nat × Nat × Nat)) :=
  let c := origin % 160
  if !r.clustered then some [(origin, 0, 0)]
  else if 16 < c % 16 + r.clusX || 10 < c / 16 + r.clusY then none
  else some ((List.range r.clusY).flatMap fun j => (List.range r.clusX).map fun i => (origin + 16 * j + i, i, j))

/-- A unit's fit at an origin core: each core with its place, its victims and its storage. `pre` says that victims may
be taken. -/
def State.fitAt (s : State) (n : Nat) (l : Launch) (pre : Bool) (closed : Nat → Bool) (origin : Nat) :
    Option (List ((Nat × Nat × Nat) × List Nat × Alloc)) :=
  (rectangle l.record origin).bind fun cs =>
    cs.mapM fun x =>
      if closed x.1 || s.closedTo x.1 l.prio then none
      else (if pre then s.fitWith x.1 n l else ((s.core x.1).fit n l.record []).map fun a => ([], a)).map fun f => (x, f)

/-! ### Placement -/

/-- The team of a place of a unit, its storage reserved (R144, R148). -/
def newTeam (s : State) (n : Nat) (l : Launch) (p : Place) (origin : Nat) (a : Alloc) (berth : Nat) : Team :=
  { launch := n, number := l.record.teamNumber p, x := p.x, y := p.y, z := p.z, ci := p.i, cj := p.j, origin := origin,
    nlanes := l.record.lanes, regs := 8 * l.record.regs8, tmem := l.record.tmem, ftz := Nat.testBit l.record.flags 1,
    berth := berth, vrf := a.vrf, tmBase := a.tmBase, tiles := a.tiles, claims := a.claims, startTime := s.cclk }

/-- The lowest free tag of a core given to a launch that holds none (R179), and its routine context (R178). -/
def Core.takeUnit (k : Core) (n : Nat) (r : LaunchRec) : Core :=
  if k.tags.any fun (e : Nat × Nat) => e.2 == n then k
  else
    let tag := ((List.range 256).find? fun i => (k.tags.find? i).isNone).getD 0
    let k := { k with tags := k.tags.put tag n }
    if r.keeper = 0 then k
    else match (List.range 16).find? fun i => (k.contexts.find? (i + 1)).isNone with
      | some i => { k with contexts := k.contexts.put (i + 1) { launch := some n, ag := { pc := BitVec.ofNat 64 r.keeper } } }
      | none => k

/-- Victims of a core stopped, with every team of a cluster victim's cluster (R152, R153). -/
def State.preempt (s : State) (core slot : Nat) : State :=
  match s.team core slot with
  | none => s
  | some t =>
    let all := if ((s.launch t.launch).map fun l => l.record.clustered).getD false then
        (s.clusterOf t).map fun x => (x.1, x.2.1) else [(core, slot)]
    all.foldl (fun s x => s.modTeam x.1 x.2 fun t => if t.holds then { t with preempted := true } else t) s

/-- One team of a unit placed on its core. -/
def State.placeTeam (s : State) (n : Nat) (l : Launch) (p : Place) (origin : Nat)
    (x : (Nat × Nat × Nat) × List Nat × Alloc) : State :=
  let core := x.1.1
  let a := x.2.2
  let s := x.2.1.foldl (fun s v => s.preempt core v) s
  let s := if (s.core core).deepIdle then s.later [.event (.rowWake (dieOfCore core) (core % 160 / 16))] else s
  let berth := (s.core core).startBerth
  let t := newTeam s n l p origin a berth
  let s := s.modCore core fun k =>
    { k.takeUnit n l.record with startBerth := (berth + t.groups) % 16, lastHeld := s.cclk }
  let s := s.setTeam core a.slot t
  let s := s.modLaunch n fun l => { l with cores := if l.cores.contains core then l.cores else core :: l.cores }
  let s := s.later (a.claims.map fun v => .event (.regionClaim core v.1))
  s.later [.event (.teamStart core a.slot)]

/-- A unit placed at an origin (R145, R146). -/
def State.placeUnit (s : State) (die : Nat) (u : HeldUnit) (l : Launch) (origin : Nat)
    (xs : List ((Nat × Nat × Nat) × List Nat × Alloc)) : State :=
  let ps := l.record.unitTeams u.unit
  let s := xs.foldl (fun s x =>
    match ps.find? fun (p : Place) => p.i = x.1.2.1 && p.j = x.1.2.2 with
    | some p => s.placeTeam u.launch l p origin x
    | none => s) s
  let d : Die := NMap.get {} s.dies die
  { s with dies := s.dies.put die { d with
      lastCore := origin % 160,
      held := d.held.filter fun (h : HeldUnit) => h ≠ u,
      drain := d.drain.filter fun x => !(x.1 = u.launch && x.2.1 = u.unit) } }

/-- Whether a drain of the die closes a core to a unit (R147): a unit of higher priority may pre-empt there. -/
def State.drained (s : State) (d : Die) (u : HeldUnit) (l : Launch) (pre : Bool) (core : Nat) : Bool :=
  match d.drain with
  | none => false
  | some (dl, du, cores) =>
    cores.contains core && !(dl = u.launch && du = u.unit) &&
      !(pre && decide (((s.launch dl).map Launch.prio).getD 0 < l.prio))

/-- The origins at which a die looks for a place for a unit: every one in its order, for the cluster of its drain that of
the drain's target alone (R145, R147). -/
def State.origins (s : State) (die : Nat) (u : HeldUnit) (l : Launch) : List Nat :=
  match (NMap.get {} s.dies die : Die).drain with
  | some (n, i, cores) =>
    if n = u.launch && i = u.unit then
      (s.searchOrder die).filter fun o => (rectangle l.record o).any fun cs => cs.map Prod.fst == cores
    else s.searchOrder die
  | none => s.searchOrder die

/-- A unit's place at the first origin where it fits. -/
def State.findPlace (s : State) (die : Nat) (u : HeldUnit) (l : Launch) (pre : Bool) :
    Option (Nat × List ((Nat × Nat × Nat) × List Nat × Alloc)) :=
  let d : Die := NMap.get {} s.dies die
  (s.origins die u l).findSome? fun o =>
    (s.fitAt u.launch l pre (s.drained d u l pre) o).map fun xs => (o, xs)

/-- The order of a die's held units: priority, then the time of taking (R142). -/
def State.unitBefore (s : State) (a b : HeldUnit) : Bool :=
  match s.launch a.launch, s.launch b.launch with
  | some x, some y => decide (y.prio < x.prio) || (x.prio == y.prio && decide (x.order < y.order))
  | _, _ => false

def State.insertUnit (s : State) (x : HeldUnit) : List HeldUnit → List HeldUnit
  | [] => [x]
  | y :: ys => if s.unitBefore x y then x :: y :: ys else y :: s.insertUnit x ys

/-- A die takes a unit it has a place for, where none has one a unit it can pre-empt for, where none can any unit (R141,
R152; log entry 14). -/
def State.takesUnit (s : State) (die : Nat) (u : HeldUnit) (l : Launch) : Bool :=
  let place := fun (d : Nat) (pre : Bool) => (s.findPlace d u l pre).isSome
  let dies := List.range 4
  place die false || !dies.any (place · false) && (place die true || !dies.any (place · true))

/-- The next unit of every launch that the die holds none of, taken where the die takes it (R141). -/
def State.takeUnits (s : State) (die : Nat) : State :=
  s.launches.foldl (fun s (e : Nat × Launch) =>
    let d : Die := NMap.get {} s.dies die
    match s.launch e.1 with
    | some l =>
      if l.stopped || l.record.units ≤ l.nextUnit || d.held.any fun (u : HeldUnit) => u.launch = e.1 then s
      else
        let u : HeldUnit := { launch := e.1, unit := l.nextUnit, since := s.cclk }
        if s.takesUnit die u l then
          let s := s.modLaunch e.1 fun l => { l with nextUnit := l.nextUnit + 1 }
          { s with dies := s.dies.put die { d with held := d.held ++ [u] } }
        else s
    | none => s) s

/-- The first unit in order that has a place, with it: without victims where it fits so, otherwise by pre-emption (R142,
R152). -/
def State.firstFit (s : State) (die : Nat) :
    List HeldUnit → Option (HeldUnit × Launch × Nat × List ((Nat × Nat × Nat) × List Nat × Alloc))
  | [] => none
  | u :: us =>
    match s.launch u.launch with
    | none => s.firstFit die us
    | some l =>
      match s.findPlace die u l false with
      | some x => some (u, l, x)
      | none => match s.findPlace die u l true with
        | some x => some (u, l, x)
        | none => s.firstFit die us

/-- DIE_SCHED_CYCLE (R142). -/
def execDieSchedCycle (die : Nat) (s : State) : Outcome State Fault Refusal :=
  let s := s.takeUnits die
  let order := (NMap.get {} s.dies die : Die).held.foldr s.insertUnit []
  let waited := (NMap.get {} s.dies die : Die).drain.isNone && order.any fun (u : HeldUnit) =>
    decide (u.since + 2 ^ 20 ≤ s.cclk) && ((s.launch u.launch).map fun l => l.record.clustered).getD false
  let t := match s.firstFit die order with
    | some (u, l, o, xs) => s.placeUnit die u l o xs
    | none => s
  .next (if waited then t.later [.event (.drainStart die)] else t)

/-- A unit put among others by how long it has waited, the longest first. -/
def insertWaiting (u : HeldUnit) : List HeldUnit → List HeldUnit
  | [] => [u]
  | x :: xs => if u.since ≤ x.since then u :: x :: xs else x :: insertWaiting u xs

/-- The cores of the first rectangle for a cluster that holds no team of a higher priority (R147). -/
def State.drainTarget (s : State) (die : Nat) (u : HeldUnit) : Option (List Nat) :=
  (s.launch u.launch).bind fun l =>
    let free := fun (c : Nat) => (s.core c).teams.all fun (e : Nat × Team) => !e.2.holds || decide (s.prioOf e.2 ≤ l.prio)
    (s.searchOrder die).findSome? fun o =>
      (rectangle l.record o).bind fun cs => if cs.all fun x => free x.1 then some (cs.map Prod.fst) else none

/-- DRAIN_START (R147): of the clusters that have waited 2^20 CCLK, the one that has waited longest and has a rectangle
that holds no team of a higher priority takes the first such rectangle. -/
def execDrainStart (die : Nat) (s : State) : Outcome State Fault Refusal :=
  let d : Die := NMap.get {} s.dies die
  let waiting := d.held.filter fun (u : HeldUnit) => decide (u.since + 2 ^ 20 ≤ s.cclk)
    && ((s.launch u.launch).map fun l => l.record.clustered).getD false
  .next (if d.drain.isSome then s
    else match (waiting.foldr insertWaiting []).findSome? fun u => (s.drainTarget die u).map fun cs => (u, cs) with
      | some (u, cores) => { s with dies := s.dies.put die { d with drain := some (u.launch, u.unit, cores) } }
      | none => s)

/-! ### Lazy save -/

/-- The slot of a core and a priority in the save region of its die (R155). -/
def saveSlot (core prio : Nat) : Nat :=
  dieOfCore core * 2 ^ 37 + 0x1F00000000 + (7 * (core % 160) + prio) * 0x300000

/-- A pending operation of a team touches a region of its storage until it completes: an MMA the registers of its
operands' groups (R154, R218). -/
def EngineOp.touches (o : EngineOp) (t : Team) (r : Region) : Bool :=
  match o.kind, r with
  | .mma b _ _, .vrf x =>
    (List.range 8).any fun i => t.groupBerth (b.ga + i) == x || t.groupBerth (b.gb + i) == x
  | .mma _ _ _, .acs => true
  | .acq _, .acs => true
  | .acq _, .tmem => true
  | .bulk _ _ _ _, .tmem => true
  | .tcpy _ _ _, .tmem => true
  | .twb _ _ _, .tmem => true
  | .gath _, .tmem => true
  | .scat _, .tmem => true
  | _, _ => false

/-- The groups of a team on a berth, by number. -/
def Team.groupsOn (t : Team) (b : Nat) : List (Nat × List Nat × Nat) :=
  (t.vrf.zipIdx.filter fun x => t.groupBerth x.2 = b).map fun x => (x.2, x.1)

/-- The bytes of a 256-byte block of a group's share: eight registers of eight lanes. -/
def Team.vrfBlock (t : Team) (g i : Nat) : List Byte :=
  (List.range 8).flatMap fun r => (List.range 8).flatMap fun l =>
    leBytes 4 (((t.lanes.find? (8 * g + l)).map fun a => (a.reg (8 * i + r)).toNat).getD 0)

/-- What the save of a region writes, by physical address (R155); `free` numbers the free values that its group state
takes. -/
def Team.saveWrites (t : Team) (base free : Nat) : Region → List (Nat × List Byte)
  | .tmem => [(base + 0x200000 + t.tmBase, (List.range (1024 * tmUnits t.tmem)).map fun i => NMap.get 0#8 t.tm i)]
  | .acs => t.tiles.zipIdx.map fun x =>
      (base + 0x100000 + 0x4000 * x.1, (List.range 4096).flatMap fun i => leBytes 4 (NMap.get 0#32 t.acs (4096 * x.2 + i)).toNat)
  | .vrf b => (t.groupsOn b).flatMap fun x =>
      (x.2.1.zipIdx.map fun c => (base + 0x10000 * b + 256 * c.1, t.vrfBlock x.1 c.2))
        ++ [(base + 0x280000 + 128 * (32 * b + x.2.2), (List.range 128).map fun i =>
            Config.savedGroup free (128 * (32 * b + x.2.2) + i))]

/-- The lanes of a team whose registers lie on a berth changed. -/
def Team.modBerth (t : Team) (b : Nat) (f : Agent → Agent) : Team :=
  { t with lanes := t.lanes.map fun (e : Nat × Agent) => if t.groupBerth (e.1 / 8) = b then (e.1, f e.2) else e }

/-- A region of a victim saved: its bytes written, the core's pts recorded with the group state (R76, R154). Answers
that reach the saved lanes from then on are kept for the restore (R172). -/
def State.saveRegion (s : State) (core slot : Nat) (r : Region) : State :=
  match s.team core slot with
  | none => s
  | some t =>
    let s := (t.saveWrites (saveSlot core (s.prioOf t)) s.free r).foldl
      (fun (s : State) (w : Nat × List Byte) => s.homeWrite w.1 w.2) s.drawn
    s.modTeam core slot fun t =>
      let t := { t with saved := r :: t.saved }
      match r with
      | .vrf b => { t.modBerth b fun a => { a with away := true } with savedPts := (s.core core).pts }
      | _ => t

/-- The teams that start together with a team: its cluster's, or itself (R146). -/
def State.unitOf (s : State) (core slot : Nat) (t : Team) (l : Launch) : List (Nat × Nat × Team) :=
  if l.record.clustered then s.clusterOf t else [(core, slot, t)]

/-- The teams of a team's unit: core and slot. -/
def State.stagesWith (s : State) (core slot : Nat) : List (Nat × Nat) :=
  match s.team core slot with
  | none => []
  | some t => match s.launch t.launch with
    | none => []
    | some l => (s.unitOf core slot t l).map fun x => (x.1, x.2.1)

/-- An agent's instruction has issued and has not completed: it waits for an earlier access or an answer, or is parted in
the middle (R153, R354). -/
def Agent.inFlight (a : Agent) : Bool := a.pendTrap.isNone && (a.status == .parked .peer || a.status.isMid)

/-- Instructions of a team that have issued and not completed (R153): moves of its lanes, the tests of its bundles, and
lanes whose instruction waits for an answer. -/
def State.underWay (s : State) (core slot : Nat) : Bool :=
  let mine := fun (r : AgentRef) => match r with
    | .lane c t _ => c == core && t == slot
    | _ => false
  (s.agenda.any fun m => match m with
    | .lane r => mine r
    | .together rs => rs.any mine
    | .endBundle c t _ => c == core && t == slot
    | _ => false)
  || (s.team core slot).any fun t => t.lanes.any fun (e : Nat × Agent) => e.2.inFlight

/-- REGION_CLAIM (R154): the claimed regions of a victim that no pending operation of it touches are saved once what its
lanes have issued has completed (R153); a team whose last claim is met goes on to its staging. -/
def execRegionClaim (core slot : Nat) (s : State) : Outcome State Fault Refusal :=
  if s.underWay core slot then .next { s with delayed := s.delayed ++ [.regionClaim core slot] } else
  let k := s.core core
  let wanted := (k.teams.flatMap fun (e : Nat × Team) => e.2.claims.filterMap fun c =>
    if c.1 = slot then some c.2 else none).dedup
  let ready := wanted.filter fun r => k.ops.all fun (o : EngineOp) =>
    !(o.slot == slot && (k.teams.find? slot).any fun t => o.touches t r)
  let s := ready.foldl (fun s r =>
    if ((s.team core slot).map fun t => t.saved.contains r).getD true then s else s.saveRegion core slot r) s
  .next (k.teams.foldl (fun s (e : Nat × Team) =>
    let left := e.2.claims.filter fun c => !(c.1 = slot && ready.contains c.2)
    if left.length = e.2.claims.length then s
    else
      let s := s.modTeam core e.1 fun t => { t with claims := left }
      if left.isEmpty then s.later ((s.stagesWith core e.1).map fun x => .event (.teamStart x.1 x.2)) else s) s)

/-- The regions of a team that some storage of another meets (R154). -/
def Team.meets (a b : Team) : List Region :=
  (if meetsTm [(0, b)] (a.tmBase / 1024) (tmUnits a.tmem) then [.tmem] else [])
    ++ (if a.tiles.any b.tiles.contains then [.acs] else [])
    ++ ((List.range 16).filter fun i => (a.onBerth i).any fun x => (b.onBerth i).any fun y =>
      x.2 == y.2 || x.1.any y.1.contains).map Region.vrf

/-- All of a stopped team's storage is free (R156): no team that runs, and no stopped team that has not saved it, holds
any of it, and no team that is not stopped holds its slot number. -/
def State.storageFree (s : State) (core slot : Nat) : Bool :=
  match s.team core slot with
  | none => false
  | some t => (s.core core).teams.all fun (e : Nat × Team) =>
    e.1 == slot || ((e.2.preempted || e.1 % 64 != slot % 64) &&
      (!e.2.holds || (t.meets e.2).all fun r => e.2.preempted && e.2.saved.contains r))

/-- A saved region restored from the save region (R156). -/
def State.restoreRegion (s : State) (core slot : Nat) (r : Region) : State :=
  match s.team core slot with
  | none => s
  | some t =>
    let base := saveSlot core (s.prioOf t)
    match r with
    | .tmem => s.modTeam core slot fun t =>
        { t with tm := putBytes [] 0 (s.bytesAt (base + 0x200000 + t.tmBase) (1024 * tmUnits t.tmem)) }
    | .acs => s.modTeam core slot fun t => { t with acs := t.tiles.zipIdx.foldl (fun m x =>
        (List.range 4096).foldl (fun (m : NMap Word) i =>
          NMap.set 0#32 m (4096 * x.2 + i) (BitVec.ofNat 32 (s.numAt (base + 0x100000 + 0x4000 * x.1 + 4 * i) 4))) m) [] }
    | .vrf b => (t.groupsOn b).foldl (fun s' x => x.2.1.zipIdx.foldl (fun s' c =>
        (List.range 64).foldl (fun s' i =>
          s'.modAgent (.lane core slot (8 * x.1 + i % 8)) fun a =>
            a.setReg (8 * c.2 + i / 8) (BitVec.ofNat 32 (s.numAt (base + 0x10000 * b + 256 * c.1 + 4 * i) 4))) s') s') s

/-- A lane whose registers are back: what answers have written meanwhile stands (R172). -/
def Agent.back (a : Agent) : Agent :=
  { (a.late.foldl (fun (a : Agent) x => a.setReg x.1 x.2) a) with away := false, late := [] }

/-- A stopped team resumed: its saved regions restored, pts raised, its lanes go on (R76, R156). -/
def State.resumeTeam (s : State) (core slot : Nat) : State :=
  match s.team core slot with
  | none => s
  | some t =>
    let s := t.saved.foldl (fun s r => s.restoreRegion core slot r) s
    let s := s.modTeam core slot fun t => { t with
      preempted := false, saved := [], savedPts := 0#64,
      lanes := t.lanes.map fun (e : Nat × Agent) => (e.1, { e.2.back with wait := 0, starving := false }) }
    let s := s.raisePts core t.savedPts
    if t.phase == .staging then s.later [.event (.teamStart core slot)] else s

/-- TEAM_RESUME (R152, R156): a cluster's teams resume together. -/
def execTeamResume (core slot : Nat) (s : State) : Outcome State Fault Refusal :=
  .next (match s.team core slot with
    | none => s
    | some t =>
      let all := if ((s.launch t.launch).map fun l => l.record.clustered).getD false then
          (s.clusterOf t).filterMap fun x => if x.2.2.preempted then some (x.1, x.2.1) else none else [(core, slot)]
      if t.preempted && t.holds && all.all fun x => s.storageFree x.1 x.2 then
        all.foldl (fun s x => s.resumeTeam x.1 x.2) s
      else s)

/-! ### Staging and start -/

/-- The operation that stages a team (R148): unit 0 reads ARGS, unit i copies staging entry i − 1. It reads as the copy
engine does and has no number. -/
def stagingOp (s : State) (core slot : Nat) (t : Team) (l : Launch) : EngineOp :=
  { seq := 0#32, queue := 8 + slot, kind := .stage, slot := slot, lane := 0, launch := t.launch, asid := l.asid,
    bar := none, ets := (s.core core).pts, units := 1 + l.record.nstage }

/-- The k registers of a team and of the routine context of its launch filled (R127, R167). -/
def State.fillK (s : State) (core slot launch : Nat) (k : NMap DWord) : State :=
  let give := fun (e : Nat × KeeperCtx) => if e.2.launch = some launch then (e.1, { e.2 with k := k, kReady := true }) else e
  (s.modTeam core slot fun t => { t with k := k }).modCore core fun c => { c with contexts := c.contexts.map give }

/-- One unit of a team's staging (R127, R129, R148). -/
def State.stageUnit (s : State) (core slot : Nat) (o : EngineOp) (l : Launch) : Nat → EngGot Unit
  | 0 =>
    let n := l.record.args8
    (if n = 0 then EngGot.ok s [] else s.engineLoad core o l.record.args (8 * n)).bind fun s bs =>
      .ok (s.fillK core slot o.launch ((List.range n).foldl (fun (m : NMap DWord) i =>
        NMap.set 0#64 m i (BitVec.ofNat 64 (leNat ((bs.drop (8 * i)).take 8)))) [])) ()
  | i + 1 =>
    let at_ := l.record.stage + 16 * i
    (s.engineLoad core o at_ 16).bind fun s e =>
      let off := leNat ((e.drop 8).take 4)
      let len := leNat (e.drop 12)
      if off % 4 ≠ 0 || len % 4 ≠ 0 || l.record.tmem < off + len then .bad at_ 4 0
      else (s.engineLoad core o (leNat (e.take 8)) len).bind fun s bs => .ok (s.opTmWrite core o off bs) ()

/-- The units of a team's staging from `u` on, until one stops. -/
def State.stageUnits (core slot : Nat) (o : EngineOp) (l : Launch) : Nat → Nat → State → State
  | 0, _, s => s
  | n + 1, u, s =>
    match s.stageUnit core slot o l u with
    | .ok s _ => State.stageUnits core slot o l n (u + 1) (s.unitDone core o u)
    | .wait s => s
    | .fault v w => s.modOp core o.queue o.seq fun o => { o with phase := .faulted v w.addr (some w) }
    | .poison v a pa => (s.notePoison pa).modOp core o.queue o.seq fun o => { o with phase := .faulted v a none }
    | .bad a k x => s.modOp core o.queue o.seq fun o => { o with phase := .failed a k x }

/-- Whether a launch runs a team somewhere. -/
def State.runsTeam (s : State) (launch : Nat) : Bool :=
  s.cores.any fun (c : Nat × Core) => c.2.teams.any fun (e : Nat × Team) => e.2.launch == launch && e.2.phase == .running

/-- The instruction caches without the blocks of a launch. -/
def State.dropCode (s : State) (launch : Nat) : State :=
  s.cores.foldl (fun (s : State) (c : Nat × Core) => s.modCore c.1 fun k =>
    { k with icache := k.icache.filter fun e => e.2.1 != launch }) s

/-- The core's L1 without its clean private lines of an address space, and pts raised for a launch (R133); a launch that
runs no team fetches its words anew (R166; log entry 76). -/
def State.enterCore (s : State) (core launch : Nat) (l : Launch) : State :=
  let s := if s.runsTeam launch then s else s.dropCode launch
  (s.modCore core fun k => { k with
    l1 := k.l1.filter fun (e : Nat × L1Line) => !(e.2.asid == l.asid && e.2.cls == 0 && !e.2.dirty) }).raisePts core l.depTs

/-- A team starts (R148): every lane at CODE, registers and masks clear. -/
def Team.start (t : Team) (code now : Nat) : Team :=
  { t with phase := .running, startTime := now,
           lanes := (List.range t.nlanes).map fun i => (i, { pc := BitVec.ofNat 64 code }) }

/-- The teams of a unit end without running (R148). -/
def State.stageFail (s : State) (core slot : Nat) (t : Team) (l : Launch) (addr : Nat) : State :=
  let s := (s.unitOf core slot t l).foldl (fun s x => s.killTeam x.1 x.2.1) s
  s.sendEvent core { kind := 4, ltag := 0, slot := slot, lane := none, src := 1, bar := none, status := 0#16,
                     addr := BitVec.ofNat 64 (addr % 2 ^ 56), launch := t.launch }

/-- The PAGEFAULT record of a staging copy (R135, R148). -/
def stagingFault (core : Nat) (t : Team) (l : Launch) (w : PageWait) : FaultRec :=
  { cause := 3, src := 0, die := dieOfCore core, core := core % 160, lane := 0xFFFF, team := t.number, aux0 := 4,
    addr := w.addr, launch := bits l.record.doneSeq 0 32, asid := l.asid, queue := l.queue }

/-- The team of a slot that has been staged, started with its unit once every team of it has been (R146, R148). -/
def State.startUnit (s : State) (core slot : Nat) (l : Launch) : State :=
  match s.team core slot with
  | none => s
  | some t =>
    let all := s.unitOf core slot t l
    if all.all fun x => x.2.2.staged && x.2.2.phase == .staging && !x.2.2.preempted then
      all.foldl (fun s x => s.modTeam x.1 x.2.1 fun t => t.start l.record.code s.cclk) s
    else s

/-- What a team's staging comes to when it stops: the start of its unit, a SLOWPATH record, or the unit's end (R148,
R214). -/
def State.stageStopped (s : State) (core slot : Nat) (t : Team) (l : Launch) (o : EngineOp) : State :=
  match o.phase with
  | .running =>
    if o.unitsDone.length < o.units then s
    else
      let s := { s with net := s.net.filter fun (e : Nat × NetAccess) =>
        !(e.2.core == core && e.2.engine == some (o.queue, o.seq)) }
      (s.modTeam core slot fun t => { t with staged := true }).startUnit core slot l
  | .faulted u a w =>
    (s.modTeam core slot fun t => { t with stage := some { o with phase := .slow u a w } }).sendEvent core
      { kind := 9, ltag := 0, slot := slot, lane := none, src := 1, bar := none, status := 0#16,
        addr := BitVec.ofNat 64 (u % 2 ^ 56), launch := t.launch }
  | .failed a _ _ => s.stageFail core slot t l a
  | .slow _ _ _ => s

/-- The staging of a team goes on with the units left of it (R148); its operation stands in the core's table while it
acts. -/
def State.stageOn (s : State) (core slot : Nat) (t : Team) (l : Launch) (o : EngineOp) : State :=
  if o.phase != .running then s
  else
    let k := o.unitsDone.length
    let s := State.stageUnits core slot o l (o.units - k) k (s.modCore core fun k => { k with ops := k.ops ++ [o] })
    let o := (s.op core o.queue o.seq).getD o
    let s := s.modCore core fun k => { k with ops := k.ops.filter fun (x : EngineOp) => x.queue != o.queue }
    (s.modTeam core slot fun t => { t with stage := some o }).stageStopped core slot t l o

/-- TEAM_START (R133, R148): once the claims of its unit are met and its row is awake, a team is staged, and started with
its unit. -/
def execTeamStart (core slot : Nat) (s : State) : Outcome State Fault Refusal :=
  .next (match s.team core slot with
    | none => s
    | some t => match s.launch t.launch with
      | none => s
      | some l =>
        if t.phase != .staging || t.preempted || (s.core core).deepIdle
            || !(s.unitOf core slot t l).all fun x => x.2.2.claims.isEmpty then s
        else if t.staged then s.startUnit core slot l
        else match t.stage with
          | some o => s.stageOn core slot t l o
          | none =>
            let s := s.enterCore core t.launch l
            s.stageOn core slot t l (stagingOp s core slot t l))

/-! ### The release of a slot -/

/-- Whether something of a slot has still to complete or to be reported (R182). -/
def State.slotBusy (s : State) (core slot : Nat) : Bool :=
  let k := s.core core
  k.ops.any (fun (o : EngineOp) => o.slot == slot) || k.tads.any (fun (e : Nat × Tadpole) => e.2.slot == slot)
    || k.eq.any (fun (r : EventRec) => r.slot == slot && !r.reported)
    || k.eqHeld.any (fun (r : EventRec) => r.slot == slot && !r.reported)
    || s.net.any (fun (e : Nat × NetAccess) => e.2.core == core && e.2.slot == slot && e.2.out)

/-- SLOT_RELEASE (R182). -/
def execSlotRelease (core slot : Nat) (s : State) : Outcome State Fault Refusal :=
  .next (match s.team core slot with
    | some t =>
      if t.phase == .retired && !s.slotBusy core slot then
        { s.modCore core fun k => { k with teams := k.teams.del slot } with
          net := s.net.filter fun (e : Nat × NetAccess) => !(e.2.core == core && e.2.slot == slot && e.2.isFetch) }
      else s
    | none => s)

end Sys2Proof.Machine
end

