-- ==== Sys2Proof/Machine/WorkList.lean ====
section
/-! DEFINITION. Work lists: WOPEN, WAPP, WTAKE and their events (R157 to R161, R207, R335, R351 to R353). -/

namespace Sys2Proof.Machine

open Host (Outcome)

/-! ### Descriptors -/

/-- A descriptor of 64 bytes at a virtual address: its physical address, in a coherent local page, its sectors clean
(R335, R351). -/
def State.descriptor (s : State) (need : Need) (va : Nat) : Got Nat :=
  let at_ := BitVec.ofNat 64 va
  match s.pieces s.who.asid need 2 va 64 with
  | (s, .inl x) => .page s (pageWait s.who x need.writes)
  | (s, .inr []) => .ok s 0
  | (s, .inr (p :: _)) =>
    if p.cls != 2 || paRange p.pa != .local_ then .trap .access at_
    else
      let s := s.releaseLine (p.pa / 128)
      match s.firstPoison p.pa 64 with
      | some x => .bad (p.va + (x - p.pa)) x
      | none => .ok (s.l2Touch (p.pa / 128) none false) p.pa

/-- A list descriptor keeps R157. -/
def State.listOk (s : State) (pa : Nat) : Bool :=
  let base := s.numAt pa 8
  let cap := s.numAt (pa + 8) 4
  let dom := s.numAt (pa + 16) 8
  base % 16 == 0 && decide (base < 2 ^ 56) && decide (1 ≤ cap) && decide (cap ≤ 2 ^ 24) && dom % 64 == 0
    && decide (dom < 2 ^ 56) && s.numAt (pa + 44) 4 == 1 && s.zeroAt (pa + 48) 16

/-- A domain descriptor keeps R158. -/
def State.domainOk (s : State) (pa : Nat) : Bool :=
  let n := s.numAt pa 4
  let f := s.numAt (pa + 24) 4
  decide (1 ≤ n) && decide (n ≤ 256) && (f == 1 || f == 3) && s.zeroAt (pa + 28) 36

/-- The checks of a work-list word and its two descriptors: their physical addresses (R335, R351). Both are read before
either is held to its limits; a DOMAIN field that names no descriptor breaks the list descriptor at once. -/
def State.onList (s : State) (a : BitVec 7) (need : Need) (f : State → Nat → Nat → Res) : Res :=
  let at_ := s.pair (pn a)
  checks [(decide (at_.toNat < 2 ^ 56), .access, at_), (at_.toNat % 64 == 0, .align, at_)]
    ((s.descriptor need at_.toNat).then fun s list =>
      let dom := s.numAt (list + 16) 8
      if dom % 64 != 0 || decide (2 ^ 56 ≤ dom) then .trap .wlDesc at_
      else (s.descriptor .rw dom).then fun s d =>
        if !s.listOk list then .trap .wlDesc at_
        else if !s.domainOk d then .trap .wlDesc (BitVec.ofNat 64 dom)
        else if s.numAt d 4 ≤ s.numAt (list + 12) 4 then .trap .wlDesc at_
        else f s list d)

/-- QUIESCED of a domain (R158). -/
def State.quiesced (s : State) (d : Nat) : Bool := s.numAt (d + 24) 4 / 2 % 2 == 1

/-- A field of a unit moved by an amount, as a device-scope atomic of the core (R76). -/
def State.bump (s : State) (core pa n : Nat) (x : Int) : State :=
  s.unitWrite (s.core core).pts pa (leBytes n ((s.numAt pa n : Int) + x).toNat)

/-- The core's pts after an atomic on a line (R76). -/
def State.sawLine (s : State) (core pa : Nat) : State := s.raisePts core (s.wtsOf pa)

def execWopen (a : BitVec 7) (p : BitVec 3) (s : State) : Outcome State Fault Refusal :=
  s.runWord (.wopen a p) { regs := regsUpTo [pn a + 1], tad := false, keeper := false } fun s =>
    s.inOrder fun s => s.onList a .rd fun s _ d =>
      if s.quiesced d then .done (s.setP p false)
      else if s.ag.domain = some d then .done (s.setP p true)
      else
        let c := s.coreNo
        -- a participant of another domain leaves it first (R351)
        let s := match s.ag.domain with
          | some old => (s.bump c (old + 4) 4 (-1)).tdTest (s.core c).pts old
          | none => s
        let s := (s.bump c (d + 4) 4 1).modAg fun g => { g with domain := some d }
        .done (((s.putAgent s.cur s.ag).tdTest (s.core c).pts d |>.sawLine c d).setP p true)

/-! ### WAPP -/

/-- Where item i of a list lies, translated and checked as a thread's access is (R46, R157, R317). The model's
reading: log entry 97. -/
def State.itemPlace (s : State) (asid base cap i : Nat) (write : Bool) : Got Piece :=
  let va := base + 16 * (i % cap)
  if !vaOk va 16 then .trap .access (BitVec.ofNat 64 va)
  else match s.translate asid (if write then .wr else .rd) va with
    | none => .page s { asid := asid, page := va / 4096, addr := va, write := write, fetch := false }
    | some (s, m) =>
      let p : Piece := { va := va, pa := m.pa, len := 16, cls := m.cls, cache := m.cache }
      if s.refuses write p then .trap .access (BitVec.ofNat 64 va) else .ok s p

/-- The bulk read that bore the tadpole of the thread. -/
def State.myBulk (s : State) : Option Word :=
  match s.cur with
  | .tad c slot _ => ((s.core c).tads.find? slot).map Tadpole.seq
  | _ => none

def execWapp (d : BitVec 6) (a : BitVec 7) (p : BitVec 3) (s : State) : Outcome State Fault Refusal :=
  s.runWord (.wapp d a p) { regs := regsUpTo [qn d + 3, pn a + 1], keeper := false } fun s =>
    if s.matesOut then .peer s else s.inOrder fun s => s.onList a .rw fun s list dom =>
      let c := s.coreNo
      let base := s.numAt list 8
      let cap := s.numAt (list + 8) 4
      let head := s.numAt (list + 24) 8
      let tail := s.numAt (list + 32) 8
      if s.quiesced dom || head + cap ≤ tail then
        let r := s.numAt (list + 40) 4
        let s := s.unitWrite (s.core c).pts (list + 40) (leBytes 4 (min 0xFFFFFFFF (r + 1)))
        .done ((s.sawLine c list).setP p false)
      else
        (s.itemPlace s.who.asid base cap tail true).then fun s piece =>
          let item : WlItem := { agent := s.cur, who := s.who, bulk := s.myBulk, domain := dom,
                                 domainPage := s.numAt (list + 16) 8 / 4096, piece := piece,
                                 bytes := wordsBytes (s.vs (qn d) 4) 16 }
          let s := s.bump c (list + 32) 8 1
          let s := if tail = head then s.bump c (dom + 12) 4 1 else s
          let s := s.bump c (dom + 16) 8 1
          let n := s.wlNext
          let s := { s with wlItems := s.wlItems.put n item, wlNext := n + 1 }
          .done (((s.later [.event (.wappItemWritten n)]).sawLine c list).setP p true)

/-! ### WTAKE -/

/-- The item at HEAD of a list: none where no item there has been written, otherwise where it lies (R160). Its read is
checked as a load is (R59, R80). -/
def State.itemReady (s : State) (asid list base cap : Nat) : Got (Option Piece) :=
  let head := s.numAt (list + 24) 8
  if s.numAt (list + 32) 8 ≤ head then .ok s none
  else (s.itemPlace asid base cap head false).bind fun s p =>
    if s.wlItems.any fun (e : Nat × WlItem) => e.2.piece.pa == p.pa then .ok s none
    else if p.isHost && s.hostDown then .trap .hostLink (BitVec.ofNat 64 p.va)
    else match s.firstPoison p.pa 16 with
      | some x => .bad (p.va + (x - p.pa)) x
      | none => .ok s (some p)

/-- The bytes of the item at HEAD where it lies in an aperture (R47): a load at the peer, asked for anew where another
lane has taken the item it was asked for. -/
def State.farItem (s : State) (p : Piece) (n x head : Nat) : Got (List Byte) :=
  let ask := [(n, x, p.va, NetKind.load 16)]
  if s.ag.netGot == [leBytes 8 head] then s.netTake s.who ask (BitVec.ofNat 64 p.va)
  else .peer ((s.netClear.modAg fun a => { a with netGot := [leBytes 8 head] }).netAsk s.who ask)

/-- The bytes of the item at HEAD. -/
def State.itemBytes (s : State) (p : Piece) (head : Nat) : Got (List Byte) :=
  match p.aperture? with
  | some (n, x) => s.farItem p n x head
  | none => .ok s (s.bytesAt p.pa 16)

/-- The item at HEAD taken, as a device-scope atomic of a core (R160, R240). -/
def State.takeItem (s : State) (core list dom : Nat) (p : Piece) : State :=
  let s := s.bump core (list + 24) 8 1
  let s := if s.numAt (list + 32) 8 = s.numAt (list + 24) 8 then s.bump core (dom + 12) 4 (-1) else s
  let s := s.sawLine core list
  if paRange p.pa = .local_ then s.sawLine core p.pa else s.raisePts core s.outTs

/-- Words written to consecutive registers of a thread that waits (R172). -/
def Agent.putRegs (a : Agent) (r : Nat) : List Word → Agent
  | [] => a
  | x :: xs => (a.putReg r x).putRegs (r + 1) xs

/-- Parked takers of a list, longest parked first (R160). -/
def State.takersOfList (s : State) (list : Nat) : List AgentRef :=
  let rs := s.lanesWhere fun a => match a.status with
    | .parked (.take w) => w.list == list
    | _ => false
  rs.mergeSort fun x y => decide ((s.agentAt x).elim 0 Agent.parkedAt ≤ (s.agentAt y).elim 0 Agent.parkedAt)

/-- A taker back at its WTAKE, its hints with it. -/
def TakeWait.redo (w : TakeWait) (a : Agent) : Agent := { a with pc := a.pc - 4#64, hints := w.hints }

/-- A taker with a trap of its WTAKE to take. -/
def TakeWait.trap (w : TakeWait) (a : Agent) (c : Cause) (addr : DWord) : Agent :=
  { a.wake with pendTrap := some { cause := c, pc := w.hints.first.getD (a.pc - 4#64), addr := addr } }

/-- The item at HEAD given to a parked taker where one is written (R160). A taker whose item does not translate parks on the
page at its WTAKE; one whose item a peer holds performs its WTAKE again. -/
def State.serveTaker (s : State) (list : Nat) (r : AgentRef) : State :=
  match s.agentAt r with
  | none => s
  | some a =>
    match a.status with
    | .parked (.take w) =>
      match s.itemReady w.asid list w.base w.cap with
      | .ok s none => s
      | .ok s (some p) =>
        if p.aperture?.isSome then s.putAgent r (w.redo a).wake
        else
          let ws := regWords 4 (s.numAt p.pa 16)
          (s.takeItem (coreOfRef r) list w.domain p).putAgent r ((a.putRegs w.dest ws).setPred w.pred true).wake
      | .trap c addr => s.putAgent r (w.trap a c addr)
      | .bad va pa => (s.notePoison pa).putAgent r (w.trap a .memErr (BitVec.ofNat 64 va))
      | .page s pw =>
        (s.notePage pw (({ s with cur := r }).pageRecord pw)).putAgent r { w.redo a with status := .parked (.page pw) }
      | .peer s => s
      | .again s => s
    | _ => s

/-- The parked takers of a list served, longest parked first (R160). -/
def State.serveTakers (s : State) (list : Nat) : State :=
  (s.takersOfList list).foldl (fun s r => s.serveTaker list r) s

/-- The answers to a load that the thread has sent are out, or it has none. -/
def State.answered (s : State) : Bool := s.ag.netIds.isEmpty || (s.netAnswer s.ag.netIds).isSome

/-- The answers to a load that the thread no longer wants given up. -/
def State.netDrop (s : State) : State := if s.ag.netIds.isEmpty then s else s.netClear

def execWtake (d : BitVec 6) (a : BitVec 7) (p : BitVec 3) (s : State) : Outcome State Fault Refusal :=
  s.runWord (.wtake d a p) { regs := regsUpTo [qn d + 3, pn a + 1], keeper := false, tadWait := true } fun s =>
    if !s.answered then .peer s
    else s.inOrder fun s => s.onList a .rw fun s list dom =>
      let c := s.coreNo
      let base := s.numAt list 8
      let cap := s.numAt (list + 8) 4
      let head := s.numAt (list + 24) 8
      if s.quiesced dom then .done ((s.netDrop.setV (qn d) 1#32).setP p false)
      else (s.itemReady s.who.asid list base cap).then fun s x => match x with
        | none =>
          let w : TakeWait := { list := list, domain := dom, dest := qn d, pred := p, base := base, cap := cap,
                                asid := s.who.asid, hints := s.ag.hints,
                                pages := [(s.pair (pn a)).toNat / 4096, s.numAt (list + 16) 8 / 4096] }
          .park (s.netDrop.later [.event (.wtakeEmpty s.cur)]) (.take w)
        | some piece => (s.itemBytes piece head).then fun s bs =>
          let t := s.netDrop.takeItem c list dom piece
          .done (((t.setVs (qn d) (regWords 4 (leNat bs))).setP p true).tdTest (s.core c).pts dom)

/-- What waits for an item to be written goes on: a TEND, the end of a bulk read, the end of a launch (R132, R205, R206). -/
def State.wrote (s : State) (w : WlItem) : State :=
  let s := s.retry [w.agent]
  let s := match w.bulk.bind (s.op w.who.core 0) with
    | some o => s.later [.event (o.event w.who.core)]
    | none => s
  s.later [.event (.launchComplete w.who.launch)]

/-- The bytes of an item stored where it lies in local or host memory; with both host ports down they are dropped and
reported (R59). The model's reading: log entry 97. -/
def State.itemStore (s : State) (w : WlItem) : State :=
  if w.piece.isHost && s.hostDown then s.storeReport w.who (some w.who.lane) 7 0#16 w.piece.va 5
  else s.unitWrite (s.core w.who.core).pts w.piece.pa w.bytes

/-- An item written: INFLIGHT falls, and takers of the list are served (R159). -/
def State.itemDone (s : State) (item : Nat) (w : WlItem) : State :=
  let c := w.who.core
  let s := { s with wlItems := s.wlItems.del item }.wrote w
  let s := s.bump c (w.domain + 16) 8 (-1)
  let lists := ((s.takersOf w.domain).filterMap fun r => (s.agentAt r).bind fun a => match a.status with
    | .parked (.take x) => some x.list
    | _ => none).dedup
  let s := (lists.foldl (fun s l => s.serveTakers l) s).tdTest (s.core c).pts w.domain
  s.wroteAt w.who.launch (tmax (if paRange w.piece.pa = .local_ then s.wtsOf w.piece.pa else 0#64) (s.wtsOf w.domain))

/-- The write of an item at a peer, sent (R47, R55). -/
def State.itemSend (s : State) (item : Nat) (w : WlItem) (n x : Nat) : State :=
  { ({ s with cur := w.agent }).netSend w.who n x w.piece.va (.store w.bytes) (some (itemTag item, 0#32)) with cur := s.cur }

/-- WAPP_ITEM_WRITTEN (R159): the item is written, at once or at a peer, whose completion ends it. -/
def execWappItemWritten (item : Nat) (s : State) : Outcome State Fault Refusal :=
  .next (match s.wlItems.find? item with
    | none => s
    | some w => match w.piece.aperture? with
      | none => (s.itemStore w).itemDone item w
      | some (n, x) =>
        match List.find? (fun (e : Nat × NetAccess) => e.2.item? == some item) s.net with
        | none => s.itemSend item w n x
        | some (i, a) => if a.out then s else { s with net := s.net.del i }.itemDone item w)

/-- WTAKE_EMPTY (R160): after 4,096 CCLK of its park with no written item at HEAD the lane returns empty; before that
the event only brings the domain's counts up to date (R158). -/
def execWtakeEmpty (lane : AgentRef) (s : State) : Outcome State Fault Refusal :=
  .next (match s.agentAt lane with
    | none => s
    | some a =>
      match a.status with
      | .parked (.take w) =>
        let s := if a.parkedAt + 4096 ≤ s.cclk then s.takeNothing false lane else s
        s.tdTest (s.core (coreOfRef lane)).pts w.domain
      | _ => s)

end Sys2Proof.Machine
end

