-- ==== Sys2Proof/Machine/Command.lean ====
section
/-! DEFINITION. The command interface: queues and their records, dependencies, replays, invalidations, read indices,
interrupt masks (R124 to R131, R134, R135, R140, R389). -/

namespace Sys2Proof.Machine

open Host (Outcome)

/-- The device is open (R40, R42): the command interface takes writes. -/
def State.isOpen (s : State) : Bool := s.smc.phase == 6#4

/-! ### Queues -/

def State.queue (s : State) (q : Nat) : Queue := NMap.get {} s.queues q

def State.modQueue (s : State) (q : Nat) (f : Queue → Queue) : State :=
  { s with queues := s.queues.put q (f (s.queue q)) }

/-- RUN of a queue (R124). -/
def Queue.run (q : Queue) : Bool := q.en && !q.err

/-- A queue takes the record at QRD: it runs, and its ring holds one (R125). -/
def Queue.takes (q : Queue) : Bool := q.run && q.qwr != q.qrd

/-! ### Launch records -/

/-- The fields of a record (R127). -/
def parseLaunch (bs : List Byte) : LaunchRec :=
  let f := fun o n => leNat ((bs.drop o).take n)
  { code := f 0 8, dtab := f 8 8, dtlen := f 16 2, regs8 := f 18 1, args8 := f 19 1, tmem := f 20 4, gridX := f 24 4,
    gridY := f 28 2, gridZ := f 30 2, teamX := f 32 2, teamY := f 34 1, teamZ := f 35 1,
    clusX := if f 36 1 = 0 then 1 else f 36 1, clusY := if f 37 1 = 0 then 1 else f 37 1, flags := f 38 1,
    nstage := f 39 1 % 16, ndep := f 39 1 / 16 % 8, stage := f 40 8, args := f 48 8, deps := f 56 8, indirect := f 64 8,
    keeper := f 72 8, doneAddr := f 80 8, doneSeq := BitVec.ofNat 64 (f 88 8), sink := f 96 8 }

/-- A virtual address in use: bits 63:56 zero, a multiple of `n` (R128). -/
def virtOk (a n : Nat) : Bool := decide (a < 2 ^ 56) && a % n == 0

/-- The least offset named by a check that fails (R128). -/
def leastBad (cs : List (Nat × Bool)) : Option Nat :=
  cs.foldl (fun (best : Option Nat) c => if c.2 then best else match best with
    | some b => some (min b c.1)
    | none => some c.1) none

/-- The checks of R128 that do not involve GRID_X, with the offsets they name. -/
def LaunchRec.checks (r : LaunchRec) (bs : List Byte) : List (Nat × Bool) :=
  [(0, virtOk r.code 4), (8, r.dtlen == 0 || virtOk r.dtab 8), (16, decide (r.dtlen ≤ 4096)),
   (18, decide (1 ≤ r.regs8) && decide (r.regs8 ≤ 32)), (19, decide (r.args8 ≤ 32)),
   (20, decide (r.tmem ≤ 524288) && r.tmem % 4 == 0), (28, r.gridY % r.clusY == 0),
   (32, decide (1 ≤ r.lanes) && decide (r.lanes ≤ 1024)), (36, decide (r.clusX ≤ 16) && decide (r.clusX * r.clusY ≤ 12)),
   (37, decide (r.clusY ≤ 10)), (38, decide (r.flags < 16)),
   (39, decide (r.nstage ≤ 8) && decide (r.ndep ≤ 4) && bs.getD 39 0#8 &&& 0x80#8 == 0#8),
   (40, r.nstage == 0 || virtOk r.stage 16), (48, r.args8 == 0 || virtOk r.args 8), (56, r.ndep == 0 || physOk r.deps 16),
   (64, r.indirect == 0 || physOk r.indirect 4), (72, r.keeper == 0 || virtOk r.keeper 4), (80, physOk r.doneAddr 8),
   (88, !r.doneSeq.getLsbD 63), (96, physOk r.sink 64)]
  ++ (List.range 24).map fun i => (104 + i, bs.getD (104 + i) 0#8 == 0#8)

/-- The checks of R128 that involve GRID_X. -/
def LaunchRec.gridChecks (r : LaunchRec) : List (Nat × Bool) :=
  [(24, r.gridX % r.clusX == 0 && decide (r.gridX * r.gridY * r.gridZ ≤ 2 ^ 32))]

/-- A read of the IOD as a `.sys` load: none from a poisoned sector, which is an event, or from host memory with both
ports down (R81, R128; log entry 61). -/
def State.iodRead (s : State) (pa n : Nat) : State × Option (List Byte) :=
  if paRange pa == .host && s.hostDown then (s, none)
  else if paRange pa == .local_ && (s.firstPoison pa n).isSome then (s.notePoisons pa n, none)
  else
    let r := s.deviceLoad pa n
    (r.1, some r.2)

/-- The logical time of a word that the IOD has read: of a local one its line's wts, of one in host memory the largest
that a write sent there bears (R133, R240, R244). -/
def State.wordTime (s : State) (pa : Nat) : DWord :=
  match paRange pa with
  | .local_ => s.wtsOf pa
  | _ => s.outTs

/-- A staging entry that can be read when its record is checked breaks R129 (log entry 12). -/
def State.badStage (s : State) (asid : Nat) (r : LaunchRec) : Bool :=
  (List.range r.nstage).any fun i =>
    match s.pieces asid .rd 8 (r.stage + 16 * i) 16 with
    | (s, .inr [p]) =>
      if p.isHost && s.hostDown || p.aperture?.isSome || s.refuses false p || (s.firstPoison p.pa 16).isSome then false
      else
        let off := s.numAt (p.pa + 8) 4
        let len := s.numAt (p.pa + 12) 4
        off % 4 != 0 || len % 4 != 0 || decide (r.tmem < off + len)
    | _ => false

/-- A dependency entry: its word's address, VALUE, COND; none where it breaks R130. -/
def depEntry (bs : List Byte) : Option (Nat × Word × Nat) :=
  let a := leNat (bs.take 8)
  let c := (bs.getD 12 0#8).toNat
  if physOk a 4 && decide (c < 3) && (bs.drop 13).all (· == 0#8) then
    some (a, BitVec.ofNat 32 (leNat ((bs.drop 8).take 4)), c)
  else none

/-- The condition of an entry on its word (R130). -/
def depMet (w v : Word) (cond : Nat) : Bool :=
  match cond with
  | 0 => decide (0 ≤ (w - v).toInt)
  | 1 => w == v
  | _ => w != v

/-- The entries of a record from the i-th on; none where one cannot be read or is refused (R128, R130). -/
def State.depEntries (s : State) (deps : Nat) : Nat → Nat → State × Option (List (Nat × Word × Nat))
  | 0, _ => (s, some [])
  | n + 1, i =>
    match s.iodRead (deps + 16 * i) 16 with
    | (s, none) => (s, none)
    | (s, some bs) =>
      match depEntry bs with
      | none => (s, none)
      | some e =>
        let r := s.depEntries deps n (i + 1)
        (r.1, r.2.map fun es => e :: es)

/-- One reading of unmet words: those still unmet, and the largest logical time read (R130, R133); none where one cannot
be read. -/
def State.readUnmet (s : State) : List (Nat × Word × Nat) → DWord → State × Option (List (Nat × Word × Nat) × DWord)
  | [], t => (s, some ([], t))
  | e :: es, t =>
    match s.iodRead e.1 4 with
    | (s, none) => (s, none)
    | (s, some bs) =>
      let r := s.readUnmet es (tmax t (s.wordTime e.1))
      (r.1, r.2.map fun x => (if depMet (BitVec.ofNat 32 (leNat bs)) e.2.1 e.2.2 then x.1 else e :: x.1, x.2))

/-- The record at QRD taken out of its ring as a launch (R126). -/
def State.admitLaunch (s : State) (q : Nat) (r : LaunchRec) (depTs : DWord) (refused : Bool) : State :=
  let k := s.queue q
  let n := s.cmd.taken
  let l : Launch := { record := r, queue := q, asid := k.asid.toNat, prio := k.prio.toNat, order := n, depTs := depTs,
                      stopped := refused }
  let s := { s with launches := s.launches.put n l, cmd := { s.cmd with taken := n + 1, lastQueue := q } }
  s.modQueue q fun k => { k with qrd := k.qrd + 1#32, pending := none }

/-- A record refused (R128): it starts no team, its BADLAUNCH record goes to its sink, its completion follows. DESIGN CHOICE,
log entry 94: a refusal is not the record that a scheduler cycle takes, and the queue served last stays. -/
def State.refuseRecord (s : State) (q : Nat) (r : LaunchRec) (slotAddr aux : Nat) : State :=
  let n := s.cmd.taken
  let last := s.cmd.lastQueue
  let s := s.admitLaunch q r 0#64 true
  let s := { s with cmd := { s.cmd with lastQueue := last } }
  s.sinkPut n { launchFault 1 1 with aux0 := aux, addr := slotAddr }

/-- A record whose dependencies are met: its count word read once, GRID_X checked (R128, R131); it is then ready. -/
def State.fixGrid (s : State) (q : Nat) (p : PendingRec) : State :=
  let keep := fun (s : State) (r : LaunchRec) (t : DWord) =>
    match leastBad r.gridChecks with
    | some o => s.refuseRecord q r p.slotAddr o
    | none => s.modQueue q fun k => { k with pending := some { p with record := r, unmet := [], depTs := t, readAt := s.cclk } }
  let a := p.record.indirect
  if a = 0 then keep s p.record p.depTs
  else match s.iodRead a 4 with
    | (s, none) => s.refuseRecord q p.record p.slotAddr 64
    | (s, some bs) => keep s { p.record with gridX := leNat bs } (tmax p.depTs (s.wordTime a))

/-- The unmet dependencies of the record at QRD read once (R130), while the queue takes records (R125). -/
def State.readPending (s : State) (q : Nat) : State :=
  match (s.queue q).pending with
  | none => s
  | some p =>
    if p.unmet.isEmpty || !(s.queue q).takes then s
    else match s.readUnmet p.unmet p.depTs with
      | (s, none) => s.refuseRecord q p.record p.slotAddr 56
      | (s, some ([], t)) => s.fixGrid q { p with depTs := t }
      | (s, some (left, t)) => s.modQueue q fun k => { k with
          pending := some { p with unmet := left, depTs := t, readAt := s.cclk } }

/-- The record at QRD read and checked (R125, R128, R130). -/
def State.loadRecord (s : State) (q : Nat) : State :=
  let k := s.queue q
  if !k.takes || k.pending.isSome then s
  else
    let pa := k.base.toNat + 128 * (k.qrd.toNat % 2 ^ k.size.toNat)
    if paRange pa == .host && s.hostDown then s
    else
      let (s, bs) := s.deviceLoad pa 128
      let r := parseLaunch bs
      let cs := r.checks bs
      let cs := (40, !s.badStage k.asid.toNat r) :: cs
      match leastBad cs with
      | some o => s.refuseRecord q r pa (if r.indirect = 0 then (leastBad (cs ++ r.gridChecks)).getD o else o)
      | none =>
        match s.depEntries r.deps r.ndep 0 with
        | (s, none) => s.refuseRecord q r pa 56
        | (s, some es) =>
          let p : PendingRec := { record := r, slotAddr := pa, unmet := es }
          if es.isEmpty then s.fixGrid q p else (s.modQueue q fun k => { k with pending := some p }).readPending q

/-- The record at QRD of a queue is ready: its dependencies are met (R130). -/
def Queue.ready (k : Queue) : Bool := k.takes && k.pending.any fun p => p.unmet.isEmpty

/-- The queue served in a scheduler cycle: the highest priority, then in turn after the one served last (R126). -/
def State.nextQueue (s : State) : Option Nat :=
  let order := (List.range 64).map fun i => (s.cmd.lastQueue + 1 + i) % 64
  (order.filter fun q => (s.queue q).ready).foldl (fun (best : Option Nat) q => match best with
    | some b => if (s.queue b).prio.toNat < (s.queue q).prio.toNat then some q else some b
    | none => some q) none

/-- A ready record taken (R126). -/
def State.takeRecord (s : State) (q : Nat) : State :=
  match (s.queue q).pending with
  | none => s
  | some p => s.admitLaunch q p.record p.depTs false

/-- IOD_SCHED_CYCLE (R125, R126): records at QRD are read; at most one is taken. A failed die-to-die link refuses every
new launch (R59). -/
def execIodSchedCycle (s : State) : Outcome State Fault Refusal :=
  .next (if !s.isOpen || s.d2dFailed then s
    else
      let s := s.queues.foldl (fun s (e : Nat × Queue) => s.loadRecord e.1) s
      match s.nextQueue with
      | some q => s.takeRecord q
      | none => s)

/-- DEPENDENCY_READ (R130): the command interface acts in phase OPEN alone (R40). -/
def execDependencyRead (queue : Nat) (s : State) : Outcome State Fault Refusal :=
  .next (if s.isOpen then s.readPending queue else s)

/-! ### Writes to queue registers -/

/-- A write of QWR (R125). A ring that it leaves empty has no record at QRD. -/
def State.writeQwr (s : State) (q : Nat) (v : Word) : State :=
  s.modQueue q fun k => { k with
    qwr := v, err := k.err || decide (2 ^ k.size.toNat < (v - k.qrd).toNat),
    pending := if v = k.qrd then none else k.pending }

/-- Every launch taken from a queue stopped, a KILLED record each (R126). -/
def State.killQueue (s : State) (q : Nat) : State := s.stopLaunches (fun _ l => l.queue == q) (launchFault 0x0C 1)

/-- EN of a queue written (R126): a record at QRD that is not taken is read again once the queue runs. -/
def State.setEn (s : State) (q : Nat) (en : Bool) : State :=
  s.modQueue q fun k => { k with en := en, pending := if en then k.pending else none }

def execQwrWrite (queue : Nat) (value : Word) (s : State) : Outcome State Fault Refusal :=
  .next (if s.isOpen && decide (queue < 64) then s.writeQwr queue value else s)

def execQctlEn (queue : Nat) (en : Bool) (s : State) : Outcome State Fault Refusal :=
  .next (if s.isOpen && decide (queue < 64) then s.setEn queue en else s)

def execQctlKill (queue : Nat) (s : State) : Outcome State Fault Refusal :=
  .next (if s.isOpen && decide (queue < 64) then s.killQueue queue else s)

/-! ### Replays -/

/-- Whether a wait is on a page. -/
def PageWait.on (w : PageWait) (asid page : Nat) : Bool := w.asid == asid && w.page == page

/-- The threads of a core. -/
def Core.agents (c : Nat) (k : Core) : List AgentRef :=
  (k.teams.flatMap fun (t : Nat × Team) => t.2.lanes.map fun (l : Nat × Agent) => AgentRef.lane c t.1 l.1)
    ++ (k.tads.flatMap fun (t : Nat × Tadpole) => t.2.lanes.map fun (l : Nat × Agent) => AgentRef.tad c t.1 l.1)
    ++ k.contexts.map fun (x : Nat × KeeperCtx) => AgentRef.keeper c x.1

/-- A trap taken by a thread that is not checked out (R135, R177, R181). -/
def State.trapAgent (s : State) (r : AgentRef) (c : Cause) (addr : DWord) : State :=
  match s.agentAt r with
  | none => s
  | some a =>
    let s := { s with cur := r, ag := a }.takeTrap c addr
    { s.putAgent s.cur s.ag with cur := .none, ag := {} }

/-- A thread parked on a page answered (R135). A lane takes its trap at its next turn to issue, since a lane stopped by
pre-emption meets the answer when it resumes (R153). -/
def State.answerAgent (s : State) (asid page : Nat) (fail : Bool) (r : AgentRef) : State :=
  match s.agentAt r with
  | none => s
  | some a =>
    match a.status with
    | .parked (.page w) =>
      if !w.on asid page then s
      else if !fail then s.putAgent r a.wake
      else match r with
        | .lane _ _ _ => s.putAgent r { a.wake with
            pendTrap := some { cause := .pageFault, pc := if w.fetch then a.pc else a.trapAt, addr := BitVec.ofNat 64 w.addr } }
        | _ => (s.putAgent r { a.wake with hints := if w.fetch then {} else a.hints }).trapAgent r .pageFault (BitVec.ofNat 64 w.addr)
    | .parked (.entry0 w t) =>
      if !w.on asid page then s
      else if !fail then s.putAgent r { a.wake with pendTrap := some t }
      else
        let a := { (a.wake.saveTrap .pageFault t.pc (BitVec.ofNat 64 w.addr)) with pendTrap := none }
        let s := { s with cur := r, ag := a }.stopTeam
        { s.putAgent s.cur s.ag with cur := .none, ag := {} }
    | _ => s

/-- An engine operation in the hands of the firmware answered (R214, R215). -/
def State.answerOp (s : State) (asid page : Nat) (fail : Bool) (c : Nat) (o : EngineOp) : State :=
  match o.phase with
  | .slow _ a (some w) =>
    if !w.on asid page then s
    else if fail then
      s.failOp c o a 4 o.code
    else (s.modOp c o.queue o.seq fun o => { o with phase := .running, ascending := true }).goOn c o
  | _ => s

/-- A team whose staging waits for a page answered (R148). -/
def State.answerStage (s : State) (asid page : Nat) (fail : Bool) (c slot : Nat) : State :=
  match s.team c slot with
  | none => s
  | some t =>
    match t.stage, s.launch t.launch with
    | some o, some l => match o.phase with
      | .slow _ a (some w) =>
        if !w.on asid page then s
        else if fail then s.stageFail c slot t l a
        else (s.modTeam c slot fun t => { t with stage := some { o with phase := .running } }).later
          [.event (.teamStart c slot)]
      | _ => s
    | _, _ => s

/-- A replay (R135): everything parked on the page repeats its access, or fails. -/
def State.replay (s : State) (asid page : Nat) (fail : Bool) : State :=
  let s := { s with cmd := { s.cmd with
    faultsOut := s.cmd.faultsOut.filter fun x => x ≠ (asid, page),
    replayLo := BitVec.ofNat 32 (page % 2 ^ 20 * 2 ^ 12 + if fail then 1 else 0),
    replayHi := BitVec.ofNat 32 (asid % 64 * 2 ^ 24 + page / 2 ^ 20 % 2 ^ 24) } }
  s.cores.foldl (fun s (c : Nat × Core) =>
    let s := (c.2.agents c.1).foldl (fun s r => s.answerAgent asid page fail r) s
    let s := c.2.ops.foldl (fun s (o : EngineOp) => s.answerOp asid page fail c.1 o) s
    c.2.teams.foldl (fun s (t : Nat × Team) => s.answerStage asid page fail c.1 t.1) s) s

def execReplayRetry (asid page : Nat) (s : State) : Outcome State Fault Refusal :=
  .next (if s.isOpen then s.replay asid page false else s)

def execReplayFail (asid page : Nat) (s : State) : Outcome State Fault Refusal :=
  .next (if s.isOpen then s.replay asid page true else s)

/-! ### Invalidations -/

/-- Pages of 4 KiB of an SZ code (R124). -/
def invalPages (sz : Nat) : Nat :=
  match sz with
  | 0 => 1
  | 1 => 16
  | 2 => 512
  | _ => 262144

/-- An invalidation started (R134), its registers written (R124). -/
def State.startInval (s : State) (asid va sz : Nat) (all : Bool) : State :=
  let n := invalPages sz
  let i : Inval := { asid := asid, all := all, page := va / 4096 / n * n, pages := n }
  { s with cmd := { s.cmd with
      invalLo := BitVec.ofNat 32 (va / 4096 % 2 ^ 20 * 2 ^ 12 + 4 * (sz % 4) + if all then 2 else 0),
      invalHi := BitVec.ofNat 32 (asid % 64 * 2 ^ 24 + va / 2 ^ 32 % 2 ^ 24),
      invalWait := s.cmd.invalWait ++ [i] } }

/-- A page lies in the range of an invalidation. -/
def Inval.covers (i : Inval) (asid page : Nat) : Bool :=
  i.asid == asid && (i.all || (decide (i.page ≤ page) && decide (page < i.page + i.pages)))

/-- The address space of a launch; none is left of a launch that is gone. -/
def State.asidIn (s : State) (launch : Nat) : Nat := ((s.launch launch).map Launch.asid).getD 64

/-- An access that used a translation of the range has not completed (R134): bytes an engine has still to write,
accesses to an aperture, items reserved and not written, stores whose completion has not returned, and instructions
parted in the middle. -/
def State.invalBusy (s : State) (i : Inval) : Bool :=
  s.cores.any (fun (c : Nat × Core) =>
    c.2.ops.any (fun (o : EngineOp) => o.dst.any fun (d : DstByte) => i.covers o.asid (d.va / 4096))
      || c.2.teams.any fun (t : Nat × Team) => s.asidIn t.2.launch == i.asid && t.2.lanes.any fun (e : Nat × Agent) =>
        !e.2.stores.isEmpty || e.2.status.isMid)
  || s.net.any (fun (e : Nat × NetAccess) => e.2.out && i.covers (s.asidIn e.2.launch) (e.2.va / 4096))
  || s.wlItems.any fun (e : Nat × WlItem) =>
    i.covers e.2.who.asid (e.2.piece.va / 4096) || i.covers e.2.who.asid e.2.domainPage

/-- A lane that waits without a monitor for a word of an invalidated page, or for an item of a list whose descriptor or
domain descriptor lies in one, performs its WAITC or WTAKE again, with a translation of its own (R134, R160, R195). -/
def Inval.again (i : Inval) (a : Agent) : Agent :=
  match a.status with
  | .parked (.cond w) => if !w.monitor && i.covers w.asid w.page then { a.wake with pc := a.pc - 4#64, hints := w.hints } else a
  | .parked (.take w) => if w.pages.any (i.covers w.asid) then (w.redo a).wake else a
  | _ => a

/-- An entry of a level whose first page is `page` maps a page of the range of an invalidation to a frame of 4 KiB. -/
def Inval.mapsTo (i : Inval) (e : DWord) (level page frame : Nat) : Bool :=
  (List.range (512 ^ level)).any fun n =>
    i.covers i.asid (page + n) && pteTarget e level ((page + n) * 4096) / 4096 == frame

/-- A table of a level maps a page of the range to a frame; `page` is the first page that the table serves (R134). -/
def State.tableMaps (s : State) (i : Inval) (frame : Nat) : Nat → Nat → Nat → Bool
  | 0, table, page => (List.range 512).any fun k =>
    let addr := table + 8 * k
    let e := BitVec.ofNat 64 (s.numAt addr 8)
    i.covers i.asid (page + k) && s.leafOk addr 0 e && i.mapsTo e 0 (page + k) frame
  | level + 1, table, page => (List.range (if level = 2 then 131072 else 512)).any fun k =>
    let addr := table + 8 * k
    let e := BitVec.ofNat 64 (s.numAt addr 8)
    let first := page + 512 ^ (level + 1) * k
    (i.all || (decide (first < i.page + i.pages) && decide (i.page < first + 512 ^ (level + 1))))
      && (if pteBit e 1 then s.leafOk addr (level + 1) e && i.mapsTo e (level + 1) first frame
          else pteTable e && s.tableMaps i frame level (ptePpn e * 4096) first)

/-- A line belongs to the range of an invalidation: a page of the range is translated to it, by a cached entry or by the
table. -/
def State.inRange (s : State) (i : Inval) (line : Nat) : Bool :=
  let frame := line / 32
  s.tlb.any (fun (t : TlbEntry) => i.covers t.asid t.page && (mappedOf t.pte t.level (t.page * 4096)).pa / 4096 == frame)
    || ((s.ptroot i.asid).valid && s.tableMaps i frame 3 (s.ptroot i.asid).root.toNat 0)

/-- A copy is a read-shared one of the range of an invalidation: taken through a page of it, or of a line of it (R73,
R134). -/
def State.invalidates (s : State) (i : Inval) (line : Nat) (c : L1Line) : Bool :=
  c.cls == 1 && (i.covers c.asid c.page || s.inRange i line)

/-- INVAL_COMPLETE (R134): the oldest invalidation started, once no access that used an old translation is left; no
read-shared copy of the range is left in any L1 (R73). -/
def execInvalComplete (s : State) : Outcome State Fault Refusal :=
  .next (match s.cmd.invalWait with
    | [] => s
    | i :: rest =>
      if s.invalBusy i then s
      else
        let lanes := fun (ls : NMap Agent) => ls.map fun (e : Nat × Agent) => (e.1, i.again e.2)
        let s := { s with
          tlb := s.tlb.filter fun (t : TlbEntry) => !i.covers t.asid t.page,
          cores := s.cores.map fun (c : Nat × Core) => (c.1, { c.2 with
            l1 := c.2.l1.filter fun (e : Nat × L1Line) => !s.invalidates i e.1 e.2,
            teams := c.2.teams.map fun (t : Nat × Team) => (t.1, { t.2 with lanes := lanes t.2.lanes }),
            contexts := c.2.contexts.map fun (x : Nat × KeeperCtx) => (x.1, { x.2 with ag := i.again x.2.ag }) }) }
        { s with cmd := { s.cmd with invalWait := rest, invalDone := s.cmd.invalDone + 1#32 } })

def execInvalRange (asid va size : Nat) (s : State) : Outcome State Fault Refusal :=
  .next (if s.isOpen then s.startInval asid va size false else s)

def execInvalAll (asid : Nat) (s : State) : Outcome State Fault Refusal :=
  .next (if s.isOpen then s.startInval asid 0 0 true else s)

/-! ### Read indices and interrupts -/

/-- A write of a free-running read index (R389). -/
def nextRead (rd wr v : Word) : Word :=
  if (v - rd).toNat ≤ (wr - rd).toNat then v else if (v - rd).toNat < 2 ^ 31 then wr else rd

/-- A write of FQ_RD (R135, R389). -/
def State.writeFqRd (s : State) (v : Word) : State :=
  let s := { s with cmd := { s.cmd with fqRd := nextRead s.cmd.fqRd s.cmd.fqWr v } }
  s.fqDrain s.cmd.fqHeld.length

/-- A write of ELOG_RD of a die (R83, R389). -/
def State.writeElogRd (s : State) (die : Nat) (v : Word) : State :=
  s.modDieMem die fun d => { d with elogRd := nextRead d.elogRd d.elogWr v }

/-- A write of INT_MASK (R140): a message for every bit set whose mask is cleared. -/
def State.writeIntMask (s : State) (v : Word) : State :=
  let old := s.cmd.intMask
  let new : BitVec 6 := bits v 0 6
  let rises := (List.range 6).filter fun i => old.getLsbD i && !new.getLsbD i && s.cmd.intStat.getLsbD i
  { s with cmd := { s.cmd with intMask := new }, msix := s.msix ++ rises }

def execFqRdWrite (value : Word) (s : State) : Outcome State Fault Refusal :=
  .next (if s.isOpen then s.writeFqRd value else s)

def execElogRdWrite (die : Nat) (value : Word) (s : State) : Outcome State Fault Refusal :=
  .next (if s.isOpen && decide (die < 4) then s.writeElogRd die value else s)

def execIntMaskWrite (value : Word) (s : State) : Outcome State Fault Refusal :=
  .next (if s.isOpen then s.writeIntMask value else s)

end Sys2Proof.Machine
end

