-- ==== Sys2Proof/Machine/Dxb.lean ====
section
/-! DEFINITION. DXB blocks: the grids, the quantiser, and QDXB and DQDXB (R256 to R260, R314, R315). -/

namespace Sys2Proof.Machine

open Host (Outcome)

/-- The last MAG code of a format; the extra point follows it (R257, R259). -/
def dxbTop (four : Bool) : Nat := if four then 3 else 63

/-- The value of a MAG code in units of 2^−5 for DXB8 and of 1 for DXB4; one past the last is the extra point. -/
def dxbUnits (four : Bool) (c : Nat) : Nat := if four then c else if c < 8 then c else (8 + c % 8) * 2 ^ (c / 8 - 1)

/-- The exponent of a unit. -/
def dxbUnitExp (four : Bool) : Int := if four then 0 else -5

/-- A magnitude on the grid, as a fraction of units. -/
structure OnGrid where
  num : Nat
  den : Nat
  deriving DecidableEq, Repr

/-- The magnitude m × 2^e under the scale 2^x. -/
def OnGrid.of (four : Bool) (m : Nat) (e x : Int) : OnGrid :=
  let g := e - x - dxbUnitExp four
  { num := m * 2 ^ g.toNat, den := 2 ^ (-g).toNat }

/-- The largest code whose point is at most y. -/
def OnGrid.lo (four : Bool) (y : OnGrid) : Nat :=
  (List.range (dxbTop four + 2)).foldl (fun c i => if dxbUnits four i * y.den ≤ y.num then i else c) 0

/-- `near`: the nearest code, a tie to the even one (R259). -/
def OnGrid.near (four : Bool) (y : OnGrid) : Nat :=
  let c := y.lo four
  if dxbTop four < c then c
  else
    let mid := (dxbUnits four c + dxbUnits four (c + 1)) * y.den
    if 2 * y.num < mid || (2 * y.num = mid && c % 2 = 0) then c else c + 1

/-- The 24 discarded bits (R259). -/
def OnGrid.d (four : Bool) (y : OnGrid) : Nat :=
  let c := y.lo four
  (y.num - dxbUnits four c * y.den) * 2 ^ 24 / ((dxbUnits four (c + 1) - dxbUnits four c) * y.den)

/-- A quantised block: the scales, the codes, whether an element saturated. -/
structure DxbBlock where
  sa : Nat
  sb : Nat
  codes : List Nat
  sat : Bool
  deriving DecidableEq, Repr

/-- One element's choice of scale: y, SEL and its sign (R259). -/
structure DxbElem where
  y : OnGrid
  sel : Nat
  neg : Bool
  deriving DecidableEq, Repr

def dxbElem (four : Bool) (ea eb : Int) : Option FVal → DxbElem
  | some (.fin s m e) =>
    let y := OnGrid.of four m e eb
    if y.near four ≤ dxbTop four then { y := y, sel := 1, neg := s }
    else { y := OnGrid.of four m e ea, sel := 0, neg := s }
  | _ => { y := { num := 0, den := 1 }, sel := 0, neg := false }

/-- `quant_block` (R259): the inputs, none where the place is padding. -/
def quantBlock (four rs : Bool) (d : Nat) (xs : List (Option FVal)) : DxbBlock :=
  let bad := xs.any fun x => match x with
    | some .nan => true
    | some (.inf _) => true
    | _ => false
  let top : Option Int := xs.foldl (fun acc x => match x with
    | some (.fin _ m e) => if m = 0 then acc else
        let l : Int := Nat.log2 m + e
        match acc with
        | none => some l
        | some a => some (max a l)
    | _ => acc) none
  if bad then { sa := 0xFF, sb := 0xFF, codes := xs.map fun _ => 0, sat := false }
  else match top with
    | none => { sa := 0x7F, sb := 0x7F, codes := xs.map fun _ => 0, sat := false }
    | some l =>
      let ea := max (l - (if four then 1 else 4)) (-127)
      let eb := max (ea - d) (-127)
      let es := xs.map (dxbElem four ea eb)
      let ds := es.map fun e => e.y.d four
      let q := (List.range xs.length).zip es |>.map fun (i, e) =>
        if rs then
          if hash24 (ds.getD ((i + 31) % 32) 0) (ds.getD ((i + 1) % 32) 0) i < ds.getD i 0 then e.y.lo four + 1
          else e.y.lo four
        else e.y.near four
      let code := fun (c : Nat) (e : DxbElem) =>
        let c := min c (dxbTop four)
        if c = 0 then 0 else ((2 * e.sel + (if e.neg then 1 else 0)) * (dxbTop four + 1)) + c
      { sa := (ea + 127).toNat, sb := (eb + 127).toNat, codes := (q.zip es).map fun (c, e) => code c e,
        sat := q.any fun c => decide (dxbTop four < c) }

/-- The value of a code under its scales; NaN under the scale 0xFF (R257). -/
def dxbValue (four : Bool) (sa sb c : Nat) : FVal :=
  let n := dxbTop four + 1
  let s := if c / (2 * n) % 2 = 0 then sa else sb
  if s = 0xFF then .nan
  else if c % n = 0 then .fin false 0 0
  else .fin (c / n % 2 == 1) (dxbUnits four (c % n)) ((s : Int) - 127 + dxbUnitExp four)

/-- Codes packed into a word, the first lowest. -/
def packCodes (width : Nat) (cs : List Nat) : Word :=
  BitVec.ofNat 32 (cs.foldr (fun c acc => c + 2 ^ width * acc) 0)

/-- `n` consecutive places of a list. -/
def slice {α : Type} (xs : List α) (i n : Nat) : List α := (xs.drop i).take n

/-- The real-element count of QDXB (R314). -/
def qdxbCount (h : Hints) : Nat := (h.imm20.map BitVec.toNat).getD 32

def execQdxb (d a : BitVec 8) (x f h : BitVec 1) (p : BitVec 3) (s : State) : Outcome State Fault Refusal :=
  let n := qdxbCount s.ag.hints
  s.runWord (.qdxb d a x f h p)
    { hints := { imm20 := true, dxbd := true }, regs := regsUpTo [vn d + 8, vn a + 31],
      ok := decide (1 ≤ n) && decide (n ≤ 32) } fun s =>
    let xs := (List.range 32).map fun i => if i < n then some (f32.unpack (s.v (vn a + i)).toNat) else none
    let b := quantBlock (f == 1#1) (x == 1#1) ((s.ag.hints.dxbd.getD 6#4).toNat) xs
    let scales := BitVec.ofNat 32 (b.sa + 256 * b.sb)
    let s := if f = 0#1 then
        (s.setVs (vn d) ((List.range 8).map fun q => packCodes 8 (slice b.codes (4 * q) 4))).setV (vn d + 8) scales
      else
        let old := s.v (vn d + 8)
        let new := if h = 0#1 then (old &&& 0xFFFF0000#32) ||| scales else (old &&& 0xFFFF#32) ||| (scales <<< 16)
        (s.setVs (vn d + 4 * h.toNat) ((List.range 4).map fun q => packCodes 4 (slice b.codes (8 * q) 8))).setV
          (vn d + 8) new
    .done (s.setP p b.sat)

def execDqdxb (d a b : BitVec 8) (m : BitVec 1) (s : State) : Outcome State Fault Refusal :=
  let four := m == 1#1
  let n := if four then 8 else 4
  s.runWord (.dqdxb d a b m) { regs := regsUpTo [vn d + n - 1, vn a, vn b] } fun s =>
    let codes := s.v (vn a)
    let sc := s.v (vn b)
    .done (s.setVs (vn d) ((List.range n).map fun i =>
      s.ofF .rn (dxbValue four (bits sc 0 8).toNat (bits sc 8 8).toNat (codes.toNat / 2 ^ (32 / n * i) % 2 ^ (32 / n)))))

end Sys2Proof.Machine
end

