-- ==== Sys2Proof/Machine/Keeper.lean ====
section
/-! DEFINITION. The firmware context of a keeper core: the event queue, what it does for a record, and the delivery of
records to the routine contexts (R179 to R181, R214, R373). -/

namespace Sys2Proof.Machine

open Host (Outcome)

/-- EQ_RECORD_ENQUEUE (R179): the oldest record units hold enters the event queue when it has room. -/
def execEqRecordEnqueue (core : Nat) (s : State) : Outcome State Fault Refusal :=
  let k := s.core core
  .next (match k.eqHeld with
    | [] => s
    | r :: rest =>
      if k.eq.length < 256 && !k.deepIdle then
        (s.setCore core { k with eq := k.eq ++ [r], eqHeld := rest }).later [.event (.firmwareEvent core)]
      else s)

/-- The routine context of a launch on a core (R178). -/
def Core.routineOf (k : Core) (launch : Nat) : Option (Nat × KeeperCtx) :=
  List.find? (fun (e : Nat × KeeperCtx) => e.2.launch == some launch) k.contexts

/-- The fault record the firmware writes for an event record (R137, R180). DESIGN CHOICE, log entry 92: the record of a store
of a routine context names slot 0, and so as TEAM the team of that slot. -/
def State.eventFault (s : State) (core : Nat) (r : EventRec) (cause aux0 aux1 : Nat) : FaultRec :=
  { cause := cause, src := 0, die := dieOfCore core, core := core % 160,
    lane := if r.kind = 8 then 0xFFFF else r.lane.getD 0xFFFF,
    team := ((s.team core r.slot).map Team.number).getD 0xFFFFFFFF, aux0 := aux0, aux1 := aux1, addr := r.addr.toNat }

/-- A fault record written for an event record, unless it has been (R181). -/
def State.reportEvent (s : State) (core : Nat) (r : EventRec) (cause aux0 aux1 : Nat) : State :=
  if r.reported then s else s.sinkPut r.launch (s.eventFault core r cause aux0 aux1)

/-- The PAGEFAULT record of an engine unit (R135, R214). -/
def State.engineFault (s : State) (core : Nat) (o : EngineOp) (w : PageWait) : FaultRec :=
  let l := s.launch o.launch
  { cause := 3, src := 0, die := dieOfCore core, core := core % 160, lane := o.lane,
    team := ((s.team core o.slot).map Team.number).getD 0xFFFFFFFF, aux0 := (if w.write then 1 else 0) + 4, addr := w.addr,
    launch := (l.map fun l => bits l.record.doneSeq 0 32).getD 0#32, asid := o.asid,
    queue := (l.map Launch.queue).getD 0xFF }

/-- The slow path of an operation begun (R214, R215): a PAGEFAULT record for a translation fault, the end in error for
a poisoned sector. -/
def State.slowStart (s : State) (core : Nat) (r : EventRec) (o : EngineOp) : State :=
  match o.phase with
  | .slow u a w =>
    if o.slot != r.slot || some o.lane != r.lane || BitVec.ofNat 64 (u % 2 ^ 56) != r.addr then s
    else match w with
      | some w => s.notePage w (s.engineFault core o w)
      | none => s.failOp core o a 4 o.code
  | _ => s

/-- The slow path of a team's staging begun (R148, R214). -/
def State.slowStage (s : State) (core : Nat) (r : EventRec) : State :=
  match s.team core r.slot with
  | none => s
  | some t => match t.stage, s.launch t.launch with
    | some o, some l => match o.phase with
      | .slow u a w =>
        if r.lane.isSome || BitVec.ofNat 64 (u % 2 ^ 56) != r.addr then s
        else match w with
          | some w => s.notePage w (stagingFault core t l w)
          | none => s.stageFail core r.slot t l a
      | _ => s
    | _, _ => s

/-- The team a TEAMSTOP or BRK record holds, ended as by TKILL (R180, R181). -/
def State.endHeld (s : State) (core : Nat) (r : EventRec) : State :=
  match s.team core r.slot with
  | some t => if t.held && t.launch == r.launch then s.killTeam core r.slot else s
  | none => s

/-- The action of the firmware context on a record (R180): `alone` says that no routine context serves its launch. -/
def State.firmwareAct (s : State) (core : Nat) (r : EventRec) (alone : Bool) : State :=
  let status := r.status.toNat
  match r.kind with
  | 1 =>
    let s := s.reportEvent core r 2 status 0
    if alone then s.endHeld core r else s
  | 2 => if alone then (s.sinkPut r.launch (s.eventFault core r 2 0x17 0)).endHeld core r else s
  | 4 => s.reportEvent core r 4 (status % 256) 0
  | 5 => s.reportEvent core r 5 (status % 256) (status / 256)
  | 6 => s.reportEvent core r 6 (status % 256) 0
  | 7 => s.reportEvent core r 7 0 0
  | 8 => s.reportEvent core r 2 status 0
  | 9 => ((s.core core).ops.foldl (fun (s : State) (o : EngineOp) => s.slowStart core r o) s).slowStage core r
  | _ => s

/-- A context parked in IDLE goes on when a record is delivered (R373). -/
def Agent.unidle (a : Agent) : Agent := if a.status == .parked .idle then a.wake else a

/-- A record delivered to a routine context (R180). -/
def State.deliver (s : State) (core n : Nat) (r : EventRec) : State :=
  s.modCore core fun k => match k.contexts.find? n with
    | some x => { k with contexts := k.contexts.put n { x with ag := x.ag.unidle, records := x.records ++ [r] } }
    | none => k

/-- FIRMWARE_EVENT (R180): the oldest record of the event queue is taken, acted on and delivered. -/
def execFirmwareEvent (core : Nat) (s : State) : Outcome State Fault Refusal :=
  let k := s.core core
  .next (match k.eq with
    | [] => s
    | r :: rest =>
      let ctx := k.routineOf r.launch
      let s := (s.setCore core { k with eq := rest }).firmwareAct core r ctx.isNone
      let s := match ctx with
        | some (n, _) => if r.kind = 9 || r.reported then s else s.deliver core n r
        | none => s
      let s := s.later [.event (.slotRelease core r.slot)]
      if k.eqHeld.isEmpty then s else s.later [.event (.eqRecordEnqueue core)])

end Sys2Proof.Machine
end

