-- ==== Sys2Proof/Machine/Matrix.lean ====
section
/-! DEFINITION. The matrix engine and the accumulator tiles: MMA, ACLD, ACST, ACZ, ACQ, ACFLG and their events (R184,
R216 to R218, R262 to R265, R278, R345 to R350). -/

namespace Sys2Proof.Machine

open Host (Outcome)

/-! ### Tiles -/

/-- A word of a team's tile (R184). -/
def Team.acsWord (t : Team) (tile m n : Nat) : Word := NMap.get 0#32 t.acs (4096 * tile + 64 * m + n)

def Team.setAcs (t : Team) (tile m n : Nat) (x : Word) : Team :=
  { t with acs := NMap.set 0#32 t.acs (4096 * tile + 64 * m + n) x }

/-- Tiles of a team's grant (R143, R184). -/
def Team.tileCount (t : Team) : Nat := (t.groups + 7) / 8

def State.grant (s : State) : Nat := (s.myTeam.map Team.tileCount).getD 0

/-- The flag word of a tile: INF, SAT, NAN (R184). -/
def Team.flags (t : Team) (tile : Nat) : BitVec 3 := NMap.get 0#3 t.acsFlags tile

def Team.setFlags (t : Team) (tile : Nat) (f : BitVec 3) : Team := { t with acsFlags := NMap.set 0#3 t.acsFlags tile f }

/-- The tile an operation of the matrix queue names. -/
def OpKind.tile? : OpKind → Option Nat
  | .mma b _ _ => some b.tile
  | .acq b => some b.tile
  | _ => none

/-- Operations of a team that name a tile and have not completed. -/
def State.tileOps (s : State) (c slot tile : Nat) : List EngineOp :=
  (s.core c).ops.filter fun (o : EngineOp) => o.slot == slot && o.kind.tile? == some tile

/-! ### Operands -/

/-- Registers of one operand of a shape (R278). -/
def shapeRegs (shape : Nat) : Nat := if shape ≤ 1 then 9 else 8

/-- The K of a shape (R262). -/
def shapeK (shape : Nat) : Nat :=
  match shape with
  | 0 => 32
  | 1 => 64
  | 2 => 32
  | 3 => 16
  | 4 => 16
  | _ => 256

/-- Bits of an element of a shape. -/
def shapeBits (shape : Nat) : Nat := 256 / shapeK shape

/-- Element k of the registers of an operand lane, raw (R278). -/
def rawElem (shape : Nat) (rs : List Word) (k : Nat) : Nat :=
  let w := shapeBits shape
  (rs.getD (k * w / 32) 0#32).toNat / 2 ^ (k * w % 32) % 2 ^ w

/-- Element k of an operand lane as a value (R257, R278). -/
def elemValue (shape : Nat) (rs : List Word) (k : Nat) : FVal :=
  let x := rawElem shape rs k
  let sc := (rs.getD 8 0#32).toNat / 2 ^ (if shape = 1 then 16 * (k / 32) else 0)
  match shape with
  | 0 => dxbValue false (sc % 256) (sc / 256 % 256) x
  | 1 => dxbValue true (sc % 256) (sc / 256 % 256) x
  | 2 => if x < 128 then .fin false x 0 else .fin true (256 - x) 0
  | 3 => bf16.unpack x
  | 4 => f16.unpack x
  | _ => .fin false x 0

/-- The registers r to r + n − 1 of an operand's 64 lanes: zeros for a lane that does not exist (R278, R347). `was` gives
the value before of the register the MMA's own number went to. -/
def Team.operand (t : Team) (g r n issuer : Nat) (was : Nat × Word) : List (List Word) :=
  (List.range 64).map fun i =>
    match t.lanes.find? (8 * g + i) with
    | some a => (List.range n).map fun k => if 8 * g + i = issuer ∧ r + k = was.1 then was.2 else a.reg (r + k)
    | none => List.replicate n 0#32

/-! ### One accumulator -/

/-- An accumulator's new word and the flags it sets (R264). -/
structure AccStep where
  word : Word
  flags : BitVec 3
  deriving DecidableEq, Repr

/-- An FP32 accumulator takes a chunk sum (R264). -/
def accF32 (acc : Word) (s : FVal) : AccStep :=
  let a := f32.unpack acc.toNat
  let r := f32.pack .rn false (a.add .rn s)
  let v := f32.unpack r
  { word := BitVec.ofNat 32 r,
    flags := if v.isNan then 4#3 else if v.isInf && !a.isInf && !s.isInf then 1#3 else 0#3 }

/-- A BF16 accumulator, in bits 31:16 of its word, takes a chunk sum (R264). -/
def accBf16 (acc : Word) (s : FVal) : AccStep :=
  let r := bf16.pack .rn false ((bf16.unpack (bits acc 16 16).toNat).add .rn s)
  match bf16.unpack r with
  | .nan => { word := 0x7FC00000#32, flags := 4#3 }
  | .inf n => { word := BitVec.ofNat 32 (bf16.signed n 0x7F7F * 65536), flags := 2#3 }
  | _ => { word := BitVec.ofNat 32 (r * 65536), flags := 0#3 }

/-- An INT32 accumulator takes an integer sum, clamped (R264). -/
def accInt (acc : Word) (s : Int) : AccStep :=
  let x := acc.toInt + s
  let y := max (-2147483648) (min 2147483647 x)
  { word := BitVec.ofInt 32 y, flags := if x = y then 0#3 else 2#3 }

/-- The integer a finite value stands for. -/
def FVal.toInt : FVal → Int
  | .fin s m e => scaled s m e 0
  | _ => 0

/-- The accumulator (m, n) after one MMA (R262 to R265). -/
def accStep (b : MmaBlock) (acc : Word) (ra rb : List Word) : AccStep :=
  let k := shapeK b.shape
  let pair := fun i => (elemValue b.shape ra i, elemValue b.shape rb i)
  if b.semi = 1 ∨ b.semi = 2 then
    let ts := (List.range k).map fun i =>
      let p := pair i
      let x := if b.semi = 1 then p.1.add .rn p.2 else p.1.mul p.2
      (f32.pack .rn false x, x.isInf)
    let w := ts.foldl (fun a t => f32.minMax (b.semi == 2) a t.1) acc.toNat
    { word := BitVec.ofNat 32 w,
      flags := (if (f32.unpack w).isNan then 4#3 else 0#3) ||| (if ts.any fun t => (f32.unpack t.1).isInf && !t.2 then 1#3 else 0#3) }
  else if b.semi = 3 then
    accInt acc ((List.range k).filter fun i => rawElem 5 ra i = 1 && rawElem 5 rb i = 1).length
  else
    let ps := (List.range k).map fun i => (pair i).1.mul (pair i).2
    if b.shape = 2 then
      let s : Int := (ps.map FVal.toInt).sum
      if b.acc = 1 then accInt acc s else accF32 acc (.fin (decide (s < 0)) s.natAbs 0)
    else
      let s := if b.shape ≤ 1 then FVal.sum ps else FVal.windowSum ps
      if b.acc = 2 then accBf16 acc s else accF32 acc s

/-- The identity of a semiring (R265). -/
def semiIdentity (semi : Nat) : Word :=
  match semi with
  | 1 => 0x7F800000#32
  | 2 => 0xFF800000#32
  | _ => 0#32

/-- The tile after an MMA (R216). -/
def Team.mma (t : Team) (b : MmaBlock) (ra rb : List (List Word)) : Team :=
  (List.range 64).foldl (fun t m => (List.range 64).foldl (fun t n =>
    let acc := if b.init then semiIdentity b.semi else t.acsWord b.tile m n
    let r := accStep b acc (ra.getD m []) (rb.getD n [])
    (t.setAcs b.tile m n r.word).setFlags b.tile (t.flags b.tile ||| r.flags)) t) t

/-! ### MMA -/

/-- The fields of an MMA parameter block (R346). -/
def mmaBlock (bs : List Byte) : MmaBlock :=
  { shape := fieldAt bs 0 1, semi := fieldAt bs 1 1, acc := fieldAt bs 2 1, init := fieldAt bs 3 1 == 1,
    ga := fieldAt bs 4 1, ra := fieldAt bs 5 1, gb := fieldAt bs 6 1, rb := fieldAt bs 7 1, tile := fieldAt bs 8 1 }

/-- The combinations of shape, semiring and accumulator that an MMA accepts (R262, R346). -/
def mmaKindOk (b : MmaBlock) : Bool :=
  match b.semi with
  | 0 => match b.shape with
    | 0 | 1 | 3 | 4 => b.acc == 0 || b.acc == 2
    | 2 => b.acc == 0 || b.acc == 1
    | _ => false
  | 1 | 2 => b.shape == 3 && b.acc == 0
  | 3 => b.shape == 5 && b.acc == 1
  | _ => false

/-- The block breaks no limit (R278, R346). -/
def mmaOk (bs : List Byte) (groups reach : Nat) : Bool :=
  let b := mmaBlock bs
  let n := shapeRegs b.shape
  mmaKindOk b && decide (fieldAt bs 3 1 ≤ 1) && fieldAt bs 9 3 == 0 && fieldAt bs 16 48 == 0
    && b.ga % 8 == 0 && b.gb % 8 == 0 && decide (b.ga < groups) && decide (b.gb < groups)
    && decide (b.ra + n ≤ reach) && decide (b.rb + n ≤ reach)

/-- A parameter block of the matrix queue: its place checked, its barrier, its tile (R335). -/
def State.matrixIssue (s : State) (a : BitVec 8) (size : Nat) (barOff : Nat) (tileOff : Nat)
    (f : State → List Byte → Option (Nat × Nat) → Res) : Res :=
  let ta := s.v (vn a)
  let bs := s.tmBytes ta.toNat size
  let h := BitVec.ofNat 32 (fieldAt bs barOff 4)
  checks [(s.tmRange ta.toNat size, .access, ta.setWidth 64), (ta.toNat % size == 0, .align, ta.setWidth 64)]
    (let go := fun (bar : Option (Nat × Nat)) =>
      if s.grant ≤ fieldAt bs tileOff 1 then .trap .acsTile 0#64 else f s bs bar
     if h = 0xFFFFFFFF#32 then go none
     else match s.validBarrier h with
       | none => .trap .barHandle (h.setWidth 64)
       | some bar => go (some bar))

/-- A lane whose registers an MMA reads has a load that has not returned: its value is to arrive before the MMA reads it
(R347). -/
def State.operandOut (s : State) (b : MmaBlock) : Bool :=
  (s.myTeam.map fun t => t.lanes.any fun (e : Nat × Agent) =>
    ([b.ga, b.gb].any fun g => decide (8 * g ≤ e.1) && decide (e.1 < 8 * g + 64)) && !e.2.netIds.isEmpty).getD false

/-- A lane whose registers an MMA reads stands between the parts of an instruction (R247, R347). -/
def State.operandMid (s : State) (b : MmaBlock) : Bool :=
  (s.myTeam.map fun t => t.lanes.any fun (e : Nat × Agent) =>
    ([b.ga, b.gb].any fun g => decide (8 * g ≤ e.1) && decide (e.1 < 8 * g + 64)) && e.2.status.isMid
      && AgentRef.lane s.coreNo s.home.1 e.1 != s.cur).getD false

def execMma (d a : BitVec 8) (p : BitVec 3) (s : State) : Outcome State Fault Refusal :=
  s.runWord (.mma d a p) { regs := regsUpTo [vn d, vn a], tad := false, keeper := false } fun s =>
    s.inOrder fun s => s.matrixIssue a 64 12 8 fun s bs bar =>
      if !mmaOk bs ((s.myTeam.map Team.groups).getD 0) s.reach then .trap .engArg 0#64
      else if s.queueFull s.coreNo 2 then refused s p
      else if s.operandOut (mmaBlock bs) then .peer s
      else if s.operandMid (mmaBlock bs) then .again s
      else
        let s := s.enqueue 2 p (some (vn d)) (s.newOp (.mma (mmaBlock bs) (vn d, s.v (vn d)) none) bar)
        .done (s.first [.event (.mmaOperandRead s.coreNo s.ag.eseqLast.toNat)])

/-- MMA_OPERAND_READ (R217, R347). -/
def execMmaOperandRead (core seq : Nat) (s : State) : Outcome State Fault Refusal :=
  .next (match s.eventOp core seq true with
    | none => s
    | some o =>
      match o.kind, s.opTeam core o with
      | .mma b was none, some t =>
        let n := shapeRegs b.shape
        let regs := (t.operand b.ga b.ra n o.lane was, t.operand b.gb b.rb n o.lane was)
        (s.modOp core 2 o.seq fun o => { o with kind := .mma b was (some regs) }).later
          [.event (.mmaComplete core seq)]
      | _, _ => s)

/-- No earlier operation of the team on the tile is left (R216). -/
def State.tileTurn (s : State) (c : Nat) (o : EngineOp) (tile : Nat) : Bool :=
  match s.tileOps c o.slot tile with
  | x :: _ => x.seq == o.seq
  | [] => false

/-- MMA_COMPLETE (R216, R347): in its turn on its tile, the tile takes the chunk and the barrier its arrival. -/
def execMmaComplete (core seq : Nat) (s : State) : Outcome State Fault Refusal :=
  .next (match s.eventOp core seq true with
    | none => s
    | some o =>
      match o.kind, o.phase with
      | .mma b _ (some (ra, rb)), .running =>
        if s.tileTurn core o b.tile then
          (s.modTeam core o.slot fun t => t.mma b ra rb).finishOp core o 0 o.ets
        else s
      | _, _ => s)

/-! ### ACLD, ACST, ACZ, ACFLG -/

/-- A location register taken apart: tile, row, first column (R348). -/
def acsPlace (x : Word) : Nat × Nat × Nat := ((bits x 0 6).toNat, (bits x 6 6).toNat, (bits x 12 6).toNat)

/-- The checks of the words that act on a tile at once, which first wait for earlier operations on it (R348). -/
def State.onTile (s : State) (a : BitVec 8) (c : Option Nat) (f : Nat → Nat → Nat → Res) : Res :=
  let p := acsPlace (s.v (vn a))
  if s.grant ≤ p.1 then .trap .acsTile 0#64
  else if (match c with
      | some c => decide (64 < p.2.2 + c)
      | none => false) then .trap .engArg 0#64
  else if !(s.tileOps s.coreNo s.home.1 p.1).isEmpty then .peer s
  else f p.1 p.2.1 p.2.2

def execAcld (d a : BitVec 8) (c : BitVec 4) (s : State) : Outcome State Fault Refusal :=
  let n := c.toNat + 1
  s.runWord (.acld d a c) { regs := regsUpTo [vn d + n - 1, vn a], tad := false, keeper := false } fun s =>
    s.onTile a (some n) fun tile m n0 =>
      .done (s.modMyTeam fun t => (List.range n).foldl (fun t k => t.setAcs tile m (n0 + k) (s.v (vn d + k))) t)

def execAcst (d a : BitVec 8) (c : BitVec 4) (s : State) : Outcome State Fault Refusal :=
  let n := c.toNat + 1
  s.runWord (.acst d a c) { regs := regsUpTo [vn d + n - 1, vn a], tad := false, keeper := false } fun s =>
    s.onTile a (some n) fun tile m n0 =>
      .done (s.setVs (vn d) ((List.range n).map fun k =>
        (s.myTeam.map fun t => t.acsWord tile m (n0 + k)).getD 0#32))

def execAcz (a : BitVec 8) (s : State) : Outcome State Fault Refusal :=
  s.runWord (.acz a) { regs := regsUpTo [vn a], tad := false, keeper := false } fun s =>
    s.onTile a none fun tile _ _ =>
      .done (s.modMyTeam fun t =>
        { t with acs := t.acs.filter fun (e : Nat × Word) => e.1 / 4096 ≠ tile }.setFlags tile 0#3)

def execAcflg (d a : BitVec 8) (s : State) : Outcome State Fault Refusal :=
  s.runWord (.acflg d a) { regs := regsUpTo [vn d, vn a], tad := false, keeper := false } fun s =>
    s.onTile a none fun tile _ _ =>
      .done (s.setV (vn d) (((s.myTeam.map fun t => t.flags tile).getD 0#3).setWidth 32))

/-! ### ACQ -/

/-- The fields of an ACQ block (R349). -/
def acqBlock (bs : List Byte) (d : Nat) : AcqBlock :=
  { dxb4 := fieldAt bs 0 1 == 1, rs := fieldAt bs 1 1 == 1, acc := fieldAt bs 2 1, tile := fieldAt bs 3 1,
    row0 := fieldAt bs 4 1, nrows := fieldAt bs 5 1, extent := fieldAt bs 6 1, codes := fieldAt bs 8 4,
    scales := fieldAt bs 12 4, satAddr := if fieldAt bs 20 4 = 0xFFFFFFFF then none else some (fieldAt bs 20 4), d := d }

/-- The block breaks no limit (R349, R350). -/
def acqOk (bs : List Byte) : Bool :=
  let b := acqBlock bs 6
  decide (fieldAt bs 0 1 ≤ 1) && decide (fieldAt bs 1 1 ≤ 1) && decide (b.acc ≤ 2) && decide (b.row0 ≤ 63)
    && decide (1 ≤ b.nrows) && decide (b.nrows ≤ 64) && decide (b.row0 + b.nrows ≤ 64) && decide (1 ≤ b.extent)
    && decide (b.extent ≤ 64) && fieldAt bs 7 1 == 0 && fieldAt bs 24 8 == 0

/-- Blocks of a row, and bytes of a row of codes (R350). -/
def AcqBlock.nb (b : AcqBlock) : Nat := (b.extent + 31) / 32

def AcqBlock.rowBytes (b : AcqBlock) : Nat := (if b.dxb4 then 16 else 32) * b.nb

def execAcq (d a : BitVec 8) (p : BitVec 3) (s : State) : Outcome State Fault Refusal :=
  s.runWord (.acq d a p)
    { hints := { dxbd := true }, regs := regsUpTo [vn d, vn a], tad := false, keeper := false } fun s =>
    s.inOrder fun s => s.matrixIssue a 32 16 3 fun s bs bar =>
      let b := acqBlock bs (s.ag.hints.dxbd.getD 6#4).toNat
      let sat := b.satAddr.getD 0
      checks [(acqOk bs, .engArg, 0#64),
              (s.tmRange b.codes (b.nrows * b.rowBytes), .access, BitVec.ofNat 64 b.codes),
              (s.tmRange b.scales (2 * b.nrows * b.nb), .access, BitVec.ofNat 64 b.scales),
              (b.satAddr.isNone || s.tmRange sat 4, .access, BitVec.ofNat 64 sat),
              (b.codes % 16 == 0, .align, BitVec.ofNat 64 b.codes),
              (b.scales % 2 == 0, .align, BitVec.ofNat 64 b.scales),
              (sat % 4 == 0, .align, BitVec.ofNat 64 sat)]
        (if s.queueFull s.coreNo 2 then refused s p
         else
           let s := s.enqueue 2 p (some (vn d)) (s.newOp (.acq b) bar)
           .done (s.later [.event (.acqComplete s.coreNo s.ag.eseqLast.toNat)]))

/-- An accumulator read exactly by its kind (R350). -/
def accValue (acc : Nat) (w : Word) : FVal :=
  match acc with
  | 0 => f32.unpack w.toNat
  | 1 => .fin (decide (w.toInt < 0)) w.toInt.natAbs 0
  | _ => bf16.unpack (bits w 16 16).toNat

/-- The block j of row ρ of an ACQ (R350). -/
def Team.acqQuant (t : Team) (b : AcqBlock) (row j : Nat) : DxbBlock :=
  quantBlock b.dxb4 b.rs b.d ((List.range 32).map fun i =>
    if 32 * j + i < b.extent then some (accValue b.acc (t.acsWord b.tile (b.row0 + row) (32 * j + i))) else none)

/-- The team memory and the saturation count after an ACQ (R350). -/
def Team.acqWrite (t : Team) (b : AcqBlock) : Team :=
  let cells := (List.range b.nrows).flatMap fun row => (List.range b.nb).map fun j => (row, j)
  let r := cells.foldl (fun (acc : NMap Byte × Nat) x =>
    let q := t.acqQuant b x.1 x.2
    let codes := packElems (if b.dxb4 then 4 else 8) q.codes
    let tm := putBytes acc.1 (b.codes + x.1 * b.rowBytes + x.2 * b.rowBytes / b.nb) codes
    let tm := putBytes tm (b.scales + 2 * (x.1 * b.nb + x.2)) [BitVec.ofNat 8 q.sa, BitVec.ofNat 8 q.sb]
    (tm, if q.sat then acc.2 + 1 else acc.2)) (t.tm, 0)
  { t with tm := match b.satAddr with
      | some a => putBytes r.1 a (leBytes 4 r.2)
      | none => r.1 }

/-- ACQ_COMPLETE (R350). -/
def execAcqComplete (core seq : Nat) (s : State) : Outcome State Fault Refusal :=
  .next (match s.eventOp core seq true with
    | none => s
    | some o =>
      match o.kind, o.phase with
      | .acq b, .running =>
        if s.tileTurn core o b.tile then
          (s.modTeam core o.slot fun t => t.acqWrite b).finishOp core o (b.nrows * (b.rowBytes + 2 * b.nb)) o.ets
        else s
      | _, _ => s)

end Sys2Proof.Machine
end

