-- ==== Sys2Proof/Machine/Scoreboard.lean ====
section
/-! DEFINITION. The scoreboard: the v registers and the ACS tile an instruction names, and whether they hold a lane back
(R149, R217, R277). -/

namespace Sys2Proof.Machine

/-- The v registers a word names, as first registers and counts, with the pending set of its lane (R277). Where a tensor
shape record gives the number of coordinates, every register it could name. -/
def named (h : Hints) : Instr → List (Nat × Nat)
  | .iadd d a b | .isub d a b | .imul d a b | .imulh d a b _ | .imin d a b _ | .imax d a b _ | .iand d a b
    | .ior d a b | .ixor d a b | .ishl d a b | .ishr d a b | .isar d a b | .irol d a b | .ibfx d a b _
    | .ibfi d a b | .isel _ d a b _ | .vshfl d a b _ | .fadd _ d a b | .fsub _ d a b
    | .fdiv _ d a b | .fmul _ d a b | .fmin d a b | .fmax d a b | .hadd2 d a b _ | .hmul2 d a b _
    | .hmin2 d a b _ | .hmax2 d a b _ =>
    [(vn d, 1), (vn a, 1), (vn b, 1)]
  | .iaddi d a _ | .iandi d a _ | .iori d a _ | .ixori d a _ | .ishli d a _ | .ishri d a _ | .isari d a _
    | .inot d a | .iabs d a | .ipopc d a | .iclz d a | .ibrev d a | .mov d a | .frnd d a _ | .fclass d a
    | .frcp d a | .fsqrt d a _ | .frsq d a | .fexp2 d a | .flog2 d a | .ldtSigned d a _ _ | .barrReg d a
    | .bexp d a | .btest d a _ | .bsnnew d a _ | .bsnfill d a _ | .mma d a _ | .acq d a _ | .acflg d a =>
    [(vn d, 1), (vn a, 1)]
  | .vmatch d a b m => [(vn d, 1), (vn a, if m = 1#1 then 2 else 1), (vn b, 1)]
  | .imad d a b | .ffma _ d a b | .hfma2 d a b _ =>
    [(vn d, 1), (vn a, 1), (vn b, 1), (vn (h.c4.getD d), 1)]
  | .iadd64 d a b | .isub64 d a b | .imul64 d a b | .dadd d _ a b | .dsub d _ a b | .dmul d _ a b
    | .ddiv d _ a b | .dmin d a b | .dmax d a b =>
    [(pn d, 2), (pn a, 2), (pn b, 2)]
  | .lea d _ a b _ =>
    [(pn d, 2), (pn a, 2), (vn b, 1)]
  | .movi d _ | .pget d | .jmask d _ | .balloc d _ _ =>
    [(vn d, 1)]
  | .movk d _ =>
    [(pn d, 2)]
  | .icmp t _ _ a b =>
    let w := if t.getLsbD 1 then 2 else 1
    [(vn a, w), (vn b, w)]
  | .icmpi t _ _ a _ =>
    [(vn a, if t.getLsbD 1 then 2 else 1)]
  | .pset a | .brx a | .callx _ a | .bref a | .bfree a | .barr a _ | .bwait a _ | .bsnrel a _ | .bsnfree a
    | .gath a _ | .scat a _ | .acz a | .trel a _ | .tkill a _ =>
    [(vn a, 1)]
  | .vbal d _ _ b | .vred d _ _ b | .vscan d _ _ b =>
    [(vn d, 1), (vn b, 1)]
  | .vvote _ _ _ b _ | .elect _ b =>
    [(vn b, 1)]
  | .fcmp _ _ a b | .hcmp2 _ _ _ a b =>
    [(vn a, 1), (vn b, 1)]
  | .dcmp _ _ a b =>
    [(pn a, 2), (pn b, 2)]
  | .fmovm d a t _ =>
    let w := if t = 1#2 then 2 else 1
    [(vn d, w), (vn a, w)]
  | .dsqrt d a _ | .drnd d a _ | .clcnt d a =>
    [(pn d, 2), (pn a, 2)]
  | .dfma d _ a b =>
    [(pn d, 2), (pn a, 2), (pn b, 2), ((h.c4.map BitVec.toNat).getD (pn d), 2)]
  | .cvt _ d a t s | .cvtd _ d a t s =>
    [(vn d, if cvtWide t.toNat then 2 else 1), (vn a, if cvtWide s.toNat then 2 else 1)]
  | .drel d a b =>
    [(vn d, 1), (pn a, 2), (pn b, 2)]
  | .qdxb d a _ _ _ _ =>
    [(vn d, 9), (vn a, 32)]
  | .dqdxb d a b m =>
    [(vn d, if m = 1#1 then 8 else 4), (vn a, 1), (vn b, 1)]
  | .ld d a z _ | .st d a z _ =>
    [(vn d, sizeRegs z.toNat), (pn a, 2)]
  | .ldSigned d a _ _ | .moor d a _ | .unmoor d a | .clgrow d a _ | .frclr d a | .pooladd d a _ =>
    [(vn d, 1), (pn a, 2)]
  | .ldt d a z _ | .stt d a z _ =>
    [(vn d, sizeRegs z.toNat), (vn a, 1)]
  | .xld d a b | .xst d a b =>
    [(vn d, 2), (vn a, 7), (pn b, 2)]
  | .cflush a | .cinv a | .wopen a _ =>
    [(pn a, 2)]
  | .atom d a o z m | .red d a o z m =>
    [(vn d, atomRegs z), (vn a, if m = 0#1 then 2 else 1), (h.creg, if o = 9#4 then atomRegs z else 0)]
  | .atomf d a _ z m | .redf d a _ z m =>
    [(vn d, atomRegs z), (vn a, if m = 0#1 then 2 else 1)]
  | .waitc d a _ z =>
    [(vn d, atomRegs z), (pn a, 2)]
  | .bsnpost d a _ =>
    [(pn d, 2), (vn a, 1)]
  | .brdhLin d a _ _ =>
    [(vn d, 1), (pn a, 2), (h.creg, 1), (4 * (h.payload / 4096 % 64), 4)]
  | .brdhTen d a _ _ =>
    [(vn d, 1), (pn a, 2), (h.creg, 7), (4 * (h.payload / 4096 % 64), 4)]
  | .tcpy d a _ _ | .twb d a _ =>
    [(vn d, 1), (pn a, 2), (h.creg, 7), (h.payload % 256, 1)]
  | .acld d a c | .acst d a c =>
    [(vn d, c.toNat + 1), (vn a, 1)]
  | .wapp d a _ | .wtake d a _ | .clstat d a | .rslv d a _ =>
    [(qn d, 4), (pn a, 2)]
  | .clins d a _ | .clrem d a _ =>
    [(vn d, 8), (pn a, 2)]
  | .clnext d a _ =>
    [(vn d, 8), (pn a, 2), (h.creg, 2)]
  | .frag d a _ | .frrd d a =>
    [(vn d, 7), (pn a, 2)]
  | .poolst d a =>
    [(vn d, 6), (pn a, 2)]
  | .isect d a =>
    [(vn d, 32), (pn a, 2)]
  | .isnext d =>
    [(vn d, 32)]
  | .tcov d =>
    [(vn d, 14)]
  | .mfs d n =>
    [(vn d, if sysWide n then 2 else 1)]
  | .mts d _ =>
    [(vn d, 2)]
  | .evpop d _ | .evpeek d _ =>
    [(qn d, 4)]
  | _ => []

/-- The location register of a word that acts on a tile at once (R348). -/
def tileReg : Instr → Option Nat
  | .acld _ a _ | .acst _ a _ | .acz a | .acflg _ a => some (vn a)
  | _ => none

/-- A word names a register that a value is still to arrive in (R277). -/
def Agent.regsHeld (a : Agent) (i : Instr) : Bool :=
  (named a.hints i).any fun x => a.held.any fun r => decide (x.1 ≤ r) && decide (r < x.1 + x.2)

/-- A word names a tile that an earlier operation of its team still uses (R217, R277). -/
def Core.tileHeld (k : Core) (slot : Nat) (a : Agent) (i : Instr) : Bool :=
  match tileReg i with
  | none => false
  | some r => k.ops.any fun (o : EngineOp) => o.slot == slot && o.kind.tile? == some (acsPlace (a.reg r)).1

/-- The scoreboard lets a lane issue its next word: it holds back none of its registers and tiles (R149). -/
def Core.lets (k : Core) (slot : Nat) (a : Agent) : Bool :=
  if a.held.isEmpty && k.ops.isEmpty then true
  else match a.wordAt a.pc with
    | none => true
    | some w => !a.regsHeld (instrOfWord w) && !k.tileHeld slot a (instrOfWord w)

end Sys2Proof.Machine
end

