-- ==== Sys2Proof/Machine/Issue.lean ====
section
/-! DEFINITION. The berths: which lanes are ready, the bundle a berth forms, the issue ramp, the broadcast fetch and the
loop buffers, the releases of the scoreboard, the waits that end by time, and deep idle (R33, R34, R149, R150, R164,
R165, R174, R195, R277, R295). -/

namespace Sys2Proof.Machine

open Host (Outcome)

/-! ### Ready lanes -/

/-- A lane that the conditions of R149 other than its word and the scoreboard let issue. -/
def Agent.mayIssue (a : Agent) : Bool := a.status == .ready && a.pendTrap.isNone && a.yieldUntil.isNone

/-- A lane that the conditions of R149 other than the scoreboard let issue. -/
def Agent.isReady (a : Agent) : Bool := a.mayIssue && (a.wordAt a.pc).isSome

/-- A lane that waits for its word (R164). -/
def Agent.fetchWaits (a : Agent) : Bool := a.mayIssue && (a.wordAt a.pc).isNone

/-- A ready lane of a team slot, or of a tadpole whose issuer has it (R149). -/
def Core.readyLane (k : Core) (slot : Nat) (a : Agent) : Bool := a.isReady && k.lets slot a

/-- Whether the thread a reference names is ready (R149). -/
def State.readyNow (s : State) (r : AgentRef) (a : Agent) : Bool :=
  match r with
  | .lane c slot _ => (s.core c).readyLane slot a
  | .tad c n _ => (s.core c).readyLane ((((s.core c).tads.find? n).map Tadpole.slot).getD 0) a
  | _ => false

/-- A lane of a berth: its thread, its team slot, or its issuer's for a tadpole, its bulk read, its number. -/
structure Member where
  ref : AgentRef
  slot : Nat
  seq : Option Word
  lane : Nat
  launch : Nat
  ag : Agent
  deriving DecidableEq, Repr

/-- The lanes of the teams of a core on a berth that `f` holds of (R144). -/
def Core.teamMembers (k : Core) (c b : Nat) (f : Team → Bool) : List Member :=
  k.teams.flatMap fun (t : Nat × Team) =>
    if f t.2 then t.2.lanes.filterMap fun (l : Nat × Agent) =>
      if t.2.groupBerth (l.1 / 8) = b then
        some { ref := .lane c t.1 l.1, slot := t.1, seq := none, lane := l.1, launch := t.2.launch, ag := l.2 }
      else none
    else []

/-- The lanes of the tadpoles of a berth: slot s issues on berth s mod 16 (R150). -/
def Core.tadMembers (k : Core) (c b : Nat) : List Member :=
  k.tads.flatMap fun (t : Nat × Tadpole) =>
    if t.1 % 16 = b then t.2.lanes.map fun (l : Nat × Agent) =>
      { ref := .tad c t.1 l.1, slot := t.2.slot, seq := some t.2.seq, lane := l.1,
        launch := ((k.teams.find? t.2.slot).map Team.launch).getD 0, ag := l.2 }
    else []

/-- The lanes of a berth that may issue: those of running teams and of tadpoles (R150, R153, R176). -/
def Core.members (k : Core) (c b : Nat) : List Member := k.teamMembers c b Team.runs ++ k.tadMembers c b

/-- Every lane of a berth, those of stopped and held teams among them (R164). -/
def Core.onBerth (k : Core) (c b : Nat) : List Member := k.teamMembers c b (fun _ => true) ++ k.tadMembers c b

/-! ### Bundles -/

/-- A candidate of a berth (R150). -/
structure Cand where
  tad : Bool
  slot : Nat
  pc : DWord
  refs : List AgentRef
  starving : Bool
  age : Nat
  deriving DecidableEq, Repr

/-- The largest wait among some lanes. -/
def maxWait (ms : List Member) : Nat := (ms.map fun m => m.ag.wait).foldl max 0

/-- Some lane starves (R149). -/
def anyStarving (ms : List Member) : Bool := ms.any fun m => m.ag.starving

/-- Whether a group is kept before another (R150). -/
def groupBefore (ms : List Member) (g h : Nat) : Bool :=
  let x := ms.filter fun m => m.lane / 8 = g
  let y := ms.filter fun m => m.lane / 8 = h
  match anyStarving x, anyStarving y with
  | true, false => true
  | false, true => false
  | true, true => decide (maxWait y < maxWait x) || (maxWait x == maxWait y && decide (g < h))
  | false, false => decide (y.length < x.length) || (x.length == y.length && decide (g < h))

def insertGroup (ms : List Member) (g : Nat) : List Nat → List Nat
  | [] => [g]
  | h :: hs => if groupBefore ms g h then g :: h :: hs else h :: insertGroup ms g hs

/-- The candidate of a team's lanes at one address: at most four groups (R150). -/
def teamCand (ms : List Member) (slot : Nat) (pc : DWord) : Cand :=
  let gs := (((ms.map fun m => m.lane / 8).dedup).foldr (insertGroup ms) []).take 4
  let kept := ms.filter fun m => gs.contains (m.lane / 8)
  { tad := false, slot := slot, pc := pc, refs := kept.map Member.ref, starving := anyStarving kept, age := maxWait kept }

/-- The candidate of the tadpoles of a bulk read at one address: at most four (R150). -/
def tadCand (ms : List Member) (slot : Nat) (pc : DWord) : Cand :=
  let kept := ms.take 32
  { tad := true, slot := slot, pc := pc, refs := kept.map Member.ref, starving := anyStarving kept, age := maxWait kept }

/-- The candidates of a berth (R150). -/
def Core.candidates (k : Core) (c b : Nat) : List Cand :=
  let ts := (k.teamMembers c b Team.runs).filter fun m => k.readyLane m.slot m.ag
  let ds := (k.tadMembers c b).filter fun m => k.readyLane m.slot m.ag
  ((ts.map fun m => (m.slot, m.ag.pc)).dedup.map fun x =>
      teamCand (ts.filter fun m => m.slot = x.1 && m.ag.pc = x.2) x.1 x.2)
    ++ (ds.map fun m => (m.slot, m.seq, m.ag.pc)).dedup.map fun x =>
      tadCand (ds.filter fun m => m.slot = x.1 && m.seq = x.2.1 && m.ag.pc = x.2.2) x.1 x.2.2

/-- The class of a candidate in the choice of R150. -/
def Cand.rank (x : Cand) : Nat := if x.starving then 0 else if x.tad then 1 else 2

/-- Whether a candidate is chosen before another (R150). -/
def Cand.before (x y : Cand) : Bool :=
  let last := decide (x.slot % 64 < y.slot % 64) || (x.slot % 64 == y.slot % 64 && decide (x.pc.toNat < y.pc.toNat))
  if x.rank ≠ y.rank then decide (x.rank < y.rank)
  else if x.rank = 2 && x.refs.length ≠ y.refs.length then decide (y.refs.length < x.refs.length)
  else if x.age ≠ y.age then decide (y.age < x.age)
  else last

/-- The bundle of a berth, none where no lane is ready (R150). -/
def Core.bundle (k : Core) (c b : Nat) : Option Cand :=
  (k.candidates c b).foldl (fun (best : Option Cand) x => match best with
    | some y => if x.before y then some x else some y
    | none => some x) none

/-- A core that has issued nothing for more than 4,096 CCLK and has not started its ramp (R34). -/
def Core.rampDue (k : Core) (now : Nat) : Bool :=
  decide (k.lastIssue + 4097 < now) && !k.rampStart.any fun t => decide (k.lastIssue < t)

/-- Lanes a bundle may hold (R34). -/
def Core.issueCap (k : Core) (now : Nat) : Nat :=
  match k.rampStart with
  | some t => min 32 (8 * ((now - t) / 16 + 1))
  | none => 32

/-- ISSUE_RAMP (R34): the first CCLK in which the core may issue again. -/
def execIssueRamp (core : Nat) (s : State) : Outcome State Fault Refusal :=
  .next (s.modCore core fun k => { k with rampStart := some s.cclk })

/-- Moves put among others at free places, in their order: which operations of other lanes fall between those of a
bundle's lanes is not fixed (R354). `free` numbers the draws, `fuel` bounds them. -/
def weave : Nat → Nat → List Move → List Move → List Move
  | 0, _, ms, rest => ms ++ rest
  | fuel + 1, free, ms, rest =>
    match ms, rest with
    | [], rest => rest
    | ms, [] => ms
    | m :: ms, r :: rest =>
      if Config.freeBool free then m :: weave fuel (free + 1) ms (r :: rest) else r :: weave fuel (free + 1) (m :: ms) rest

/-- Moves put among those of the agenda at free places. -/
def State.among (s : State) (ms : List Move) : State :=
  let n := ms.length + s.agenda.length
  { s with agenda := weave n s.free ms s.agenda, free := s.free + n }

/-- The groups of some lanes. -/
def groupsOf (rs : List AgentRef) : List Nat :=
  (rs.map fun r => match r with
    | .lane _ _ l => l / 8
    | _ => 0).dedup

/-- A lane that issues in a bundle: its wait starts again (R149), and it keeps the pending sets of the bundle (R20). -/
def Agent.issued (a : Agent) (hs : List Hints) : Agent := { a with wait := 0, starving := false, mates := hs }

/-- A berth forms its bundle (R150), of at most as many lanes as the ramp allows, lowest numbers first (R34). DESIGN CHOICE,
log entry 86: the cap may split a group, of which the lowest lanes then issue. Lanes with a trap to take first take it
(R172). -/
def State.issueBundle (s : State) (c b : Nat) : State :=
  let k := s.core c
  let pend := ((k.teamMembers c b Team.runs).filter fun m => m.ag.status == .ready && m.ag.pendTrap.isSome).map fun m =>
    Move.lane m.ref
  match k.bundle c b with
  | none => s.first pend
  | some x =>
    if k.rampDue s.cclk then s.first [.event (.issueRamp c), .issue c b]
    else
      let refs := x.refs.take (k.issueCap s.cclk)
      let s := s.modCore c fun k => { k with lastIssue := s.cclk }
      let hs := refs.filterMap fun r => (s.agentAt r).map Agent.hints
      let s := refs.foldl (fun (s : State) r => s.modAgent r fun a => a.issued hs) s
      let word := (refs.head?.bind s.agentAt).bind fun a => a.wordAt a.pc
      (s.among (movesOf word refs ++ if x.tad then [] else [.endBundle c x.slot (groupsOf refs)])).first pend

/-- LANE_STARVING (R149): a lane ready for 256 CCLK. -/
def execLaneStarving (lane : AgentRef) (s : State) : Outcome State Fault Refusal :=
  .next (s.modAgent lane fun a => if s.readyNow lane a && decide (256 ≤ a.wait) then { a with starving := true } else a)

/-- RUN_AHEAD (R174): everything it does is discarded. -/
def execRunAhead (_lane : AgentRef) (s : State) : Outcome State Fault Refusal := .next s

/-! ### The broadcast fetch -/

/-- The words of a fetched block from a lane's program counter to the block's end, those of a poisoned sector of it left
out (R164, R165). -/
def blockWords (bs : List Byte) (poison : List Nat) (pc : DWord) : List (DWord × Word) :=
  let i := pc.toNat % 64 / 4
  (((List.range (16 - i)).map fun j => (4 * (i + j), pc + BitVec.ofNat 64 (4 * j))).filter fun x =>
    !poison.contains (x.1 / 32)).map fun x => (x.2, BitVec.ofNat 32 (leNat ((bs.drop x.1).take 4)))

/-- The poisoned sectors of a block of 64 bytes, 0 and 1. -/
def State.blockPoison (s : State) (block : Nat) : List Nat := (List.range 2).filter fun i => s.poisoned (block + 32 * i)

/-- A block of code as the instruction cache gives it to a launch, with its poisoned sectors: the copy cached for that
launch, or memory's, which is then cached. Whether a cached copy is still there is a free value (R2, R166; log entry
76). -/
def State.fetchBlock (s : State) (core launch block : Nat) : State × List Byte × List Nat :=
  let cache := (s.core core).icache
  match (cache.find? (block / 64)).filter fun e => e.1 == launch && Config.freeBool s.free with
  | some e => (s.drawn, e.2, [])
  | none =>
    let bs := s.bytesAt block 64
    if paRange block != .local_ || !(s.blockPoison block).isEmpty then (s.drawn, bs, s.blockPoison block)
    else
      let room := if cache.length < 2048 then cache
        else cache.del (cache.getD (Config.freeMove s.free % cache.length) (0, (0, []))).1
      (s.drawn.modCore core fun k => { k with icache := room.put (block / 64) (launch, bs) }, bs, [])

/-- Words delivered to a loop buffer, which keeps the last 48 (R164). -/
def Agent.delivered (a : Agent) (ws : List (DWord × Word)) : Agent :=
  let all := a.loopBuf ++ ws
  { a with loopBuf := all.drop (all.length - 48), fetchSince := none }

/-- The address space of a launch. -/
def State.asidOf (s : State) (launch : Nat) : Nat := ((s.launch launch).map Launch.asid).getD 0

/-- The block delivered to every lane of the berth, of the launch it was fetched for, whose program counter lies in it
(R164; log entry 76). -/
def State.deliverBlock (s : State) (c b launch : Nat) (va : Nat) (bs : List Byte) (poison : List Nat) : State :=
  ((s.core c).onBerth c b).foldl (fun (s : State) m =>
    if m.ag.pc.toNat / 64 = va / 64 && m.launch = launch then
      s.modAgent m.ref fun a => a.delivered (blockWords bs poison a.pc)
    else s) s

/-- A trap of a fetch: TRAPPC and TRAPADDR hold the fetch address (R165). -/
def State.fetchTrap (s : State) (r : AgentRef) (a : Agent) (c : Cause) : State :=
  (s.putAgent r { a with hints := {}, fetchSince := none }).trapAgent r c a.pc

/-- The trap of a fetch from a mapped address; the poisoned sector of one is an event (R81; log entry 61). -/
def State.fetchRefused (s : State) (r : AgentRef) (a : Agent) (c : Cause) (pa : Nat) : State :=
  (match c with
    | .memErr => s.notePoisons pa 4
    | _ => s).fetchTrap r a c

/-- The fault of a fetch from a mapped address, none where it is sound (R46, R53, R59, R80, R165). -/
def State.fetchBad (s : State) (p : Piece) : Option Cause :=
  if s.refuses false p then some .access
  else if p.isHost && s.hostDown then some .hostLink
  else if (s.firstPoison p.pa 4).isSome then some .memErr
  else none

/-- A thread parked on the translation fault of its fetch (R135, R165). -/
def State.fetchPark (s : State) (r : AgentRef) (a : Agent) (asid : Nat) : State :=
  let va := a.pc.toNat
  let w : PageWait := { asid := asid, page := va / 4096, addr := va, write := false, fetch := true }
  let s := { s with cur := r, ag := { a with fetchSince := none } }.parkPage w
  { s.putAgent r s.ag with cur := .none, ag := {} }

/-- A fetch of code from an aperture (R53, R165): the bytes or the refusal once the peer has answered, none before; the
first call sends it. `tag` names who fetches. -/
def State.fetchFar (s : State) (w : Who) (tag n x va len : Nat) : State × Option (Sum Cause (List Byte)) :=
  match List.find? (fun (e : Nat × NetAccess) => e.2.core == w.core && e.2.launch == w.launch && e.2.slot == w.slot
      && e.2.engine == some (tag, 0#32) && e.2.va == va && e.2.aperture == n && e.2.offset == x) s.net with
  | none => (s.netSend w n x va (.load len) (some (tag, 0#32)), none)
  | some (i, a) => match a.phase with
    | .done bs => ({ s with net := s.net.del i }, some (.inr bs))
    | .refused c => ({ s with net := s.net.del i }, some (.inl c))
    | _ => (s, none)

/-- Who fetches for a berth's lane. -/
def Member.who (m : Member) (core asid : Nat) : Who := { core := core, asid := asid, launch := m.launch, slot := m.slot, lane := m.lane }

/-- A fetch-waiting lane that chooses the block before another: the longer wait, then the lower team slot, group and
lane, tadpole lanes alike (R164). -/
def fetchBefore (now : Nat) (x y : Member) : Bool :=
  let key := fun (m : Member) => [m.ag.fetchSince.getD now, m.slot % 64, m.lane / 8, m.lane]
  decide (key x < key y)

/-- BROADCAST_FETCH (R164, R165). -/
def execBroadcastFetch (core berth : Nat) (s : State) : Outcome State Fault Refusal :=
  let waiting := ((s.core core).members core berth).filter fun m => m.ag.fetchWaits
  let best := waiting.foldl (fun (best : Option Member) m => match best with
    | some x => if fetchBefore s.cclk m x then some m else some x
    | none => some m) none
  let s := waiting.foldl (fun (s : State) m =>
    s.modAgent m.ref fun a => { a with fetchSince := some (a.fetchSince.getD s.cclk) }) s
  .next (match best with
    | none => s
    | some m =>
      let va := m.ag.pc.toNat
      let asid := s.asidOf m.launch
      if !vaOk va 4 then s.fetchTrap m.ref m.ag .access
      else match s.translate asid .ex va with
        | none => s.fetchPark m.ref m.ag asid
        | some (s, x) =>
          match s.fetchBad { va := va, pa := x.pa, len := 4, cls := x.cls, cache := x.cache } with
          | some c => s.fetchRefused m.ref m.ag c x.pa
          | none =>
            let block := x.pa / 64 * 64
            match paRange block with
            | .aperture n o => match s.fetchFar (m.who core asid) (fetchTag berth) n o (va / 64 * 64) 64 with
              | (s, some (.inr bs)) => s.deliverBlock core berth m.launch va bs []
              | (s, some (.inl c)) => s.fetchTrap m.ref m.ag c
              | (s, none) => s
            | _ =>
              let b := s.fetchBlock core m.launch block
              b.1.deliverBlock core berth m.launch va b.2.1 b.2.2)

/-! ### Releases -/

/-- LOAD_RETURN (R277): the scoreboard releases what it holds for the lane. -/
def execLoadReturn (lane : AgentRef) (s : State) : Outcome State Fault Refusal :=
  .next (s.modAgent lane fun a => { a with held := [] })

/-- STORE_COMPLETION (R75): the oldest outstanding store of the lane completes. -/
def execStoreCompletion (lane : AgentRef) (s : State) : Outcome State Fault Refusal :=
  .next (match s.agentAt lane with
    | some a => match a.stores with
      | t :: rest => (s.putAgent lane { a with stores := rest }).raisePts (coreOfRef lane) t
      | [] => s
    | none => s)

/-- YIELD_RELEASE (R295). -/
def execYieldRelease (lane : AgentRef) (s : State) : Outcome State Fault Refusal :=
  .next (s.modAgent lane fun a => match a.yieldUntil with
    | some t => if t ≤ s.cclk then { a with yieldUntil := none, wait := 0 } else a
    | none => a)

/-- The word of a WAITC as a lane's load reaches it. -/
def CondWait.piece (w : CondWait) : Piece :=
  { va := 4096 * w.page + w.pa % 4096, pa := w.pa, len := w.size, cls := w.cls, cache := false }

/-- WAITC_REREAD (R195): a lane without a monitor reads its word at the home as the first read did (R75, R194). -/
def execWaitcReread (lane : AgentRef) (s : State) : Outcome State Fault Refusal :=
  .next (match s.agentAt lane with
    | none => s
    | some a =>
      match a.status with
      | .parked (.cond w) =>
        if w.monitor then s
        else
          let s := s.releaseLine (w.pa / 128)
          match s.firstPoison w.pa w.size with
          | some p =>
            let t := { cause := .memErr, pc := w.hints.first.getD (a.pc - 4#64), addr := BitVec.ofNat 64 (4096 * w.page + p % 4096) }
            (s.notePoison p).putAgent lane { a.wake with pendTrap := some t }
          | none =>
            let x := BitVec.ofNat 64 (s.numAt w.pa w.size)
            let s := s.homeLoad { core := coreOfRef lane, asid := w.asid, launch := 0, slot := 0, lane := 0 } w.piece none
            if condHolds w.cond w.size x w.value then s.wakeCond x (s.l2Line (w.pa / 128)).wts w.size lane
            else s.putAgent lane { a with parkedAt := s.cclk }
      | _ => s)

/-- BSNFILL_TIMEOUT (R193): 4,096 CCLK with nothing reserved. -/
def execBsnfillTimeout (lane : AgentRef) (s : State) : Outcome State Fault Refusal :=
  .next (match s.agentAt lane with
    | none => s
    | some a =>
      match a.status with
      | .parked (.basin c e _ _) =>
        let b := (s.core c).basin e
        if b.rp == b.wp && decide (a.parkedAt + 4096 ≤ s.cclk) then s.releaseWaiter false 0#64 lane else s
      | _ => s)

/-! ### Deep idle -/

/-- The cores of a row of a die. -/
def rowCores (die row : Nat) : List Nat := (List.range 16).map fun i => 160 * die + 16 * row + i

/-- A core holds a team, a tadpole, an engine operation, a routine context or an event record (R33). DESIGN CHOICE, log
entry 90: each of them keeps its row awake, a routine context without a resident team too. -/
def Core.holdsWork (k : Core) : Bool :=
  !k.teams.isEmpty || !k.tads.isEmpty || !k.ops.isEmpty || !k.eq.isEmpty || !k.eqHeld.isEmpty
    || k.contexts.any fun (e : Nat × KeeperCtx) => e.2.launch.isSome

/-- A row may enter deep idle (R33). -/
def State.rowIdle (s : State) (die row : Nat) : Bool :=
  s.smc.deepEn
    && ((rowCores die row).all fun c =>
      let k := s.core c
      k.started && !k.deepIdle && !k.holdsWork && decide (k.lastHeld + 2 ^ 20 ≤ s.cclk))
    && !((NMap.get {} s.dies die : Die).drain.any fun x => x.2.2.any (rowCores die row).contains)

/-- DEEP_IDLE_ENTER (R33). DESIGN CHOICE, log entry 90: dirty private lines of the row's L1s are written back first. -/
def execDeepIdleEnter (die row : Nat) (s : State) : Outcome State Fault Refusal :=
  .next (if s.rowIdle die row then
    (rowCores die row).foldl (fun (s : State) c =>
      (s.writeBackAll c).modCore c fun k =>
        { k with deepIdle := true, startBerth := 0, l1 := [], rampStart := none, barriers := [], basins := [] }) s
    else s)

/-- A core that starts or wakes (R74, R144, R200), with its keeper core's firmware context (R178). -/
def Core.fresh (k : Core) (bts : DWord) (now : Nat) : Core :=
  { k with deepIdle := false, contexts := k.contexts.put 0 { launch := none, ag := {} }, pts := bts, l1 := [], startBerth := if k.teams.isEmpty then 0 else k.startBerth,
           ceIssue := 0#32, meIssue := 0#32, eseqCe := 0#32, eseqMe := 0#32, doneOps := [], ceTs := 0#64, meTs := 0#64,
           lastHeld := now }

/-- A row of a die below one still waits for its wake: it wakes first (R33). -/
def State.rowBelow (s : State) (die row : Nat) : Bool :=
  (List.range row).any fun r =>
    (s.agenda.contains (.event (.rowWake die r)) || s.delayed.contains (.rowWake die r))
      && (rowCores die r).any fun c => (s.core c).deepIdle

/-- ROW_WAKE (R33): the row is clocked again; what waited for it goes on. Rows of a die that wake together do so in
ascending order: a row comes after those below it that wait. -/
def execRowWake (die row : Nat) (s : State) : Outcome State Fault Refusal :=
  if s.rowBelow die row then .next { s with delayed := s.delayed ++ [.rowWake die row] }
  else .next ((rowCores die row).foldl (fun (s : State) c =>
    let k := s.core c
    if !k.deepIdle then s
    else
      let s := s.setCore c (k.fresh s.bts s.cclk)
      let s := s.later (k.teams.map fun (t : Nat × Team) => .event (.teamStart c t.1))
      if k.eqHeld.isEmpty then s else s.later [.event (.eqRecordEnqueue c)]) s)

end Sys2Proof.Machine
end

