-- ==== Sys2Proof/Machine/MemEvents.lean ====
section
/-! DEFINITION. Events of the memory system: hot-row capture (R65, R66), detected errors and the error log (R79 to R84),
the base timestamp (R74). -/

namespace Sys2Proof.Machine

open Host (Outcome)

/-! ### Hot-row capture -/

/-- The key of a row's count. -/
def rowKey (stack bank row : Nat) : Nat := 2 ^ 48 * stack + 2 ^ 32 * (bank % 2 ^ 16) + row % 2 ^ 32

/-- A line of a row, forced into the row's stack: PA<38:37> and PA<12> name it (R60, R65). -/
def rowLineOf (stack bank row i : Nat) : Nat :=
  let pa := Config.rowLine stack bank row i % 2 ^ 32 * 128
  (stack / 2 % 4 * 2 ^ 37 + pa % 2 ^ 37 / 2 ^ 13 * 2 ^ 13 + stack % 2 * 2 ^ 12 + pa % 2 ^ 12) / 128

/-- The eight lines of a row in ascending address order (R65, R66). -/
def rowLines (stack bank row : Nat) : List Nat :=
  (((List.range 8).map (rowLineOf stack bank row)).dedup).insertionSort (· ≤ ·)

/-- A held line of a set pinned, its physical line shared with pinned lines alone (R64 to R66): the set and the lines
evicted; none where the set holds eight pinned lines. -/
def mscPin (ls : List MscLine) (l : MscLine) : Option (List MscLine × Nat) :=
  if l.pinned then some (ls, 0)
  else if 8 ≤ (ls.filter MscLine.pinned).length then none
  else
    let rest := ls.filter fun (x : MscLine) => x.line ≠ l.line
    let mine := { l with pinned := true }
    match (List.range 16).find? fun p =>
        decide (l.sectors ≤ mscFree rest p) && rest.all fun x => x.phys ≠ p || x.pinned with
    | some p => some (rest ++ [{ mine with phys := p }], 0)
    | none =>
      let p := mscVictim rest
      let r := mscEvictUntil (fun x => x.phys = p) (fun ls => ls.all fun x => x.phys ≠ p) 4 rest
      some (r.1 ++ [{ mine with phys := p }], r.2)

/-- A line of a promoted row copied into the memory-side cache and pinned where its set allows: whether it was (R65,
R66). -/
def State.promoteLine (s : State) (line : Nat) : State × Bool :=
  let key := mscKey line
  let held := (NMap.get [] s.msc key).any fun l => l.line = line
  let s := if held then s else s.mscAccess line false
  let ls := NMap.get [] s.msc key
  match ls.find? fun l => l.line = line with
  | none => (s, false)
  | some l => match mscPin ls l with
    | none => (s, false)
    | some (ls, n) =>
      let s := { s with msc := s.msc.put key ls }
      (if n = 0 then s else s.modDieMem (homeDie (line * 128)) fun d => d.countEvictions n, true)

/-- HOT_ROW_CAPTURE (R65, R66). -/
def State.promoteRow (s : State) (stack bank row : Nat) : State :=
  let r := (rowLines stack bank row).foldl (fun (x : State × Bool) line =>
    let y := x.1.promoteLine line
    (y.1, x.2 && y.2)) (s, true)
  r.1.modDieMem (stack / 2) fun d => { d with
    hrcPromote := d.hrcPromote + 1#32, hrcSkip := if r.2 then d.hrcSkip else d.hrcSkip + 1#32 }

/-- ROW_ACTIVATION (R65): the row's count rises; the one that reaches the threshold promotes the row. -/
def execRowActivation (stack bank row : Nat) (s : State) : Outcome State Fault Refusal :=
  let key := rowKey stack bank row
  let c : RowCount := NMap.get {} s.rowAct key
  let d := s.dieMemOf (stack / 2)
  let hot := d.hrcEn && !c.promoted && c.count + 1 == d.hrcThresh.toNat
  let s' := { s with rowAct := s.rowAct.put key { count := c.count + 1, promoted := c.promoted || hot } }
  .next (if 8 ≤ stack then s else if hot then s'.promoteRow stack bank row else s')

/-- REFRESH_WINDOW_END (R65): the counts of the stack return to zero, its pins are released. -/
def execRefreshWindowEnd (stack : Nat) (s : State) : Outcome State Fault Refusal :=
  let unpin := fun (l : MscLine) => { l with pinned := false }
  .next { s with
    rowAct := s.rowAct.filter fun (e : Nat × RowCount) => e.1 / 2 ^ 48 ≠ stack,
    msc := s.msc.map fun (e : Nat × List MscLine) => if e.1 / 32768 = stack then (e.1, e.2.map unpin) else e }

/-! ### Errors -/

/-- PATROL_SCRUB (R79): the corrected data written back is the data that stands; errors it finds are events of their
own (R81). -/
def execPatrolScrub (_sector : Nat) (s : State) : Outcome State Fault Refusal := .next s

/-- A precise MEMERR in the thread whose instruction reads a word of a core SRAM (R80); the operation of an engine that
reads it ends in error (R218). -/
def State.sramTrap (s : State) (core : Nat) : SramReader → State
  | .engine queue seq => match s.op core queue (BitVec.ofNat 32 seq) with
    | some o => s.failOp core o 0 4 o.code
    | none => s
  | .thread r => match r, s.agentAt r with
    | .lane _ _ _, some a => s.putAgent r { a with pendTrap := some { cause := .memErr, pc := a.trapAt, addr := 0#64 } }
    | _, some _ => s.trapAgent r .memErr 0#64
    | _, none => s

/-- MEMORY_ERROR_DETECT (R80, R81). -/
def execMemoryErrorDetect (error : MemoryError) (s : State) : Outcome State Fault Refusal :=
  .next (match error with
    | .sector sector layer uncorrected =>
      let pa := 32 * sector
      if paRange pa != .local_ then s
      else
        let s := s.noteError (homeDie pa) (sectorError pa layer uncorrected)
        if uncorrected then { s with poison := s.poison.put sector true } else s
    | .tagArray sector layer uncorrected =>
      let pa := 32 * sector
      if paRange pa != .local_ then s
      else
        let s := s.noteError (homeDie pa) (sectorError pa layer uncorrected)
        if uncorrected then s.stopLaunches (fun n _ => s.resident n) (launchFault 9 1) else s
    | .coreSram core unit index uncorrected reader =>
      if 640 ≤ core then s
      else
        let addr := core % 160 + 2 ^ 16 * (unit % 256) + 2 ^ 24 * (index % 2 ^ 24)
        let s := s.noteError (dieOfCore core)
          { source := 16, addr := BitVec.ofNat 64 addr, layer := 4, uncorrected := uncorrected }
        if uncorrected then s.sramTrap core reader else s)

/-- The 32 bytes of an error log record (R84). -/
def errorRecord (e : ErrorEvent) (corr uncorr seq : Word) (time : Nat) : List Byte :=
  leBytes 8 e.addr.toNat
    ++ leBytes 4 (e.source * 2 ^ 27 + e.layer % 8 * 2 ^ 24 + if e.uncorrected then 2 ^ 23 else 0)
    ++ leBytes 4 corr.toNat ++ leBytes 4 uncorr.toNat ++ leBytes 4 seq.toNat ++ leBytes 8 time

/-- One event of a source reported in an FCLK, counted from power-on (R82). -/
def State.reportError (s : State) (die : Nat) (time : Nat) (e : ErrorEvent) : State :=
  let s := s.modDieMem die fun d =>
    if e.uncorrected then { d with uncorr := d.uncorr.put e.source (NMap.get 0#32 d.uncorr e.source + 1#32) }
    else { d with corr := d.corr.put e.source (NMap.get 0#32 d.corr e.source + 1#32) }
  let d := s.dieMemOf die
  if (d.elogWr - d.elogRd).toNat < 64 then
    let bs := errorRecord e (NMap.get 0#32 d.corr e.source) (NMap.get 0#32 d.uncorr e.source) d.elogWr time
    (s.modDieMem die fun d => { d with
      elog := putBytes d.elog (32 * (d.elogWr.toNat % 64)) bs, elogWr := d.elogWr + 1#32 }).setInt 3
  else s.modDieMem die fun d => { d with elogOvf := if d.elogOvf = 0xFFFFFFFF#32 then d.elogOvf else d.elogOvf + 1#32 }

/-- The oldest event of a source taken out of those that wait (R81). -/
def takeError (source : Nat) : List ErrorEvent → Option ErrorEvent × List ErrorEvent
  | [] => (none, [])
  | e :: es => if e.source = source then (some e, es) else let r := takeError source es; (r.1, e :: r.2)

/-- The FCLK in which a die reports next, counted from power-on: none before this CCLK, whose two FCLK are 2 × CYCLES and
the next (R26), and none in which it has reported (R81). -/
def State.reportClock (s : State) (die : Nat) : Nat := max (s.dieMemOf die).fclk (2 * s.cclk)

/-- ERROR_LOG_REPORT (R81, R82): one FCLK of a die, in which each source reports its oldest event. A die that has reported
in both FCLK of this CCLK reports in a later one. -/
def execErrorLogReport (die : Nat) (s : State) : Outcome State Fault Refusal :=
  let f := s.reportClock die
  if (s.dieMemOf die).errWait.isEmpty then .next s
  else if 2 * s.cclk + 1 < f then .next { s with delayed := s.delayed ++ [.errorLogReport die] }
  else
    let s := (List.range 17).foldl (fun (s : State) i =>
      let r := takeError i (s.dieMemOf die).errWait
      match r.1 with
      | some e => (s.modDieMem die fun d => { d with errWait := r.2 }).reportError die f e
      | none => s) (s.modDieMem die fun d => { d with fclk := f + 1 })
    .next (if (s.dieMemOf die).errWait.isEmpty then s else s.later [.event (.errorLogReport die)])

/-! ### The base timestamp -/

/-- BTS_TICK (R74): BTS and every core's pts rise by 1; pts is never below BTS. -/
def execBtsTick (s : State) : Outcome State Fault Refusal :=
  let bts := s.bts + 1#64
  .next { s with
    bts := bts, cores := s.cores.map fun (c : Nat × Core) => (c.1, { c.2 with pts := tmax (c.2.pts + 1#64) bts }) }

end Sys2Proof.Machine
end

