-- ==== Sys2Proof/Machine/Links.lean ====
section
/-! DEFINITION. The links: apertures and their retirement (R53 to R57), accesses of the host and of peers to device memory
(R45, R48, R52, R55), the boot staging windows (R50), and what failures of a link do (R59). -/

namespace Sys2Proof.Machine

open Host (Outcome)

/-! ### Apertures -/

/-- An allowed port of an aperture is up (R59). -/
def State.apertureUp (s : State) (k : Aperture) : Bool :=
  (List.range 12).any fun i => k.ports.getLsbD i && (NMap.get {} s.peerPorts i : PeerPort).up

/-- An access with nobody left to take its answer removed; a lane that waits for it, or for its end, goes on. -/
def State.netSettle (s : State) (n : Nat) (a : NetAccess) (phase : NetPhase) : State :=
  match a.engine with
  | some e =>
    let s := { s with net := s.net.put n { a with phase := phase } }
    match s.op a.core e.1 e.2 with
    | some o => s.goOn a.core o
    | none => match a.item? with
      | some i => s.later [.event (.wappItemWritten i)]
      | none =>
      if fetchTag 0 ≤ e.1 then s.later [.event (.slotRelease a.core a.slot)]
      else if 8 ≤ e.1 then s.later [.event (.teamStart a.core a.slot)] else { s with net := s.net.del n }
  | none =>
    let waits : Bool := match s.agentAt a.agent with
      | some g => g.netIds.contains n && (g.status == .parked .peer || g.status == .ready || g.status.isMid)
      | none => false
    let s := { s with net := if waits then s.net.put n { a with phase := phase } else s.net.del n }
    let s := s.retry (s.peersOf a.agent)
    s.later [.event (.slotRelease a.core a.slot)]

/-- Whether a lane waits for what an access returns (R57). -/
def NetKind.returns : NetKind → Bool
  | .load _ => true
  | .store _ => false
  | .atomic _ _ _ _ _ r => r

/-- An access that ends without effect (R57, R59): its lane traps, its engine operation fails, or a record reports it. -/
def State.netFail (s : State) (n : Nat) (a : NetAccess) (c : Cause) : State :=
  if (a.engine.isSome && a.item?.isNone) || a.kind.returns then s.netSettle n a (.refused c)
  else
    let lane := match a.agent with
      | .lane _ _ l => some l
      | .tad c t _ => ((s.core c).tads.find? t).map Tadpole.lane
      | _ => none
    let w : Who := { core := a.core, asid := 0, launch := a.launch, slot := a.slot, lane := lane.getD 0 }
    let s := s.storeReport w lane (if c = .peerLink then 6 else 5) (BitVec.ofNat 16 (a.status c)) a.va 5
    s.netSettle n a (.done [])

/-- The remote base, bits below the window size ignored (R53). -/
def Aperture.base (k : Aperture) : BitVec 52 :=
  BitVec.ofNat 52 (k.rbase.toNat / 2 ^ (k.size.toNat + 12) * 2 ^ (k.size.toNat + 12))

/-- An access accepted: it goes on to the accelerator of its aperture, at RBASE + x (R53, R54). -/
def NetAccess.forward (a : NetAccess) (k : Aperture) : NetAccess :=
  { a with phase := .accepted, accel := k.accel, remote := k.base.toNat + a.offset }

/-- PEER_ACCESS_ARRIVE (R53, R54, R57, R59). -/
def execPeerAccessArrive (access : Nat) (s : State) : Outcome State Fault Refusal :=
  .next (match s.net.find? access with
    | none => s
    | some a =>
      if a.phase != .inNetwork then s
      else
        let k := s.aperture a.aperture
        let ok := k.state == .open_ && k.gen == a.stamp
        if ok && s.apertureUp k then { s with net := s.net.put access (a.forward k) }
        else
          let s := s.modAperture a.aperture fun k =>
            { k with refused := if k.refused = 0xFFFF#16 then k.refused else k.refused + 1#16 }
          s.netFail access a (if ok then .peerLink else .peerRef))

/-- Accesses of an aperture accepted and without their completion. -/
def State.acceptedOf (s : State) (n : Nat) : List (Nat × NetAccess) :=
  s.net.filter fun (e : Nat × NetAccess) => e.2.aperture = n && e.2.phase == .accepted

/-- Step 3 of R56, once a draining aperture awaits no completion. -/
def State.drained? (s : State) (n : Nat) : State :=
  if (s.aperture n).state == .draining && (s.acceptedOf n).isEmpty then
    s.modAperture n fun k => { k with
      gen := k.gen + 1#8, state := .fencing, shadowGen := k.gen + 1#8, shadowState := .fencing }
  else s

/-- An aperture opened (R53). -/
def State.openAperture (s : State) (n : Nat) : State :=
  let k := s.aperture n
  if k.state == .off && k.ports != 0#12 then
    s.modAperture n fun k => { k with state := .open_, shadowState := .open_, shadowGen := k.gen }
  else s

/-- The retirement of an aperture begun (R56). -/
def State.retireAperture (s : State) (n : Nat) : State :=
  if (s.aperture n).state == .open_ then
    (s.modAperture n fun k => { k with state := .draining, shadowState := .draining, drainAt := s.cclk }).drained? n
  else s

def execApertureEn (aperture : Nat) (s : State) : Outcome State Fault Refusal :=
  .next (if s.isOpen && decide (aperture < 64) then s.openAperture aperture else s)

def execApertureRetire (aperture : Nat) (s : State) : Outcome State Fault Refusal :=
  .next (if s.isOpen && decide (aperture < 64) then s.retireAperture aperture else s)

/-- RETIRE_TIMEOUT (R56): what still awaits its completion is completed as failed. -/
def execRetireTimeout (aperture : Nat) (s : State) : Outcome State Fault Refusal :=
  .next (if (s.aperture aperture).state == .draining then
      ((s.acceptedOf aperture).foldl (fun (s : State) (e : Nat × NetAccess) => s.netFail e.1 e.2 .peerLink) s).drained?
        aperture
    else s)

/-- No access of an aperture with an old stamp is left in a network. -/
def State.fenced (s : State) (n : Nat) : Bool :=
  s.net.all fun (e : Nat × NetAccess) =>
    !(e.2.aperture == n && e.2.phase == .inNetwork && e.2.stamp != (s.aperture n).gen)

/-- RETIRE_FENCED (R56). -/
def execRetireFenced (aperture : Nat) (s : State) : Outcome State Fault Refusal :=
  .next (if (s.aperture aperture).state == .fencing && s.fenced aperture then
      s.modAperture aperture fun k => { k with state := .off, shadowState := .off }
    else s)

/-- Bytes a completion returns for an access (R55). -/
def NetKind.answer (k : NetKind) (bs : List Byte) : List Byte :=
  let n := match k with
    | .load n => n
    | .store _ => 0
    | .atomic _ _ n _ _ r => if r then n else 0
  (bs ++ List.replicate n 0#8).take n

/-- PEER_COMPLETION (R55, R56). -/
def execPeerCompletion (access : Nat) (bytes : List Byte) (s : State) : Outcome State Fault Refusal :=
  .next (match s.net.find? access with
    | none => s
    | some a =>
      if a.phase != .accepted then s
      else (s.netSettle access a (.done (a.kind.answer bytes))).drained? a.aperture)

/-! ### The host and peers in device memory -/

/-- What the host or a peer does with a line follows the line's writes, for those that observe it in turn (R240). -/
def State.seenOut (s : State) (pa : Nat) : State := { s with outTs := tmax s.outTs (s.wtsOf pa) }

/-- Loads by an agent outside every team, line by line (R52). -/
def State.outerLoad : Nat → State → Nat → Nat → State × List Byte
  | 0, s, _, _ => (s, [])
  | fuel + 1, s, pa, n =>
    if n = 0 then (s, [])
    else
      let k := pieceLen 128 pa n
      let x := s.deviceLoad pa k
      let r := State.outerLoad fuel (x.1.seenOut pa) (pa + k) (n - k)
      (r.1, x.2 ++ r.2)

/-- Stores by an agent outside every team, line by line (R52). -/
def State.outerStore : Nat → State → Nat → List Byte → State
  | 0, s, _, _ => s
  | fuel + 1, s, pa, bs =>
    if bs.isEmpty then s
    else
      let k := pieceLen 128 pa bs.length
      State.outerStore fuel ((s.deviceStore pa (bs.take k)).seenOut pa) (pa + k) (bs.drop k)

/-- The device address at which the memory BAR begins: bits below its size are ignored (R48, R51). -/
def State.barBase (s : State) : Nat := s.hostWin.toNat * 2 ^ 28 / 2 ^ s.barLog2 * 2 ^ s.barLog2

/-- An access lies in local memory (R48). -/
def inLocal (pa n : Nat) : Bool := decide (pa + n ≤ 2 ^ 39)

/-- A read of device memory from outside: its completion (R48, R52). -/
def State.outerRead (s : State) (agent tag pa n : Nat) : State × Completion :=
  if inLocal pa n then
    let r := State.outerLoad (n + 1) s pa n
    (r.1.notePoisons pa n, { agent := agent, tag := tag, error := (r.1.firstPoison pa n).isSome, bytes := r.2 })
  else (s, { agent := agent, tag := tag, error := true, bytes := [] })

/-- A number written at a size, sign and excess dropped. -/
def atSize (n x : Nat) : Nat := x % 2 ^ (8 * n)

/-- The new value of an outside atomic (R45, R55). -/
def outerNew (a : HostAtomic) (old : Nat) : Nat :=
  match a.kind with
  | .fetchAdd => atSize a.size (old + a.operand.toNat)
  | .swap => atSize a.size a.operand.toNat
  | .cas => if old = atSize a.size a.compare.toNat then atSize a.size a.operand.toNat else old
  | .shipped float op =>
    atSize a.size (atomValue float op a.size old (atSize a.size a.operand.toNat) (atSize a.size a.compare.toNat))

/-- Operations and sizes that are offered: those of R45, 4 and 8 bytes, and 16 for compare-and-swap; from a peer those a
device ships as well, a sub-byte XST's replacement of one byte among them (R55, R321). -/
def outerSizeOk (peer : Bool) (a : HostAtomic) : Bool :=
  match a.kind with
  | .cas => a.size == 4 || a.size == 8 || a.size == 16
  | .shipped _ op =>
    peer && (a.size == 4 || a.size == 8 || (a.size == 16 && op == 9) || (a.size == 1 && op == 14))
  | _ => a.size == 4 || a.size == 8

/-- An atomic on device memory from outside, at the line's home: its completion (R45, R52). One that is not offered or
is misaligned completes with an error and stores nothing; one that reads a poisoned sector stores its result and
completes with an error (log entry 77). -/
def State.outerAtomic (s : State) (peer : Bool) (agent tag pa : Nat) (a : HostAtomic) : State × Completion :=
  if inLocal pa a.size && outerSizeOk peer a && pa % a.size == 0 then
    let r := s.deviceLoad pa a.size
    (((r.1.notePoisons pa a.size).deviceStore pa (leBytes a.size (outerNew a (leNat r.2)))).seenOut pa,
      { agent := agent, tag := tag, error := (r.1.firstPoison pa a.size).isSome, bytes := r.2 })
  else (s, { agent := agent, tag := tag, error := true, bytes := [] })

/-- The device address a host access reaches: through the memory BAR at HOST_WIN.BASE plus its offset (R48), through
CXL.mem the one that the HDM decoder gives, its offset in device memory (R45, R52). -/
def State.hostPa (s : State) (a : HostAddr) : Nat :=
  match a.path with
  | .bar => s.barBase + a.offset % 2 ^ s.barLog2
  | .cxlMem => a.offset

/-- A path is there: CXL.mem while CXL is active on port 0 (R45). -/
def State.pathUp (s : State) (path : HostPath) : Bool := path == .bar || (NMap.get {} s.hostPorts 0 : HostPort).cxl

/-- A host access that reached no memory, reported through the port's AER (R48). -/
def State.aerIf (s : State) (bad : Bool) (write : Bool) (pa : Nat) : State :=
  if bad then { s with aer := s.aer ++ [{ write := write, addr := pa }] } else s

/-- HOST_MEM_READ (R48, R52): zeros before phase OPEN, through CXL.mem as through the BAR (DESIGN CHOICE, log entry 78). -/
def execHostMemRead (addr : HostAddr) (size tag : Nat) (s : State) : Outcome State Fault Refusal :=
  let pa := s.hostPa addr
  .next (if !s.pathUp addr.path then s
    else if !s.isOpen then
      { s with hostOut := s.hostOut ++ [{ agent := 0, tag := tag, error := false, bytes := List.replicate size 0#8 }] }
    else
      let r := s.outerRead 0 tag pa size
      { r.1 with hostOut := r.1.hostOut ++ [r.2] }.aerIf (!inLocal pa size) false pa)

/-- HOST_MEM_WRITE (R48, R52): discarded before phase OPEN, through CXL.mem as through the BAR (DESIGN CHOICE, log entry
78). -/
def execHostMemWrite (addr : HostAddr) (bytes : List Byte) (s : State) : Outcome State Fault Refusal :=
  let pa := s.hostPa addr
  .next (if !s.pathUp addr.path || !s.isOpen then s
    else if inLocal pa bytes.length then State.outerStore (bytes.length + 1) s pa bytes
    else s.aerIf true true pa)

/-- HOST_ATOMICOP (R45, R52): before phase OPEN it reads 0 and stores nothing. -/
def execHostAtomicop (op : HostAtomic) (offset tag : Nat) (s : State) : Outcome State Fault Refusal :=
  .next (if !s.isOpen then
      { s with hostOut := s.hostOut ++ [{ agent := 0, tag := tag, error := false, bytes := List.replicate op.size 0#8 }] }
    else
      let pa := s.hostPa { path := .bar, offset := offset }
      let r := s.outerAtomic false 0 tag pa op
      { r.1 with hostOut := r.1.hostOut ++ [r.2] }.aerIf (!inLocal pa op.size) true pa)

/-- The inbound allow bitmap admits an accelerator (R49, R55). -/
def State.admits (s : State) (accel : Nat) : Bool :=
  decide (accel < 1024) && (NMap.get 0#32 s.allow (accel / 32)).getLsbD (accel % 32)

def peerTag : PeerRequest → Nat
  | .read _ _ t => t
  | .write _ _ t => t
  | .atomic _ _ t => t

/-- PEER_INBOUND (R55): a request admitted whose address lies beyond local memory completes with an error, its write
discarded (log entry 77). -/
def execPeerInbound (accel : Nat) (request : PeerRequest) (s : State) : Outcome State Fault Refusal :=
  .next (if !s.admits accel then
      { s with
        inReject := if s.inReject = 0xFFFFFFFF#32 then s.inReject else s.inReject + 1#32,
        peerOut := s.peerOut ++ [{ agent := accel, tag := peerTag request, error := true, bytes := [] }] }
    else match request with
      | .read addr size tag =>
        let r := s.outerRead accel tag addr size
        { r.1 with peerOut := r.1.peerOut ++ [r.2] }
      | .write addr bytes tag =>
        let ok := inLocal addr bytes.length
        let s := if ok then State.outerStore (bytes.length + 1) s addr bytes else s
        { s with peerOut := s.peerOut ++ [{ agent := accel, tag := tag, error := !ok, bytes := [] }] }
      | .atomic addr op tag =>
        let r := s.outerAtomic true accel tag addr op
        { r.1 with peerOut := r.1.peerOut ++ [r.2] })

/-- BOOT_STAGING_WRITE (R50): taken in phases 0x0 to 0x3 while the host is the active source. -/
def execBootStagingWrite (firmware : Bool) (offset : Nat) (bytes : List Byte) (s : State) : Outcome State Fault Refusal :=
  let room := (if firmware then 2 ^ 27 else 4096) - offset
  .next (if s.smc.phase.toNat ≤ 3 && s.smc.hostSource then
      if firmware then { s with fwWin := putBytes s.fwWin offset (bytes.take room) }
      else { s with cfgWin := putBytes s.cfgWin offset (bytes.take room) }
    else s)

/-! ### Links that fail and come up -/

/-- UALINK_PORT_DOWN, UALINK_PORT_UP (R59). -/
def State.setPeerPort (s : State) (port : Nat) (up : Bool) : State :=
  let p : PeerPort := NMap.get {} s.peerPorts port
  if 12 ≤ port || p.up == up then s
  else ({ s with peerPorts := s.peerPorts.put port { p with up := up } }).setInt 4

def execUalinkPortDown (port : Nat) (s : State) : Outcome State Fault Refusal := .next (s.setPeerPort port false)

def execUalinkPortUp (port : Nat) (s : State) : Outcome State Fault Refusal := .next (s.setPeerPort port true)

/-- The trained state of a host port written; a change sets INT_STAT.LINK (R51, R59). -/
def State.setHostPort (s : State) (port : Nat) (width : BitVec 4) (speed : BitVec 3) (cxl : Bool) : State :=
  let p : HostPort := NMap.get {} s.hostPorts port
  let q := { p with width := width, speed := speed, cxl := cxl }
  if 2 ≤ port || q = p then s else ({ s with hostPorts := s.hostPorts.put port q }).setInt 4

def execHostPortDown (port : Nat) (s : State) : Outcome State Fault Refusal :=
  .next (s.setHostPort port 0#4 0#3 false)

/-- The memory BAR sized by the host when a link comes up: any power of two from 1 GiB to 512 GiB, a free value (R48; log
entry 78). -/
def State.sizeBar (s : State) : State := { s.drawn with barLog2 := 30 + Config.freeMove s.free % 10 }

/-- HOST_PORT_UP (R45, R48, R59): CXL runs on port 0 only, and not on a link that has trained without it until the link is
reset; a width that R51 does not list, or speed 0, is no trained port. -/
def execHostPortUp (port : Nat) (width : BitVec 4) (speed : BitVec 3) (cxl : Bool) (s : State) :
    Outcome State Fault Refusal :=
  let p : HostPort := NMap.get {} s.hostPorts port
  .next (if width = 0#4 || 5 < width.toNat || speed = 0#3 then s
    else (if s.hostDown then s.sizeBar else s).setHostPort port width speed (cxl && port == 0 && (p.width == 0#4 || p.cxl)))

/-- UCIE_FLIT_FAIL (R59): every launch with a resident team stops. -/
def execUcieFlitFail (_die : Nat) (s : State) : Outcome State Fault Refusal :=
  .next (({ s with d2dFailed := true }.stopLaunches (fun n _ => s.resident n) (launchFault 8 1)).setInt 4)

/-- A 16-bit counter that saturates. -/
def satUp (x : BitVec 16) : BitVec 16 := if x = 0xFFFF#16 then x else x + 1#16

/-- LINK_REPLAY (R51, R59). -/
def execLinkReplay (link : ReplayLink) (s : State) : Outcome State Fault Refusal :=
  .next (match link with
    | .host port =>
      let p : HostPort := NMap.get {} s.hostPorts port
      if 2 ≤ port then s else { s with hostPorts := s.hostPorts.put port { p with corr := satUp p.corr } }
    | .ualink port =>
      let p : PeerPort := NMap.get {} s.peerPorts port
      if 12 ≤ port then s else { s with peerPorts := s.peerPorts.put port { p with retry := satUp p.retry } }
    | .dieToDie => { s with d2dRetry := satUp s.d2dRetry })

end Sys2Proof.Machine
end

