-- ==== Sys2Proof/Machine/Crypto.lean ====
section
/-! DEFINITION. SHA-384 and the verification of an ECDSA signature on brainpoolP384r1, with which records are accepted
(R35 to R38). The spec names both by their standards: the constants are those of FIPS 180-4 and RFC 5639 (log
entry 79). -/

namespace Sys2Proof.Machine

/-! ### SHA-384 -/

/-- The round constants. -/
def shaK : List DWord :=
  [0x428a2f98d728ae22#64, 0x7137449123ef65cd#64, 0xb5c0fbcfec4d3b2f#64, 0xe9b5dba58189dbbc#64,
   0x3956c25bf348b538#64, 0x59f111f1b605d019#64, 0x923f82a4af194f9b#64, 0xab1c5ed5da6d8118#64,
   0xd807aa98a3030242#64, 0x12835b0145706fbe#64, 0x243185be4ee4b28c#64, 0x550c7dc3d5ffb4e2#64,
   0x72be5d74f27b896f#64, 0x80deb1fe3b1696b1#64, 0x9bdc06a725c71235#64, 0xc19bf174cf692694#64,
   0xe49b69c19ef14ad2#64, 0xefbe4786384f25e3#64, 0x0fc19dc68b8cd5b5#64, 0x240ca1cc77ac9c65#64] ++
  [0x2de92c6f592b0275#64, 0x4a7484aa6ea6e483#64, 0x5cb0a9dcbd41fbd4#64, 0x76f988da831153b5#64,
   0x983e5152ee66dfab#64, 0xa831c66d2db43210#64, 0xb00327c898fb213f#64, 0xbf597fc7beef0ee4#64,
   0xc6e00bf33da88fc2#64, 0xd5a79147930aa725#64, 0x06ca6351e003826f#64, 0x142929670a0e6e70#64,
   0x27b70a8546d22ffc#64, 0x2e1b21385c26c926#64, 0x4d2c6dfc5ac42aed#64, 0x53380d139d95b3df#64,
   0x650a73548baf63de#64, 0x766a0abb3c77b2a8#64, 0x81c2c92e47edaee6#64, 0x92722c851482353b#64] ++
  [0xa2bfe8a14cf10364#64, 0xa81a664bbc423001#64, 0xc24b8b70d0f89791#64, 0xc76c51a30654be30#64,
   0xd192e819d6ef5218#64, 0xd69906245565a910#64, 0xf40e35855771202a#64, 0x106aa07032bbd1b8#64,
   0x19a4c116b8d2d0c8#64, 0x1e376c085141ab53#64, 0x2748774cdf8eeb99#64, 0x34b0bcb5e19b48a8#64,
   0x391c0cb3c5c95a63#64, 0x4ed8aa4ae3418acb#64, 0x5b9cca4f7763e373#64, 0x682e6ff3d6b2b8a3#64,
   0x748f82ee5defb2fc#64, 0x78a5636f43172f60#64, 0x84c87814a1f0ab72#64, 0x8cc702081a6439ec#64] ++
  [0x90befffa23631e28#64, 0xa4506cebde82bde9#64, 0xbef9a3f7b2c67915#64, 0xc67178f2e372532b#64,
   0xca273eceea26619c#64, 0xd186b8c721c0c207#64, 0xeada7dd6cde0eb1e#64, 0xf57d4f7fee6ed178#64,
   0x06f067aa72176fba#64, 0x0a637dc5a2c898a6#64, 0x113f9804bef90dae#64, 0x1b710b35131c471b#64,
   0x28db77f523047d84#64, 0x32caab7b40c72493#64, 0x3c9ebe0a15c9bebc#64, 0x431d67c49c100d4c#64,
   0x4cc5d4becb3e42b6#64, 0x597f299cfc657e2a#64, 0x5fcb6fab3ad6faec#64, 0x6c44198c4a475817#64]

/-- The hash value before the first block. -/
def shaIv : List DWord :=
  [0xcbbb9d5dc1059ed8#64, 0x629a292a367cd507#64, 0x9159015a3070dd17#64, 0x152fecd8f70e5939#64,
   0x67332667ffc00b31#64, 0x8eb44a8768581511#64, 0xdb0c2e0d64f98fa7#64, 0x47b5481dbefa4fa4#64]

/-- Two rotations and one more shift, the last by a rotation where `rot` says so. -/
def shaMix (rot : Bool) (a b c : Nat) (x : DWord) : DWord :=
  x.rotateRight a ^^^ x.rotateRight b ^^^ (if rot then x.rotateRight c else x >>> c)

/-- The message schedule moved on by one word: the window holds the sixteen words from the present one on. -/
def shaNext (w : List DWord) : List DWord :=
  let at_ := fun i => w.getD i 0#64
  w.drop 1 ++ [shaMix false 19 61 6 (at_ 14) + at_ 9 + shaMix false 1 8 7 (at_ 1) + at_ 0]

/-- One round on the eight working words. -/
def shaRound (v : List DWord) (k w : DWord) : List DWord :=
  let at_ := fun i => v.getD i 0#64
  let (a, b, c, e, f, g) := (at_ 0, at_ 1, at_ 2, at_ 4, at_ 5, at_ 6)
  let t := at_ 7 + shaMix true 14 18 41 e + ((e &&& f) ^^^ (~~~e &&& g)) + k + w
  let u := shaMix true 28 34 39 a + ((a &&& b) ^^^ (a &&& c) ^^^ (b &&& c))
  [t + u, a, b, c, at_ 3 + t, e, f, g]

/-- A block of sixteen words taken into the hash value. -/
def shaBlock (h block : List DWord) : List DWord :=
  let r := shaK.foldl (fun (x : List DWord × List DWord) k => (shaNext x.1, shaRound x.2 k (x.1.headD 0#64))) (block, h)
  List.zipWith (· + ·) h r.2

/-- A message with its padding: a one bit, zeros, and the count of its bits in the last 16 bytes of a block. -/
def shaPad (bs : List Byte) : List Byte :=
  bs ++ 0x80#8 :: (List.replicate ((239 - bs.length % 128) % 128) 0#8 ++ beBytes 16 (8 * bs.length))

/-- The pieces of `n` bytes of a byte string, `k` of them. -/
def chunks (n : Nat) : Nat → List Byte → List (List Byte)
  | 0, _ => []
  | k + 1, bs => bs.take n :: chunks n k (bs.drop n)

/-- SHA-384: 48 bytes. -/
def digest (bs : List Byte) : List Byte :=
  let m := shaPad bs
  let words := fun (b : List Byte) => (chunks 8 16 b).map fun w => BitVec.ofNat 64 (beNat w)
  let h := (chunks 128 (m.length / 128) m).foldl (fun h b => shaBlock h (words b)) shaIv
  (h.take 6).flatMap fun w => beBytes 8 w.toNat

/-! ### ECDSA on brainpoolP384r1 -/

/-- The prime of the field, the coefficients of the curve, the base point and its order. -/
def brainP : Nat :=
  0x8CB91E82A3386D280F5D6F7E50E641DF152F7109ED5456B412B1DA197FB71123ACD3A729901D1A71874700133107EC53

def brainA : Nat :=
  0x7BC382C63D8C150C3C72080ACE05AFA0C2BEA28E4FB22787139165EFBA91F90F8AA5814A503AD4EB04A8C7DD22CE2826

def brainB : Nat :=
  0x04A8C7DD22CE28268B39B55416F0447C2FB77DE107DCD2A62E880EA53EEB62D57CB4390295DBC9943AB78696FA504C11

def brainG : Nat × Nat :=
  (0x1D1C64F068CF45FFA2A63A81B7C13F6B8847A3E77EF14FE3DB7FCAFE0CBD10E8E826E03436D646AAEF87B2E247D4AF1E,
   0x8ABE1D7520F9C2A45CB1EB8E95CFD55262B70B29FEEC5864E19C054FF99129280E4646217791811142820341263C5315)

def brainN : Nat :=
  0x8CB91E82A3386D280F5D6F7E50E641DF152F7109ED5456B31F166E6CAC0425A7CF3AB6AF6B7FC3103B883202E9046565

/-- The lowest `k` bits of a number, the most significant first. -/
def topBits : Nat → Nat → List Bool
  | 0, _ => []
  | k + 1, n => n.testBit k :: topBits k n

/-- `x ^ e` modulo `m`, for an exponent of at most 384 bits. -/
def powMod (m x e : Nat) : Nat := (topBits 384 e).foldl (fun y b => if b then y * y % m * x % m else y * y % m) (1 % m)

/-- The inverse modulo a prime. -/
def invMod (m x : Nat) : Nat := powMod m x (m - 2)

/-- A point of the curve; none is the point at infinity. -/
abbrev Point := Option (Nat × Nat)

/-- The sum of two points of the curve. -/
def Point.add : Point → Point → Point
  | none, q => q
  | p, none => p
  | some (x, y), some (u, v) =>
    if x = u && (y + v) % brainP == 0 then none
    else
      let l := if x = u then (3 * x * x + brainA) * invMod brainP (2 * y) % brainP
        else (v + brainP - y) * invMod brainP (u + brainP - x) % brainP
      let w := (l * l + 2 * brainP - x - u) % brainP
      some (w, (l * (x + brainP - w) + brainP - y) % brainP)

/-- A multiple of a point, for a factor of at most 384 bits. -/
def Point.mul (k : Nat) (p : Point) : Point :=
  (topBits 384 k).foldl (fun (q : Point) b => let d := Point.add q q; if b then Point.add d p else d) none

/-- The point that the 97 bytes of an uncompressed key spell, where it lies on the curve (R36). -/
def keyPoint (key : List Byte) : Point :=
  let x := beNat ((key.drop 1).take 48)
  let y := beNat ((key.drop 49).take 48)
  if (key.getD 0 0#8 == 4#8) && decide (x < brainP) && decide (y < brainP)
      && y * y % brainP == (x * x % brainP * x + brainA * x + brainB) % brainP then some (x, y)
  else none

/-- Whether a signature, r then s of 48 bytes each, verifies under a key for a digest (R36, R38). -/
def signatureHolds (key hash sig : List Byte) : Bool :=
  let r := beNat (sig.take 48)
  let t := beNat ((sig.drop 48).take 48)
  match keyPoint key with
  | none => false
  | some q =>
    if 0 < r && r < brainN && 0 < t && t < brainN then
      let w := invMod brainN t
      match Point.add (Point.mul (beNat hash * w % brainN) (some brainG)) (Point.mul (r * w % brainN) (some q)) with
      | none => false
      | some (x, _) => x % brainN == r
    else false

end Sys2Proof.Machine
end

