-- ==== Sys2Proof/Machine/Package.lean ====
section
/-! DEFINITION. The management controller: power-on and bring-up, signed records, restarts, the throttle steps, its
register block, management datagrams and SPDM (R26 to R44). -/

namespace Sys2Proof.Machine

open Host (Outcome)

def State.modSmc (s : State) (f : Smc → Smc) : State := { s with smc := f s.smc }

/-- BRINGUP written: a change sets INT_STAT.SMC (R42, R140). -/
def State.bringup (s : State) (f : Smc → Smc) : State :=
  let n := f s.smc
  let was := (s.smc.phase, s.smc.fail, s.smc.dieSup, s.smc.rows)
  if was = (n.phase, n.fail, n.dieSup, n.rows) then { s with smc := n } else ({ s with smc := n }).setInt 5

/-- Phase FAILED with a code (R42); no session outlives phase OPEN (R44). -/
def State.bootFail (s : State) (code : BitVec 8) : State :=
  s.bringup fun c => { c with phase := 15#4, fail := code, spdm := [] }

/-! ### Signed records -/

/-- Bytes of a record. -/
def recBytes (bs : List Byte) (off n : Nat) : List Byte := (bs.drop off).take n

def recNum (bs : List Byte) (off n : Nat) : Nat := leNat (recBytes bs off n)

/-- The body of a record (R36). -/
def recBody (bs : List Byte) : List Byte := recBytes bs 512 (recNum bs 8 4)

/-- The header matches (R36, R38): MAGIC, KIND, FORMAT, PART, BODY_LEN, the zero bytes. DESIGN CHOICE, log entry 80: the
body of firmware has 4 bytes to 64 MiB, where "4 to 64 MiB" can also mean 4 MiB at least; and a SIGNER_KEY that does not
begin with 0x04 counts with the header. -/
def recHeaderOk (kind : Nat) (bs : List Byte) : Bool :=
  let n := recNum bs 8 4
  let zero := fun off len => (recBytes bs off len).all fun b => b == 0#8
  recNum bs 0 4 == 0x50525246 && recNum bs 4 2 == kind && recNum bs 6 2 == 1 && recNum bs 16 4 == 0x4480
    && zero 20 4 && zero 121 7 && zero 272 240 && (bs.getD 24 0#8) == 4#8 && decide (512 + n ≤ bs.length)
    && (if kind = 2 then n == 512 else decide (4 ≤ n) && decide (n ≤ 2 ^ 26) && n % 4 == 0)

/-- REVOKE of a configuration body, and MIN_SVN (R37). -/
def cfgRevoke (body : List Byte) (slot : Nat) : Bool := Nat.testBit (recNum body 4 4) (4 + slot)

def cfgMinSvn (body : List Byte) : Nat := recNum body 0 4

/-- Key, hash and signature hold (R38). -/
def recSigned (cfg bs : List Byte) : Bool :=
  let key := recBytes bs 24 97
  ((List.range 4).any fun i => digest key == Config.romKeyDigest i && !cfgRevoke cfg i)
    && digest (recBody bs) == recBytes bs 128 48
    && signatureHolds key (digest (recBytes bs 0 176)) (recBytes bs 176 96)

/-- The failure code of a record, 0 where it is accepted (R38, R42): `cfg` is the configuration body whose REVOKE and
MIN_SVN apply. -/
def recVerdict (kind : Nat) (cfg bs : List Byte) : BitVec 8 :=
  if !recHeaderOk kind bs then 3#8
  else if !recSigned cfg bs then 1#8
  else if kind = 1 && decide (recNum bs 12 4 < cfgMinSvn cfg) then 2#8
  else 0#8

/-! ### Boot -/

/-- A cap as a write takes it (R37, R42). -/
def clampCap (x : Nat) : BitVec 12 := BitVec.ofNat 12 (min 2800 (max 1200 x))

/-- The threshold of hot-row capture as a write takes it (R83). -/
def hrcValue (x : BitVec 16) : BitVec 16 := if x = 0#16 then 512#16 else x

/-- The accepted configuration record applied (R37, R42, R83). -/
def State.applyConfig (s : State) (body : List Byte) : State :=
  let flags := recNum body 4 4
  let cap := clampCap (recNum body 8 2)
  let s := s.modSmc fun c => { c with
    config := body, capHost := cap, capMgmt := cap, deepEn := Nat.testBit flags 0 }
  (List.range 4).foldl (fun (s : State) i => s.modDieMem i fun d => { d with
    hrcThresh := if recNum body 12 4 = 0 then 512#16 else BitVec.ofNat 16 (recNum body 12 4) }) s

/-- Both records verified, measured and loaded, and the device opened (RECORD_VERIFY, FIRMWARE_LOAD: R38, R39). DESIGN
CHOICE, log entry 81: where the firmware is refused, the accepted configuration is measured and not applied. -/
def State.bootWith (s : State) (cfg fw : List Byte) : State :=
  let body := recBody cfg
  let v := recVerdict 2 body cfg
  if v ≠ 0#8 then s.bootFail v
  else
    let s := s.modSmc fun c => { c with measConfig := digest cfg }
    let w := recVerdict 1 body fw
    if w ≠ 0#8 then s.bootFail w
    else
      let s := (s.modSmc fun c => { c with measFirmware := digest fw }).applyConfig body
      s.bringup fun c => { c with phase := 6#4, fetched := none }

/-- The self-test of the IOD passed (R39, phase 1). -/
def State.selfTest (s : State) : State :=
  if s.smc.phase = 1#4 then s.bringup fun c => { c with phase := 2#4 } else s

/-- The staging of the dies and the fetch from their start, with the source that BOOTSEL names (R32, R39). -/
def Smc.restage (c : Smc) : Smc :=
  { c with stagingDie := 0, trained := false, dieSup := 0#4, rows := 0#8, hostSource := Config.bootselHost,
           fetchFails := 0, sourcesFailed := 0, fetched := none, spdm := [] }

/-- POWER_ON (R39): the device from its reset, the SMC out of ROM into its self-test. Host memory, what has left the
device and the count of free values drawn are not the device's. -/
def execPowerOn (s : State) : Outcome State Fault Refusal :=
  let r := State.reset
  let host := s.mem.filter fun (e : Nat × Byte) => paRange e.1 == .host
  .next (({ r with mem := host, free := s.free, mgmtOut := s.mgmtOut, hostOut := s.hostOut, peerOut := s.peerOut,
                   msix := s.msix } : State).bringup fun c => { c.restage with phase := 1#4 })

/-- A core started (R32, R74, R144, R200). -/
def Core.startUp (k : Core) (bts : DWord) (now : Nat) : Core := { k.fresh bts now with started := true, startBerth := 0 }

/-- The die being staged finished, once its rows are started and its stacks trained (R32). -/
def State.dieStaged (s : State) : State :=
  if s.smc.rows = 10#8 && s.smc.trained then
    s.bringup fun c =>
      let c := { c with dieSup := c.dieSup ||| (1#4 <<< c.stagingDie), trained := false, stagingDie := c.stagingDie + 1 }
      if c.stagingDie < 4 then { c with rows := 0#8 } else { c with phase := 3#4 }
  else s

/-- ROW_START (R32). -/
def execRowStart (s : State) : Outcome State Fault Refusal :=
  let s := s.selfTest
  .next (if s.smc.phase = 2#4 && decide (s.smc.rows.toNat < 10) then
      let cs := rowCores s.smc.stagingDie s.smc.rows.toNat
      let s := cs.foldl (fun (s : State) c => s.modCore c fun k => k.startUp s.bts s.cclk) s
      (s.bringup fun c => { c with rows := c.rows + 1#8 }).dieStaged
    else s)

/-- HBM_TRAINED (R32, R39): what the die being staged reports. Stacks that do not train end bring-up in FAILED 0x06, a
die power fault in FAILED 0x05 (R42; DESIGN CHOICE, log entry 58: the die reports it in place of its training). -/
def execHbmTrained (report : DieReport) (s : State) : Outcome State Fault Refusal :=
  let s := s.selfTest
  .next (if s.smc.phase = 2#4 then
      match report with
      | .trained => (s.modSmc fun c => { c with trained := true }).dieStaged
      | .untrained => s.bootFail 6#8
      | .unpowered => s.bootFail 5#8
    else s)

/-- A fetch attempt of the active source that failed (R39). DESIGN CHOICE, log entry 91: the three attempts are counted for
the source, over both of its records. -/
def State.fetchFailed (s : State) : State :=
  let s := s.modSmc fun c => { c with fetchFails := c.fetchFails + 1 }
  if s.smc.fetchFails < 3 then s
  else
    let s := s.modSmc fun c => { c with
      fetchFails := 0, sourcesFailed := c.sourcesFailed + 1, hostSource := !c.hostSource, fetched := none }
    if 2 ≤ s.smc.sourcesFailed then s.bootFail 4#8 else s

/-- BOOT_RECORD_FETCHED (R39): from the network source the configuration record comes first, then the firmware record;
from the host the records come with BOOTCTL.GO. -/
def execBootRecordFetched (firmware : Bool) (bytes : Option (List Byte)) (s : State) : Outcome State Fault Refusal :=
  .next (if s.smc.phase != 3#4 then s
    else match bytes with
      | none => s.fetchFailed
      | some bs =>
        if s.smc.hostSource then s
        else if !firmware then s.modSmc fun c => { c with fetched := some bs }
        else match s.smc.fetched with
          | some cfg => s.bootWith cfg bs
          | none => s)

/-- The record a staging window holds (R36, R50). -/
def windowRecord (m : NMap Byte) (size : Nat) : List Byte :=
  let at_ := fun i => NMap.get 0#8 m i
  let head := (List.range 512).map at_
  head ++ (List.range (min (recNum head 8 4) (size - 512))).map fun i => at_ (512 + i)

/-- A write of BOOTCTL.GO (R39, R50): discarded while the network source is active. -/
def State.bootGo (s : State) : State :=
  if s.smc.phase = 3#4 && s.smc.hostSource then
    s.bootWith (windowRecord s.cfgWin 4096) (windowRecord s.fwWin (2 ^ 27))
  else s

def execBootctlGo (s : State) : Outcome State Fault Refusal := .next s.bootGo

/-! ### Restart and power -/

/-- The operations, event records and routine contexts of a core cancelled, its counters at 0 (R200; log entry 13). -/
def State.restartCore (s : State) (c : Nat) : State :=
  let s := (s.core c).ops.foldl (fun (s : State) (o : EngineOp) => s.releaseAll c o) s
  let s := { s with ownWait := s.ownWait.filter fun (r : OwnReq) => r.core ≠ c }
  let s := (s.core c).tads.foldl (fun (s : State) (t : Nat × Tadpole) => t.2.lanes.foldl (fun (s : State) (l : Nat × Agent) =>
    s.leaveUnits (.tad c t.1 l.1)) s) s
  (s.dropContexts c Option.isSome).modCore c fun k => { k with
    ops := [], tads := [], startBerth := 0, ceIssue := 0#32, meIssue := 0#32, eseqCe := 0#32, eseqMe := 0#32,
    doneOps := [], ceTs := 0#64, meTs := 0#64, eq := [], eqHeld := [] }

/-- Power removed from every compute die (R29, R41): what the dies hold beside memory is gone. -/
def State.powerDown (s : State) : State :=
  let s := { s with launches := s.launches.map fun (e : Nat × Launch) => (e.1, { e.2 with stopped := true }) }
  { s with cores := [], dies := [], l2 := [], mts := [], msc := [], rowAct := [], tlb := [], monitors := [],
           ownWait := [], wlItems := [], net := [], rmws := [], moors := [],
           queues := s.queues.map fun (e : Nat × Queue) => (e.1, { e.2 with pending := none }) }

/-- A restart in phase OPEN (R40, R126, R144, R145). DESIGN CHOICE, log entry 82: registers, page tables, memory, the
caps, FLOOR and the measurements of the boot before keep their values until the next boot sets them; a record whose
dependencies a queue waits for is given up and read again from its slot. -/
def State.restartOpen (s : State) : State :=
  let s := s.stopLaunches (fun _ _ => true) (launchFault 0x0B 3)
  let s := s.cores.foldl (fun (s : State) (c : Nat × Core) => s.restartCore c.1) s
  let s := { s with d2dFailed := false, dies := [], cmd := { s.cmd with lastQueue := 63 },
                      queues := s.queues.map fun (e : Nat × Queue) => (e.1, { e.2 with pending := none }) }
  s.bringup fun c => { c with phase := 3#4, hostSource := Config.bootselHost, fetchFails := 0, sourcesFailed := 0,
                              fetched := none, spdm := [] }

/-- A restart in phase FAILED (R41): discarded while a thermal trip is still hot. -/
def State.restartFailed (s : State) : State :=
  if s.smc.fail = 7#8 && decide (95 ≤ s.smc.tMax.toNat) then s
  else
    let s := { s.powerDown with d2dFailed := false, cmd := { s.cmd with lastQueue := 63 } }
    s.bringup fun c => { c.restage with phase := 1#4, fail := 0#8 }

/-- A write of BOOTCTL.RESTART (R40, R41). -/
def State.bootRestart (s : State) : State :=
  if s.isOpen then s.restartOpen else if s.smc.phase = 15#4 then s.restartFailed else s

def execBootctlRestart (s : State) : Outcome State Fault Refusal := .next s.bootRestart

/-! ### Throttle -/

/-- TLIMIT_OFFSET, 20 at most (R29, R37). -/
def Smc.tlimit (c : Smc) : Nat := min 20 (recNum c.config 10 2)

/-- The junction temperature at which a step is set, and the trip point as step 5 (R29). -/
def Smc.threshold (c : Smc) (step : Nat) : Nat :=
  (match step with
   | 1 => 95
   | 2 => 98
   | 3 => 101
   | 4 => 104
   | _ => 110) - c.tlimit

/-- The step a temperature reaches (R29). -/
def Smc.stepAt (c : Smc) (t : Nat) : Nat := ((List.range 4).filter fun i => decide (c.threshold (i + 1) ≤ t)).length

/-- TSTEP after a sample (R29). -/
def Smc.nextTStep (c : Smc) (t : Nat) : BitVec 4 :=
  let now := c.tStep.toNat
  if now < c.stepAt t then BitVec.ofNat 4 (c.stepAt t)
  else if 1 ≤ now && decide (t + 3 ≤ c.threshold now) then c.tStep - 1#4
  else c.tStep

/-- THERMAL_TRIP (R29): a record for each launch with a resident team, power gone, phase FAILED 0x07. -/
def State.thermalTrip (s : State) : State :=
  let s := s.stopLaunches (fun n _ => s.resident n) (launchFault 0x0A 3)
  (s.powerDown.modSmc fun c => { c with dieSup := 0#4, rows := 0#8 }).bootFail 7#8

/-- THERMAL_SAMPLE (R29). -/
def execThermalSample (hotDie tMax hbmMax : BitVec 8) (s : State) : Outcome State Fault Refusal :=
  let t := tMax.toNat
  let s := s.modSmc fun c => { c with hotDie := hotDie, tMax := tMax, hbmMax := hbmMax, tStep := c.nextTStep t }
  let tripped := s.smc.phase == 15#4 && s.smc.fail == 7#8
  .next (if s.smc.threshold 5 ≤ t && !tripped then s.thermalTrip else s)

/-- POWER_WINDOW_END (R30): the average of the window in milliwatts. DESIGN CHOICE, log entry 83: PWR_NOW rounds it down
to whole watts. -/
def execPowerWindowEnd (milliwatts : Nat) (s : State) : Outcome State Fault Refusal :=
  let cap := 1000 * min s.smc.capHost.toNat s.smc.capMgmt.toNat
  let p := s.smc.pStep
  .next (s.modSmc fun c =>
    let c := { c with pwrNow := BitVec.ofNat 32 (milliwatts / 1000) }
    if cap < milliwatts then { c with below := 0, pStep := if p.toNat < 4 then p + 1#4 else p }
    else if 100 * milliwatts < 95 * cap then
      if 9 ≤ c.below then { c with below := 0, pStep := if p = 0#4 then p else p - 1#4 }
      else { c with below := c.below + 1 }
    else { c with below := 0 })

/-- STEP_RECOMPUTE (R28). -/
def execStepRecompute (s : State) : Outcome State Fault Refusal :=
  .next (s.modSmc fun c => { c with nextStep := BitVec.ofNat 4 (max c.tStep.toNat (max c.pStep.toNat c.floor.toNat)) })

/-- STEP_CHANGE (R27): the new step takes effect; a change sets INT_STAT.SMC (R140). -/
def execStepChange (s : State) : Outcome State Fault Refusal :=
  .next (if s.smc.nextStep = s.smc.step then s else (s.modSmc fun c => { c with step := c.nextStep }).setInt 5)

/-! ### The register block -/

/-- A word of a byte string, little-endian. -/
def wordOf (bs : List Byte) (off : Nat) : Word := BitVec.ofNat 32 (recNum bs off 4)

/-- The serial of a die, 4 for the IOD (R35). -/
def dieSerial (n : Nat) : List Byte := (digest (Config.pufOutput n)).take 16

/-- DIE_SERIAL, DIK_PUB and MEAS (R42). -/
def serialBytes : List Byte := (List.range 5).flatMap dieSerial

def dikBytes : List Byte := (List.range 96).map Config.dikPub

def Smc.measBytes (c : Smc) : List Byte := (List.range 48).map Config.measRom ++ c.measConfig ++ c.measFirmware

def Smc.bringupWord (c : Smc) : Word := c.fail ++ 0#4 ++ c.dieSup ++ c.rows ++ 0#4 ++ c.phase

def Smc.thermWord (c : Smc) : Word := c.hotDie ++ 0#8 ++ c.tMax ++ c.hbmMax

def Smc.throttleWord (c : Smc) : Word := 0#16 ++ c.pStep ++ c.tStep ++ c.floor ++ c.step

/-- BOOTCTL.BUSY (R39): the network source is active before the device is open. -/
def Smc.busy (c : Smc) : Bool := decide (c.phase.toNat < 6) && !c.hostSource

/-- A register of the block that R42 marks "—" before OPEN. -/
def smcClosed (off : Nat) : Bool := off == 0x014 || off == 0x018 || off == 0x020

/-- The value of a register of the block; one that is not listed reads 0 (R42). -/
def State.smcRead (s : State) (off : Nat) : Word :=
  let c := s.smc
  match off with
  | 0x000 => 0x4480#32
  | 0x004 => Config.identRev &&& 0xFF#32
  | 0x008 => c.bringupWord
  | 0x00C => c.thermWord
  | 0x010 => c.throttleWord
  | 0x014 => c.capHost.setWidth 32
  | 0x018 => c.capMgmt.setWidth 32
  | 0x01C => c.pwrNow
  | 0x020 => if c.deepEn then 1#32 else 0#32
  | 0x024 => if c.busy then 0x100#32 else 0#32
  | _ =>
    if 0x040 ≤ off && off < 0x090 then wordOf serialBytes (off - 0x040)
    else if 0x100 ≤ off && off < 0x160 then wordOf dikBytes (off - 0x100)
    else if 0x200 ≤ off && off < 0x290 then wordOf c.measBytes (off - 0x200)
    else 0#32

/-- PWR_CAP_HOST or PWR_CAP_MGMT written (R42). DEDUCED, log entry 84: the value of the whole word is clamped, as R37
clamps a record's 16 bits "exactly as a register write is taken". -/
def State.writeCap (s : State) (mgmt : Bool) (v : Word) : State :=
  let cap := clampCap v.toNat
  s.modSmc fun c => if mgmt then { c with capMgmt := cap } else { c with capHost := cap }

/-- THROTTLE written (R42). -/
def State.writeFloor (s : State) (v : Word) : State :=
  s.modSmc fun c => { c with floor := if 4 < (bits v 4 4).toNat then 4#4 else bits v 4 4 }

/-- A write to the block (R40, R42): before OPEN of BOOTCTL alone. RESTART acts in the phases OPEN and FAILED, where GO
is discarded; elsewhere it is discarded (R41). -/
def State.smcWrite (s : State) (off : Nat) (v : Word) : State :=
  match off with
  | 0x010 => if s.isOpen then s.writeFloor v else s
  | 0x014 => if s.isOpen then s.writeCap false v else s
  | 0x018 => if s.isOpen then s.writeCap true v else s
  | 0x020 => if s.isOpen then s.modSmc fun c => { c with deepEn := v.getLsbD 0 } else s
  | 0x024 => if v.getLsbD 1 && (s.isOpen || s.smc.phase = 15#4) then s.bootRestart else if v.getLsbD 0 then s.bootGo else s
  | _ => s

def execPwrCapWrite (mgmt : Bool) (value : Word) (s : State) : Outcome State Fault Refusal :=
  .next (if s.isOpen then s.writeCap mgmt value else s)

def execFloorWrite (value : Word) (s : State) : Outcome State Fault Refusal :=
  .next (if s.isOpen then s.writeFloor value else s)

/-! ### Management datagrams -/

/-- An answer of the management port: its header and payload (R43). -/
def State.answer (s : State) (type seq code : Nat) (payload : List Byte) : State :=
  let body := leBytes 1 type ++ [1#8] ++ leBytes 2 seq ++ leBytes 2 code ++ leBytes 2 payload.length ++ payload
  { s with mgmtOut := s.mgmtOut ++ [{ port := 0, seq := seq, body := body }] }

/-- The 4 bytes of a word. -/
def wordBytes (w : Word) : List Byte := leBytes 4 w.toNat

/-- A datagram of a bad length answered (R43). DESIGN CHOICE, log entry 43: type and length are looked at before what
R40 and R44 forbid; IDENT and STATUS have no payload, an offset and a value have 4 bytes each. -/
def State.badDatagram (s : State) (type seq : Nat) : State := s.answer type seq 1 []

/-- IDENT, and a datagram of a TYPE that R43 does not list, which is answered with CODE 1. -/
def execIdent (d : TypedDatagram) (s : State) : Outcome State Fault Refusal :=
  .next (if d.other.isSome || !d.payload.isEmpty then s.badDatagram d.type d.seq
    else s.answer 1 d.seq 0 (wordBytes (s.smcRead 0x000) ++ wordBytes (s.smcRead 0x004) ++ serialBytes ++ dikBytes
      ++ s.smc.measBytes))

def execStatus (d : Datagram) (s : State) : Outcome State Fault Refusal :=
  .next (if !d.payload.isEmpty then s.badDatagram 2 d.seq
    else s.answer 2 d.seq 0 (wordBytes (s.smcRead 0x008) ++ wordBytes (s.smcRead 0x00C) ++ wordBytes (s.smcRead 0x010)
      ++ wordBytes (s.smcRead 0x01C)))

def State.spdm (s : State) (port : Nat) : Spdm := NMap.get {} s.smc.spdm port

/-- OWNER_HASH of the accepted configuration record is not zero (R37). -/
def Smc.owned (c : Smc) : Bool := (recBytes c.config 276 48).any fun b => b != 0#8

/-- The management port is inside a session whose requester has shown the owner's key (R44). DESIGN CHOICE, log entry 43:
every REGWR on the port while such a session stands counts as inside it. -/
def State.ownerSession (s : State) : Bool :=
  s.isOpen && s.smc.owned && (s.spdm 0).session == 2 && (s.spdm 0).owner

/-- An offset of the block that names a register word (R43). -/
def smcOffsetOk (off : Nat) : Bool := off % 4 == 0 && decide (off < 4096)

/-- REGRD (R43): an offset of 4 bytes (DESIGN CHOICE, log entry 43). -/
def execRegrd (seq : Nat) (payload : List Byte) (s : State) : Outcome State Fault Refusal :=
  let offset := leNat payload
  .next (if payload.length ≠ 4 then s.badDatagram 3 seq
    else if !s.isOpen || (smcClosed offset && !s.ownerSession) then s.answer 3 seq 3 []
    else if !smcOffsetOk offset then s.answer 3 seq 2 []
    else s.answer 3 seq 0 (wordBytes (s.smcRead offset)))

/-- REGWR (R43): the payload is an offset and a value of 4 bytes each. -/
def execRegwr (seq : Nat) (offset value : List Byte) (s : State) : Outcome State Fault Refusal :=
  let payload := offset ++ value
  let offset := leNat (payload.take 4)
  .next (if payload.length ≠ 8 then s.badDatagram 4 seq
    else if !s.ownerSession then s.answer 4 seq 3 []
    else if !smcOffsetOk offset then s.answer 4 seq 2 []
    else (s.smcWrite offset (BitVec.ofNat 32 (leNat (payload.drop 4)))).answer 4 seq 0 [])

/-! ### SPDM -/

/-- The responder of a path: 0 the management port, 1 the host. -/
def mctpPort : MctpPath → Nat
  | .mgmt _ => 0
  | .host => 1

/-- A message sent along the path of its request: as one vendor-defined message, or in management datagrams of TYPE 5 of
1,024 bytes at most with the SEQ of the request (R43, R44). -/
def State.sendMctp (s : State) (path : MctpPath) (bytes : List Byte) (shows : List SpdmFact) : State :=
  match path with
  | .host => { s with mgmtOut := s.mgmtOut ++ [{ port := 1, seq := 0, body := bytes, shows := shows }] }
  | .mgmt seq => { s with
      mgmtOut := s.mgmtOut ++ (chunks 1024 (max 1 ((bytes.length + 1023) / 1024)) bytes).map fun b =>
        { port := 0, seq := seq, shows := shows,
          body := [5#8, 1#8] ++ leBytes 2 seq ++ [0#8, 0#8] ++ leBytes 2 b.length ++ b } }

/-- An SPDM request answered, the exchange of its port moved on (R44): `n` its number among the ten, `shows` what R44
fixes of the answer. A datagram of more than 1,024 bytes has a bad length (R43). -/
def State.spdmAnswer (s : State) (n : Nat) (path : MctpPath) (request : List Byte) (shows : List SpdmFact)
    (f : Spdm → Spdm) : State :=
  match path, decide (1024 < request.length) with
  | .mgmt seq, true => s.badDatagram 5 seq
  | _, _ =>
    let p := s.spdm (mctpPort path)
    let q := { f p with answered := p.answered + 1 }
    { s.drawn with smc := { s.smc with spdm := s.smc.spdm.put (mctpPort path) q } }.sendMctp path
      (Config.spdmAnswer n s.free shows request) shows

/-- A request that R44 supports from phase OPEN alone. -/
def State.spdmOpen (s : State) (n : Nat) (path : MctpPath) (request : List Byte) (ok : Bool) (shows : List SpdmFact)
    (f : Spdm → Spdm) : State :=
  if s.isOpen && ok then s.spdmAnswer n path request shows f
  else s.spdmAnswer n path request [.unsupported] id

def execGetVersion (path : MctpPath) (request : List Byte) (s : State) : Outcome State Fault Refusal :=
  .next (s.spdmAnswer 0 path request [] fun p => { p with versionSent := true })

def execGetCapabilities (path : MctpPath) (request : List Byte) (s : State) : Outcome State Fault Refusal :=
  .next (s.spdmAnswer 1 path request [] fun p => { p with capabilitiesSent := true })

def execNegotiateAlgorithms (path : MctpPath) (request : List Byte) (s : State) : Outcome State Fault Refusal :=
  .next (s.spdmAnswer 2 path request [.algorithms Config.vendorId 1] fun p => { p with negotiated := true })

def execGetDigests (path : MctpPath) (request : List Byte) (s : State) : Outcome State Fault Refusal :=
  .next (s.spdmAnswer 3 path request [.leaf dikBytes] id)

def execGetCertificate (path : MctpPath) (request : List Byte) (s : State) : Outcome State Fault Refusal :=
  .next (s.spdmAnswer 4 path request [.leaf dikBytes] id)

def execChallenge (path : MctpPath) (request : List Byte) (s : State) : Outcome State Fault Refusal :=
  .next (s.spdmAnswer 5 path request [.signed dikBytes] id)

/-- The measurement of an index, 1 to 3 (R42, R44). -/
def Smc.measurement (c : Smc) (i : Nat) : SpdmFact := .measurement i ((c.measBytes.drop (48 * (i - 1))).take 48)

/-- What a GET_MEASUREMENTS shows (R44). PRESUMED, log entry 43: byte 3 of the request asks for the number of indices
with 0, for every index with 255, and for one index otherwise, as SPDM has it. -/
def Smc.measurements (c : Smc) (request : List Byte) : List SpdmFact :=
  match (request.getD 3 0#8).toNat with
  | 0 => [.count 3]
  | 255 => [c.measurement 1, c.measurement 2, c.measurement 3]
  | i => if i ≤ 3 then [c.measurement i] else [.unsupported]

def execGetMeasurements (path : MctpPath) (request : List Byte) (s : State) : Outcome State Fault Refusal :=
  .next (s.spdmAnswer 6 path request (s.smc.measurements request) id)

/-- KEY_EXCHANGE (R44): a session begins, in phase OPEN alone. -/
def execKeyExchange (path : MctpPath) (request : List Byte) (s : State) : Outcome State Fault Refusal :=
  .next (s.spdmOpen 7 path request true [.leaf dikBytes] fun p => { p with session := 1, owner := false })

/-- FINISH (R44): the session stands once it verifies; its requester is the owner where the key it has proved hashes to
OWNER_HASH (R37). -/
def execFinish (path : MctpPath) (request : List Byte) (s : State) : Outcome State Fault Refusal :=
  .next (s.spdmOpen 8 path request true [] fun p =>
    if p.session == 1 && Config.spdmAuthentic s.free request then
      { p with session := 2, owner := digest (Config.requesterKey s.free request) == recBytes s.smc.config 276 48 }
    else p)

/-- A secured message (R44): answered inside a session, which it leaves as it stands. -/
def execSecuredMessage (path : MctpPath) (request : List Byte) (s : State) : Outcome State Fault Refusal :=
  .next (s.spdmOpen 9 path request ((s.spdm (mctpPort path)).session == 2) [] id)

end Sys2Proof.Machine
end

