-- ==== Sys2Proof/Machine/Registers.lean ====
section
/-! DEFINITION. The register BAR: the value of every register and the effect of every write (R9, R49 to R53, R83, R124,
R389). -/

namespace Sys2Proof.Machine

open Host (Outcome)

/-- Bits written with 1 cleared (RW1C). -/
def clear1 {n : Nat} (x w : BitVec n) : BitVec n := x &&& ~~~w

/-- The low part of a 52-bit address replaced, and its high part. -/
def setLow (b : BitVec 52) (lo : Word) : BitVec 52 := bits b 32 20 ++ lo

def setHigh (b : BitVec 52) (hi : Word) : BitVec 52 := bits hi 0 20 ++ bits b 0 32

/-- The size of a ring as a write takes it (R124). -/
def clampRing (x : BitVec 4) : BitVec 4 := if x.toNat < 4 then 4#4 else if 12 < x.toNat then 12#4 else x

/-! ### Launch queues -/

/-- The value of a register of a queue (R124). -/
def Queue.read (q : Queue) (r : Nat) : Word :=
  match r with
  | 0x00 => 0#18 ++ q.asid ++ 0#1 ++ q.prio ++ 0#3 ++ BitVec.ofBool q.en
  | 0x04 => 0#29 ++ BitVec.ofBool (q.pending.any fun p => !p.unmet.isEmpty) ++ BitVec.ofBool q.err ++ BitVec.ofBool q.run
  | 0x08 => bits q.base 7 25 ++ 0#3 ++ q.size
  | 0x0C => 0#12 ++ bits q.base 32 20
  | 0x10 => q.qwr
  | 0x14 => q.qrd
  | _ => 0#32

/-- QCTL written (R124, R126): EN is judged as it stands when the write arrives. -/
def State.writeQctl (s : State) (q : Nat) (v : Word) : State :=
  let s := if (s.queue q).en then s else s.modQueue q fun k => { k with asid := bits v 8 6, prio := bits v 4 3 }
  let s := s.setEn q (v.getLsbD 0)
  if v.getLsbD 1 then s.killQueue q else s

/-- A register of a queue written (R124, R125). -/
def State.writeQueue (s : State) (q r : Nat) (v : Word) : State :=
  match r with
  | 0x00 => s.writeQctl q v
  | 0x04 => if v.getLsbD 1 then s.modQueue q fun k => { k with err := false } else s
  | 0x08 => s.modQueue q fun k =>
      if k.en then k else { k with base := setLow k.base (v &&& 0xFFFFFF80#32), size := clampRing (bits v 0 4) }
  | 0x0C => s.modQueue q fun k => if k.en then k else { k with base := setHigh k.base v }
  | 0x10 => s.writeQwr q v
  | _ => s

/-! ### The rest of the command interface -/

/-- A register of the command interface beside the queues and the memory blocks (R124). -/
def State.cmdRead (s : State) (off : Nat) : Word :=
  let c := s.cmd
  if 0x1000 ≤ off && off < 0x1200 then
    let p := s.ptroot ((off - 0x1000) / 8)
    if off % 8 = 0 then bits p.root 20 12 ++ 0#19 ++ BitVec.ofBool p.valid else 0#12 ++ bits p.root 32 20
  else match off with
    | 0x2000 => bits c.fqBase 5 27 ++ 0#1 ++ c.fqSize
    | 0x2004 => 0#12 ++ bits c.fqBase 32 20
    | 0x2008 => c.fqWr
    | 0x200C => c.fqRd
    | 0x2010 => c.replayLo
    | 0x2014 => c.replayHi
    | 0x2020 => c.invalLo
    | 0x2024 => c.invalHi
    | 0x2028 => c.invalDone
    | 0x3000 => c.intStat.setWidth 32
    | 0x3004 => c.intMask.setWidth 32
    | _ => 0#32

/-- A page table root written (R124). -/
def State.writeRoot (s : State) (a : Nat) (high : Bool) (v : Word) : State :=
  let p := s.ptroot a
  let q : PtRoot := if high then { p with root := setHigh p.root v }
    else { root := setLow p.root (v &&& 0xFFF00000#32), valid := v.getLsbD 0 }
  { s with ptroots := s.ptroots.put a q }

/-- REPLAY_HI written (R124, R135). -/
def State.writeReplayHi (s : State) (v : Word) : State :=
  let s := { s with cmd := { s.cmd with replayHi := v &&& 0x3FFFFFFF#32 } }
  if v.getLsbD 31 then
    s.replay (bits v 24 6).toNat ((bits v 0 24).toNat * 2 ^ 20 + (bits s.cmd.replayLo 12 20).toNat)
      (s.cmd.replayLo.getLsbD 0)
  else s

/-- INVAL_HI written (R124, R134). -/
def State.writeInvalHi (s : State) (v : Word) : State :=
  let s := { s with cmd := { s.cmd with invalHi := v &&& 0x3FFFFFFF#32 } }
  let lo := s.cmd.invalLo
  if v.getLsbD 31 then
    s.startInval (bits v 24 6).toNat ((bits v 0 24).toNat * 2 ^ 32 + (bits lo 12 20).toNat * 4096) (bits lo 2 2).toNat
      (lo.getLsbD 1)
  else s

/-- A register of the command interface beside the queues and the memory blocks written (R124, R140). -/
def State.cmdWrite (s : State) (off : Nat) (v : Word) : State :=
  let c := s.cmd
  if 0x1000 ≤ off && off < 0x1200 then s.writeRoot ((off - 0x1000) / 8) (off % 8 == 4) v
  else match off with
    | 0x2000 => { s with cmd := { c with fqBase := setLow c.fqBase (v &&& 0xFFFFFFE0#32), fqSize := clampRing (bits v 0 4) } }
    | 0x2004 => { s with cmd := { c with fqBase := setHigh c.fqBase v } }
    | 0x200C => s.writeFqRd v
    | 0x2010 => { s with cmd := { c with replayLo := v &&& 0xFFFFF001#32 } }
    | 0x2014 => s.writeReplayHi v
    | 0x2020 => { s with cmd := { c with invalLo := v &&& 0xFFFFF00E#32 } }
    | 0x2024 => s.writeInvalHi v
    | 0x3000 => { s with cmd := { c with intStat := clear1 c.intStat (bits v 0 6) } }
    | 0x3004 => s.writeIntMask v
    | _ => s

/-! ### The memory registers of a die -/

/-- A register of a die's memory block (R83, R84). -/
def DieMem.read (d : DieMem) (r : Nat) : Word :=
  if 0x100 ≤ r && r < 0x188 then NMap.get 0#32 (if r % 8 = 0 then d.corr else d.uncorr) ((r - 0x100) / 8)
  else if 0x800 ≤ r && r < 0x1000 then
    BitVec.ofNat 32 (leNat ((List.range 4).map fun i => NMap.get 0#8 d.elog (r - 0x800 + i)))
  else match r with
    | 0x000 => d.hrcThresh ++ 0#14 ++ BitVec.ofBool d.scrubEn ++ BitVec.ofBool d.hrcEn
    | 0x004 => d.elogWr
    | 0x008 => d.elogRd
    | 0x00C => d.elogOvf
    | 0x010 => d.mscEvict
    | 0x014 => d.mscCascade
    | 0x018 => d.hrcPromote
    | 0x01C => d.hrcSkip
    | 0x020 => d.netRaw
    | 0x024 => d.netSent
    | _ => 0#32

/-- A register of a die's memory block written (R83). -/
def State.writeDieMem (s : State) (die r : Nat) (v : Word) : State :=
  match r with
  | 0x000 => s.modDieMem die fun d =>
      { d with hrcThresh := hrcValue (bits v 16 16), scrubEn := v.getLsbD 1, hrcEn := v.getLsbD 0 }
  | 0x008 => s.writeElogRd die v
  | 0x00C => s.modDieMem die fun d => { d with elogOvf := clear1 d.elogOvf v }
  | _ => s

/-! ### Apertures -/

def ApState.code : ApState → BitVec 2
  | .off => 0#2
  | .open_ => 1#2
  | .draining => 2#2
  | .fencing => 3#2

/-- A register of an aperture (R53). -/
def Aperture.read (k : Aperture) (r : Nat) : Word :=
  match r with
  | 0x00 => 0#8 ++ k.gen ++ 0#3 ++ k.size ++ 0#8
  | 0x04 => k.refused ++ 0#14 ++ k.state.code
  | 0x08 => 0#6 ++ k.accel ++ 0#4 ++ k.ports
  | 0x10 => bits k.base 12 20 ++ 0#12
  | 0x14 => 0#12 ++ bits k.base 32 20
  | _ => 0#32

/-- A register of an aperture written (R53). -/
def State.writeAperture (s : State) (n r : Nat) (v : Word) : State :=
  let off := (s.aperture n).state == .off
  let put := fun (f : Aperture → Aperture) => if off then s.modAperture n f else s
  match r with
  | 0x00 =>
    let size : BitVec 5 := if 28 < (bits v 8 5).toNat then 28#5 else bits v 8 5
    let s := put fun k => { k with size := size }
    let s := if v.getLsbD 1 then s.retireAperture n else s
    if v.getLsbD 0 && off then s.openAperture n else s
  | 0x04 => s.modAperture n fun k => { k with refused := clear1 k.refused (bits v 16 16) }
  | 0x08 => put fun k => { k with accel := bits v 16 10, ports := bits v 0 12 }
  | 0x10 => put fun k => { k with rbase := setLow k.rbase (v &&& 0xFFFFF000#32) }
  | 0x14 => put fun k => { k with rbase := setHigh k.rbase v }
  | _ => s

/-! ### The link registers -/

/-- A link register (R51). -/
def State.linkRead (s : State) (r : Nat) : Word :=
  if 0x40 ≤ r && r < 0x70 && r % 4 = 0 then
    let p : PeerPort := NMap.get {} s.peerPorts ((r - 0x40) / 4)
    p.retry ++ 0#15 ++ BitVec.ofBool p.up
  else match r with
    | 0x00 => BitVec.ofNat 32 (s.barBase / 2 ^ 28 * 2 ^ 20)
    | 0x04 | 0x08 =>
      let p : HostPort := NMap.get {} s.hostPorts (r / 4 - 1)
      p.corr ++ 0#8 ++ p.width ++ BitVec.ofBool p.cxl ++ p.speed
    | 0x80 => s.d2dRetry ++ 0#15 ++ BitVec.ofBool s.d2dFailed
    | 0x84 => s.inReject
    | _ => 0#32

/-- A link register written (R51). -/
def State.linkWrite (s : State) (r : Nat) (v : Word) : State :=
  if 0x40 ≤ r && r < 0x70 && r % 4 = 0 then
    let p : PeerPort := NMap.get {} s.peerPorts ((r - 0x40) / 4)
    { s with peerPorts := s.peerPorts.put ((r - 0x40) / 4) { p with retry := clear1 p.retry (bits v 16 16) } }
  else match r with
    | 0x00 => { s with hostWin := bits v 20 12 }
    | 0x04 | 0x08 =>
      let p : HostPort := NMap.get {} s.hostPorts (r / 4 - 1)
      { s with hostPorts := s.hostPorts.put (r / 4 - 1) { p with corr := clear1 p.corr (bits v 16 16) } }
    | 0x80 => { s with d2dRetry := clear1 s.d2dRetry (bits v 16 16) }
    | 0x84 => { s with inReject := clear1 s.inReject v }
    | _ => s

/-! ### The register BAR -/

/-- Whether the host may read a register of the SMC block before OPEN (R40, R42). -/
def smcBefore (off : Nat) : Bool := !smcClosed off

/-- The value of a register of the BAR (R40, R49, R50): 0 outside every window, and for every register that R40 closes.
DESIGN CHOICE, log entry 85: an offset that is no multiple of 4 reads 0 and takes no write. -/
def State.readReg (s : State) (off : Nat) : Word :=
  if off % 4 ≠ 0 then 0#32
  else if off < 0x1000 then (if s.isOpen || smcBefore off then s.smcRead off else 0#32)
  else if !s.isOpen then 0#32
  else if 0x100000 ≤ off && off < 0x101000 then (s.queue ((off - 0x100000) / 0x40)).read (off % 0x40)
  else if 0x101000 ≤ off && off < 0x180000 then s.cmdRead (off - 0x100000)
  else if 0x180000 ≤ off && off < 0x190000 then (s.dieMemOf ((off - 0x180000) / 0x4000)).read (off % 0x4000)
  else if 0x200000 ≤ off && off < 0x201000 then (s.aperture ((off - 0x200000) / 0x40)).read (off % 0x40)
  else if 0x201000 ≤ off && off < 0x201080 then NMap.get 0#32 s.allow ((off - 0x201000) / 4)
  else if 0x202000 ≤ off && off < 0x202100 then s.linkRead (off - 0x202000)
  else 0#32

/-- A write to a register of the BAR (R9, R40, R49). -/
def State.writeReg (s : State) (off : Nat) (v : Word) : State :=
  if off % 4 ≠ 0 then s
  else if off < 0x1000 then s.smcWrite off v
  else if !s.isOpen then s
  else if 0x100000 ≤ off && off < 0x101000 then s.writeQueue ((off - 0x100000) / 0x40) (off % 0x40) v
  else if 0x101000 ≤ off && off < 0x180000 then s.cmdWrite (off - 0x100000) v
  else if 0x180000 ≤ off && off < 0x190000 then s.writeDieMem ((off - 0x180000) / 0x4000) (off % 0x4000) v
  else if 0x200000 ≤ off && off < 0x201000 then s.writeAperture ((off - 0x200000) / 0x40) (off % 0x40) v
  else if 0x201000 ≤ off && off < 0x201080 then { s with allow := NMap.set 0#32 s.allow ((off - 0x201000) / 4) v }
  else if 0x202000 ≤ off && off < 0x202100 then s.linkWrite (off - 0x202000) v
  else s

/-- REGISTER_WRITE (R9, R49). -/
def execRegisterWrite (offset : Nat) (value : Word) (s : State) : Outcome State Fault Refusal :=
  .next (s.writeReg offset value)

end Sys2Proof.Machine
end

