-- ==== Sys2Proof/Machine/Dispatch.lean ====
section
/-! DEFINITION. The meaning of every row of the opcode table: one arm per constructor. -/

namespace Sys2Proof.Machine

def exec (i : Instr) (s : State) : Host.Outcome State Fault Refusal :=
  match i with
  | .iadd d a b => Sys2Proof.Machine.execIadd d a b s
  | .iaddi d a imm => Sys2Proof.Machine.execIaddi d a imm s
  | .isub d a b => Sys2Proof.Machine.execIsub d a b s
  | .imul d a b => Sys2Proof.Machine.execImul d a b s
  | .imulh d a b m => Sys2Proof.Machine.execImulh d a b m s
  | .imad d a b => Sys2Proof.Machine.execImad d a b s
  | .imin d a b m => Sys2Proof.Machine.execImin d a b m s
  | .imax d a b m => Sys2Proof.Machine.execImax d a b m s
  | .iand d a b => Sys2Proof.Machine.execIand d a b s
  | .iandi d a imm => Sys2Proof.Machine.execIandi d a imm s
  | .ior d a b => Sys2Proof.Machine.execIor d a b s
  | .iori d a imm => Sys2Proof.Machine.execIori d a imm s
  | .ixor d a b => Sys2Proof.Machine.execIxor d a b s
  | .ixori d a imm => Sys2Proof.Machine.execIxori d a imm s
  | .ishl d a b => Sys2Proof.Machine.execIshl d a b s
  | .ishli d a imm => Sys2Proof.Machine.execIshli d a imm s
  | .ishr d a b => Sys2Proof.Machine.execIshr d a b s
  | .ishri d a imm => Sys2Proof.Machine.execIshri d a imm s
  | .isar d a b => Sys2Proof.Machine.execIsar d a b s
  | .isari d a imm => Sys2Proof.Machine.execIsari d a imm s
  | .irol d a b => Sys2Proof.Machine.execIrol d a b s
  | .inot d a => Sys2Proof.Machine.execInot d a s
  | .iabs d a => Sys2Proof.Machine.execIabs d a s
  | .ipopc d a => Sys2Proof.Machine.execIpopc d a s
  | .iclz d a => Sys2Proof.Machine.execIclz d a s
  | .ibrev d a => Sys2Proof.Machine.execIbrev d a s
  | .ibfx d a b m => Sys2Proof.Machine.execIbfx d a b m s
  | .ibfi d a b => Sys2Proof.Machine.execIbfi d a b s
  | .iadd64 d a b => Sys2Proof.Machine.execIadd64 d a b s
  | .isub64 d a b => Sys2Proof.Machine.execIsub64 d a b s
  | .imul64 d a b => Sys2Proof.Machine.execImul64 d a b s
  | .lea d sc a b m => Sys2Proof.Machine.execLea d sc a b m s
  | .mov d a => Sys2Proof.Machine.execMov d a s
  | .movi d imm => Sys2Proof.Machine.execMovi d imm s
  | .movk d k => Sys2Proof.Machine.execMovk d k s
  | .isel p d a b m => Sys2Proof.Machine.execIsel p d a b m s
  | .icmp t c p a b => Sys2Proof.Machine.execIcmp t c p a b s
  | .icmpi t c p a imm => Sys2Proof.Machine.execIcmpi t c p a imm s
  | .pand p x q y r => Sys2Proof.Machine.execPand p x q y r s
  | .por p x q y r => Sys2Proof.Machine.execPor p x q y r s
  | .pxor p x q y r => Sys2Proof.Machine.execPxor p x q y r s
  | .pnot p x q => Sys2Proof.Machine.execPnot p x q s
  | .pget d => Sys2Proof.Machine.execPget d s
  | .pset a => Sys2Proof.Machine.execPset a s
  | .brp p sc o => Sys2Proof.Machine.execBrp p sc o s
  | .br o => Sys2Proof.Machine.execBr o s
  | .call o => Sys2Proof.Machine.execCall o s
  | .brx a => Sys2Proof.Machine.execBrx a s
  | .callx p a => Sys2Proof.Machine.execCallx p a s
  | .nop => Sys2Proof.Machine.execNop s
  | .ret => Sys2Proof.Machine.execRet s
  | .exit => Sys2Proof.Machine.execExit s
  | .yield => Sys2Proof.Machine.execYield s
  | .jset j => Sys2Proof.Machine.execJset j s
  | .jclr j => Sys2Proof.Machine.execJclr j s
  | .jwait j => Sys2Proof.Machine.execJwait j s
  | .jdrop j => Sys2Proof.Machine.execJdrop j s
  | .jmask d j => Sys2Proof.Machine.execJmask d j s
  | .vshfl d a b m => Sys2Proof.Machine.execVshfl d a b m s
  | .vbal d x p b => Sys2Proof.Machine.execVbal d x p b s
  | .vvote q x p b m => Sys2Proof.Machine.execVvote q x p b m s
  | .vmatch d a b m => Sys2Proof.Machine.execVmatch d a b m s
  | .elect p b => Sys2Proof.Machine.execElect p b s
  | .vred d op t b => Sys2Proof.Machine.execVred d op t b s
  | .vscan d op t b => Sys2Proof.Machine.execVscan d op t b s
  | .fadd r d a b => Sys2Proof.Machine.execFadd r d a b s
  | .fsub r d a b => Sys2Proof.Machine.execFsub r d a b s
  | .fdiv r d a b => Sys2Proof.Machine.execFdiv r d a b s
  | .ffma r d a b => Sys2Proof.Machine.execFfma r d a b s
  | .fmul r d a b => Sys2Proof.Machine.execFmul r d a b s
  | .fmin d a b => Sys2Proof.Machine.execFmin d a b s
  | .fmax d a b => Sys2Proof.Machine.execFmax d a b s
  | .fcmp c p a b => Sys2Proof.Machine.execFcmp c p a b s
  | .dcmp c p a b => Sys2Proof.Machine.execDcmp c p a b s
  | .hcmp2 t c p a b => Sys2Proof.Machine.execHcmp2 t c p a b s
  | .frnd d a r => Sys2Proof.Machine.execFrnd d a r s
  | .fclass d a => Sys2Proof.Machine.execFclass d a s
  | .frcp d a => Sys2Proof.Machine.execFrcp d a s
  | .fsqrt d a r => Sys2Proof.Machine.execFsqrt d a r s
  | .frsq d a => Sys2Proof.Machine.execFrsq d a s
  | .fexp2 d a => Sys2Proof.Machine.execFexp2 d a s
  | .flog2 d a => Sys2Proof.Machine.execFlog2 d a s
  | .fmovm d a t o => Sys2Proof.Machine.execFmovm d a t o s
  | .dsqrt d a r => Sys2Proof.Machine.execDsqrt d a r s
  | .drnd d a r => Sys2Proof.Machine.execDrnd d a r s
  | .hadd2 d a b m => Sys2Proof.Machine.execHadd2 d a b m s
  | .hmul2 d a b m => Sys2Proof.Machine.execHmul2 d a b m s
  | .hfma2 d a b m => Sys2Proof.Machine.execHfma2 d a b m s
  | .hmin2 d a b m => Sys2Proof.Machine.execHmin2 d a b m s
  | .hmax2 d a b m => Sys2Proof.Machine.execHmax2 d a b m s
  | .dadd d r a b => Sys2Proof.Machine.execDadd d r a b s
  | .dsub d r a b => Sys2Proof.Machine.execDsub d r a b s
  | .dmul d r a b => Sys2Proof.Machine.execDmul d r a b s
  | .dfma d r a b => Sys2Proof.Machine.execDfma d r a b s
  | .ddiv d r a b => Sys2Proof.Machine.execDdiv d r a b s
  | .dmin d a b => Sys2Proof.Machine.execDmin d a b s
  | .dmax d a b => Sys2Proof.Machine.execDmax d a b s
  | .cvt r d a t sc => Sys2Proof.Machine.execCvt r d a t sc s
  | .cvtd r d a t sc => Sys2Proof.Machine.execCvtd r d a t sc s
  | .drel d a b => Sys2Proof.Machine.execDrel d a b s
  | .qdxb d a x f h p => Sys2Proof.Machine.execQdxb d a x f h p s
  | .dqdxb d a b m => Sys2Proof.Machine.execDqdxb d a b m s
  | .ld d a z o => Sys2Proof.Machine.execLd d a z o s
  | .ldSigned d a z o => Sys2Proof.Machine.execLdSigned d a z o s
  | .st d a z o => Sys2Proof.Machine.execSt d a z o s
  | .ldt d a z o => Sys2Proof.Machine.execLdt d a z o s
  | .ldtSigned d a z o => Sys2Proof.Machine.execLdtSigned d a z o s
  | .stt d a z o => Sys2Proof.Machine.execStt d a z o s
  | .xld d a b => Sys2Proof.Machine.execXld d a b s
  | .xst d a b => Sys2Proof.Machine.execXst d a b s
  | .cflush a => Sys2Proof.Machine.execCflush a s
  | .cinv a => Sys2Proof.Machine.execCinv a s
  | .atom d a o z m => Sys2Proof.Machine.execAtom d a o z m s
  | .red d a o z m => Sys2Proof.Machine.execRed d a o z m s
  | .atomf d a o z m => Sys2Proof.Machine.execAtomf d a o z m s
  | .redf d a o z m => Sys2Proof.Machine.execRedf d a o z m s
  | .fence sc => Sys2Proof.Machine.execFence sc s
  | .waitc d a c z => Sys2Proof.Machine.execWaitc d a c z s
  | .balloc d p imm => Sys2Proof.Machine.execBalloc d p imm s
  | .bref a => Sys2Proof.Machine.execBref a s
  | .bfree a => Sys2Proof.Machine.execBfree a s
  | .barr a n => Sys2Proof.Machine.execBarr a n s
  | .barrReg d a => Sys2Proof.Machine.execBarrReg d a s
  | .bexp d a => Sys2Proof.Machine.execBexp d a s
  | .bwait a p => Sys2Proof.Machine.execBwait a p s
  | .btest d a p => Sys2Proof.Machine.execBtest d a p s
  | .tbar => Sys2Proof.Machine.execTbar s
  | .cbar => Sys2Proof.Machine.execCbar s
  | .bsnnew d a p => Sys2Proof.Machine.execBsnnew d a p s
  | .bsnpost d a p => Sys2Proof.Machine.execBsnpost d a p s
  | .bsnfill d a p => Sys2Proof.Machine.execBsnfill d a p s
  | .bsnrel a p => Sys2Proof.Machine.execBsnrel a p s
  | .bsnfree a => Sys2Proof.Machine.execBsnfree a s
  | .brdhLin d a e p => Sys2Proof.Machine.execBrdhLin d a e p s
  | .brdhTen d a e p => Sys2Proof.Machine.execBrdhTen d a e p s
  | .tcpy d a b p => Sys2Proof.Machine.execTcpy d a b p s
  | .twb d a p => Sys2Proof.Machine.execTwb d a p s
  | .gath a p => Sys2Proof.Machine.execGath a p s
  | .scat a p => Sys2Proof.Machine.execScat a p s
  | .moor d a p => Sys2Proof.Machine.execMoor d a p s
  | .unmoor d a => Sys2Proof.Machine.execUnmoor d a s
  | .mma d a p => Sys2Proof.Machine.execMma d a p s
  | .acld d a c => Sys2Proof.Machine.execAcld d a c s
  | .acst d a c => Sys2Proof.Machine.execAcst d a c s
  | .acz a => Sys2Proof.Machine.execAcz a s
  | .acq d a p => Sys2Proof.Machine.execAcq d a p s
  | .acflg d a => Sys2Proof.Machine.execAcflg d a s
  | .wopen a p => Sys2Proof.Machine.execWopen a p s
  | .wapp d a p => Sys2Proof.Machine.execWapp d a p s
  | .wtake d a p => Sys2Proof.Machine.execWtake d a p s
  | .tend => Sys2Proof.Machine.execTend s
  | .clins d a p => Sys2Proof.Machine.execClins d a p s
  | .clrem d a p => Sys2Proof.Machine.execClrem d a p s
  | .clnext d a p => Sys2Proof.Machine.execClnext d a p s
  | .clcnt d a => Sys2Proof.Machine.execClcnt d a s
  | .clgrow d a p => Sys2Proof.Machine.execClgrow d a p s
  | .clstat d a => Sys2Proof.Machine.execClstat d a s
  | .frag d a p => Sys2Proof.Machine.execFrag d a p s
  | .frrd d a => Sys2Proof.Machine.execFrrd d a s
  | .rslv d a f => Sys2Proof.Machine.execRslv d a f s
  | .frclr d a => Sys2Proof.Machine.execFrclr d a s
  | .pooladd d a p => Sys2Proof.Machine.execPooladd d a p s
  | .poolst d a => Sys2Proof.Machine.execPoolst d a s
  | .isect d a => Sys2Proof.Machine.execIsect d a s
  | .isnext d => Sys2Proof.Machine.execIsnext d s
  | .tcov d => Sys2Proof.Machine.execTcov d s
  | .mfs d n => Sys2Proof.Machine.execMfs d n s
  | .mts d n => Sys2Proof.Machine.execMts d n s
  | .trap n => Sys2Proof.Machine.execTrap n s
  | .eret => Sys2Proof.Machine.execEret s
  | .brk => Sys2Proof.Machine.execBrk s
  | .evpop d p => Sys2Proof.Machine.execEvpop d p s
  | .evpeek d p => Sys2Proof.Machine.execEvpeek d p s
  | .trel a p => Sys2Proof.Machine.execTrel a p s
  | .tkill a p => Sys2Proof.Machine.execTkill a p s
  | .idle => Sys2Proof.Machine.execIdle s
  | .hintImm20 imm => Sys2Proof.Machine.execHintImm20 imm s
  | .hintGuard x p => Sys2Proof.Machine.execHintGuard x p s
  | .hintC4 c => Sys2Proof.Machine.execHintC4 c s
  | .hintCache k => Sys2Proof.Machine.execHintCache k s
  | .hintScope sc => Sys2Proof.Machine.execHintScope sc s
  | .hintDxbd d => Sys2Proof.Machine.execHintDxbd d s
  | .wordLevelIllegal word => Sys2Proof.Machine.execWordLevelIllegal word s
  | .malformedHint word => Sys2Proof.Machine.execMalformedHint word s
  | .deepIdleEnter die row => Sys2Proof.Machine.execDeepIdleEnter die row s
  | .rowWake die row => Sys2Proof.Machine.execRowWake die row s
  | .issueRamp core => Sys2Proof.Machine.execIssueRamp core s
  | .peerAccessArrive access => Sys2Proof.Machine.execPeerAccessArrive access s
  | .retireTimeout aperture => Sys2Proof.Machine.execRetireTimeout aperture s
  | .retireFenced aperture => Sys2Proof.Machine.execRetireFenced aperture s
  | .rowActivation stack bank row => Sys2Proof.Machine.execRowActivation stack bank row s
  | .refreshWindowEnd stack => Sys2Proof.Machine.execRefreshWindowEnd stack s
  | .patrolScrub sector => Sys2Proof.Machine.execPatrolScrub sector s
  | .errorLogReport die => Sys2Proof.Machine.execErrorLogReport die s
  | .moorLeaseEnd line => Sys2Proof.Machine.execMoorLeaseEnd line s
  | .dependencyRead queue => Sys2Proof.Machine.execDependencyRead queue s
  | .dieSchedCycle die => Sys2Proof.Machine.execDieSchedCycle die s
  | .drainStart die => Sys2Proof.Machine.execDrainStart die s
  | .regionClaim core slot => Sys2Proof.Machine.execRegionClaim core slot s
  | .teamStart core slot => Sys2Proof.Machine.execTeamStart core slot s
  | .teamResume core slot => Sys2Proof.Machine.execTeamResume core slot s
  | .slotRelease core slot => Sys2Proof.Machine.execSlotRelease core slot s
  | .launchComplete launch => Sys2Proof.Machine.execLaunchComplete launch s
  | .broadcastFetch core berth => Sys2Proof.Machine.execBroadcastFetch core berth s
  | .laneStarving lane => Sys2Proof.Machine.execLaneStarving lane s
  | .runAhead lane => Sys2Proof.Machine.execRunAhead lane s
  | .loadReturn lane => Sys2Proof.Machine.execLoadReturn lane s
  | .storeCompletion lane => Sys2Proof.Machine.execStoreCompletion lane s
  | .yieldRelease lane => Sys2Proof.Machine.execYieldRelease lane s
  | .eqRecordEnqueue core => Sys2Proof.Machine.execEqRecordEnqueue core s
  | .firmwareEvent core => Sys2Proof.Machine.execFirmwareEvent core s
  | .engineUnitFault core engine seq => Sys2Proof.Machine.execEngineUnitFault core engine seq s
  | .engineUnitError core engine seq => Sys2Proof.Machine.execEngineUnitError core engine seq s
  | .burstDeliver core seq burst => Sys2Proof.Machine.execBurstDeliver core seq burst s
  | .tcpyComplete core seq => Sys2Proof.Machine.execTcpyComplete core seq s
  | .gatherComplete core seq => Sys2Proof.Machine.execGatherComplete core seq s
  | .ownershipGrant line => Sys2Proof.Machine.execOwnershipGrant line s
  | .engineLineRelease line => Sys2Proof.Machine.execEngineLineRelease line s
  | .mmaOperandRead core seq => Sys2Proof.Machine.execMmaOperandRead core seq s
  | .mmaComplete core seq => Sys2Proof.Machine.execMmaComplete core seq s
  | .acqComplete core seq => Sys2Proof.Machine.execAcqComplete core seq s
  | .waitcReread lane => Sys2Proof.Machine.execWaitcReread lane s
  | .wappItemWritten item => Sys2Proof.Machine.execWappItemWritten item s
  | .wtakeEmpty lane => Sys2Proof.Machine.execWtakeEmpty lane s
  | .bsnfillTimeout lane => Sys2Proof.Machine.execBsnfillTimeout lane s
  | .hbmTrained report => Sys2Proof.Machine.execHbmTrained report s
  | .bootRecordFetched firmware bytes => Sys2Proof.Machine.execBootRecordFetched firmware bytes s
  | .thermalSample hotDie tMax hbmMax => Sys2Proof.Machine.execThermalSample hotDie tMax hbmMax s
  | .powerWindowEnd milliwatts => Sys2Proof.Machine.execPowerWindowEnd milliwatts s
  | .pwrCapWrite mgmt value => Sys2Proof.Machine.execPwrCapWrite mgmt value s
  | .floorWrite value => Sys2Proof.Machine.execFloorWrite value s
  | .ident datagram => Sys2Proof.Machine.execIdent datagram s
  | .status datagram => Sys2Proof.Machine.execStatus datagram s
  | .regrd seq payload => Sys2Proof.Machine.execRegrd seq payload s
  | .regwr seq offset value => Sys2Proof.Machine.execRegwr seq offset value s
  | .getVersion path request => Sys2Proof.Machine.execGetVersion path request s
  | .getCapabilities path request => Sys2Proof.Machine.execGetCapabilities path request s
  | .negotiateAlgorithms path request => Sys2Proof.Machine.execNegotiateAlgorithms path request s
  | .getDigests path request => Sys2Proof.Machine.execGetDigests path request s
  | .getCertificate path request => Sys2Proof.Machine.execGetCertificate path request s
  | .challenge path request => Sys2Proof.Machine.execChallenge path request s
  | .getMeasurements path request => Sys2Proof.Machine.execGetMeasurements path request s
  | .keyExchange path request => Sys2Proof.Machine.execKeyExchange path request s
  | .finish path request => Sys2Proof.Machine.execFinish path request s
  | .securedMessage path request => Sys2Proof.Machine.execSecuredMessage path request s
  | .hostMemRead addr size tag => Sys2Proof.Machine.execHostMemRead addr size tag s
  | .hostMemWrite addr bytes => Sys2Proof.Machine.execHostMemWrite addr bytes s
  | .peerInbound accel request => Sys2Proof.Machine.execPeerInbound accel request s
  | .apertureEn aperture => Sys2Proof.Machine.execApertureEn aperture s
  | .apertureRetire aperture => Sys2Proof.Machine.execApertureRetire aperture s
  | .peerCompletion access bytes => Sys2Proof.Machine.execPeerCompletion access bytes s
  | .ualinkPortDown port => Sys2Proof.Machine.execUalinkPortDown port s
  | .ualinkPortUp port => Sys2Proof.Machine.execUalinkPortUp port s
  | .hostPortDown port => Sys2Proof.Machine.execHostPortDown port s
  | .ucieFlitFail die => Sys2Proof.Machine.execUcieFlitFail die s
  | .linkReplay link => Sys2Proof.Machine.execLinkReplay link s
  | .memoryErrorDetect error => Sys2Proof.Machine.execMemoryErrorDetect error s
  | .qwrWrite queue value => Sys2Proof.Machine.execQwrWrite queue value s
  | .qctlEn queue en => Sys2Proof.Machine.execQctlEn queue en s
  | .qctlKill queue => Sys2Proof.Machine.execQctlKill queue s
  | .replayRetry asid page => Sys2Proof.Machine.execReplayRetry asid page s
  | .replayFail asid page => Sys2Proof.Machine.execReplayFail asid page s
  | .invalRange asid va size => Sys2Proof.Machine.execInvalRange asid va size s
  | .invalAll asid => Sys2Proof.Machine.execInvalAll asid s
  | .fqRdWrite value => Sys2Proof.Machine.execFqRdWrite value s
  | .elogRdWrite die value => Sys2Proof.Machine.execElogRdWrite die value s
  | .intMaskWrite value => Sys2Proof.Machine.execIntMaskWrite value s
  | .registerWrite offset value => Sys2Proof.Machine.execRegisterWrite offset value s
  | .hostPortUp port width speed cxl => Sys2Proof.Machine.execHostPortUp port width speed cxl s
  | .bootStagingWrite firmware offset bytes => Sys2Proof.Machine.execBootStagingWrite firmware offset bytes s
  | .hostAtomicop op offset tag => Sys2Proof.Machine.execHostAtomicop op offset tag s
  | .powerOn => Sys2Proof.Machine.execPowerOn s
  | .rowStart => Sys2Proof.Machine.execRowStart s
  | .bootctlGo => Sys2Proof.Machine.execBootctlGo s
  | .bootctlRestart => Sys2Proof.Machine.execBootctlRestart s
  | .stepRecompute => Sys2Proof.Machine.execStepRecompute s
  | .stepChange => Sys2Proof.Machine.execStepChange s
  | .btsTick => Sys2Proof.Machine.execBtsTick s
  | .invalComplete => Sys2Proof.Machine.execInvalComplete s
  | .iodSchedCycle => Sys2Proof.Machine.execIodSchedCycle s

end Sys2Proof.Machine
end

