-- ==== Sys2Proof/Machine/Fetch.lean ====
section
/-! DEFINITION. What acts next: the moves of a CCLK, the word a thread runs, the fetch of a keeper context, and the
thread put back after its word (R126, R142, R149, R164, R178, R277; log entry 1). -/

namespace Sys2Proof.Machine

open Host (Outcome)

/-- What the agenda gives a step: a state, where the move is the machine's own, or a row of the table to execute. -/
inductive Chosen where
  | quiet (s : State)
  | run (i : Instr) (s : State)

/-! ### Events of the agenda -/

/-- Events that reach the device from outside its cores and schedulers (R25 to R59, R124): the host, peers, the
management port, sensors, links, clocks of other domains. -/
def fromOutside : Instr → Bool
  | .powerOn | .rowStart | .hbmTrained _ | .bootRecordFetched _ _ | .bootctlGo | .bootctlRestart | .thermalSample _ _ _
  | .powerWindowEnd _ | .stepRecompute | .stepChange | .pwrCapWrite _ _ | .floorWrite _ | .ident _ | .status _ | .regrd _ _
  | .regwr _ _ _ | .getVersion _ _ | .getCapabilities _ _ | .negotiateAlgorithms _ _ | .getDigests _ _
  | .getCertificate _ _ | .challenge _ _ | .getMeasurements _ _ | .keyExchange _ _ | .finish _ _ | .securedMessage _ _
  | .hostMemRead _ _ _ | .hostMemWrite _ _ | .peerInbound _ _ | .apertureEn _ | .apertureRetire _ | .peerCompletion _ _
  | .ualinkPortDown _ | .ualinkPortUp _ | .hostPortDown _ | .hostPortUp _ _ _ _ | .ucieFlitFail _
  | .linkReplay _ | .rowActivation _ _ _ | .refreshWindowEnd _ | .patrolScrub _ | .memoryErrorDetect _ | .qwrWrite _ _
  | .qctlEn _ _ | .qctlKill _ | .replayRetry _ _ | .replayFail _ _ | .invalRange _ _ _ | .invalAll _ | .fqRdWrite _
  | .elogRdWrite _ _ | .intMaskWrite _ | .registerWrite _ _ | .bootStagingWrite _ _ _ | .hostAtomicop _ _ _
  | .runAhead _ => true
  | _ => false

/-- Events whose time the spec leaves open: each may wait for a later CCLK. -/
def mayWait : Instr → Bool
  | .rowWake _ _ | .peerAccessArrive _ | .retireFenced _ | .errorLogReport _ | .invalComplete | .dependencyRead _
  | .regionClaim _ _ | .teamStart _ _ | .teamResume _ _ | .slotRelease _ _ | .launchComplete _ | .loadReturn _
  | .storeCompletion _ | .eqRecordEnqueue _ | .firmwareEvent _ | .engineUnitFault _ _ _ | .engineUnitError _ _ _
  | .burstDeliver _ _ _ | .tcpyComplete _ _ | .gatherComplete _ _ | .ownershipGrant _ | .engineLineRelease _
  | .mmaComplete _ _ | .acqComplete _ _ | .wappItemWritten _ => true
  | _ => false

/-- Aperture accesses keep their order (R55). -/
def isArrival : Instr → Bool
  | .peerAccessArrive _ => true
  | _ => false

/-- A row of the opcode table that is an event of the device and no instruction word (R25, R268). -/
def isEvent : Instr → Bool
  | .deepIdleEnter _ _ | .rowWake _ _ | .issueRamp _ | .peerAccessArrive _ | .retireTimeout _ | .retireFenced _
    | .rowActivation _ _ _ | .refreshWindowEnd _ | .patrolScrub _ | .errorLogReport _ | .moorLeaseEnd _
    | .dependencyRead _ | .dieSchedCycle _ | .drainStart _ | .regionClaim _ _ | .teamStart _ _ | .teamResume _ _
    | .slotRelease _ _ | .launchComplete _ | .broadcastFetch _ _ | .laneStarving _ | .runAhead _ | .loadReturn _
    | .storeCompletion _ | .yieldRelease _ | .eqRecordEnqueue _ | .firmwareEvent _ | .engineUnitFault _ _ _
    | .engineUnitError _ _ _ | .burstDeliver _ _ _ | .tcpyComplete _ _ | .gatherComplete _ _ | .ownershipGrant _
    | .engineLineRelease _ | .mmaOperandRead _ _ | .mmaComplete _ _ | .acqComplete _ _ | .waitcReread _
    | .wappItemWritten _ | .wtakeEmpty _ | .bsnfillTimeout _ | .hbmTrained _ | .bootRecordFetched _ _
    | .thermalSample _ _ _ | .powerWindowEnd _ | .pwrCapWrite _ _ | .floorWrite _ | .ident _ | .status _
    | .regrd _ _ | .regwr _ _ _ | .getVersion _ _ | .getCapabilities _ _ | .negotiateAlgorithms _ _
    | .getDigests _ _ | .getCertificate _ _ | .challenge _ _ | .getMeasurements _ _ | .keyExchange _ _ | .finish _ _
    | .securedMessage _ _ | .hostMemRead _ _ _ | .hostMemWrite _ _ | .peerInbound _ _ | .apertureEn _
    | .apertureRetire _ | .peerCompletion _ _ | .ualinkPortDown _ | .ualinkPortUp _ | .hostPortDown _
    | .ucieFlitFail _ | .linkReplay _ | .memoryErrorDetect _ | .qwrWrite _ _ | .qctlEn _ _ | .qctlKill _
    | .replayRetry _ _ | .replayFail _ _ | .invalRange _ _ _ | .invalAll _ | .fqRdWrite _ | .elogRdWrite _ _
    | .intMaskWrite _ | .registerWrite _ _ | .hostPortUp _ _ _ _ | .bootStagingWrite _ _ _ | .hostAtomicop _ _ _
    | .powerOn | .rowStart | .bootctlGo | .bootctlRestart | .stepRecompute | .stepChange | .btsTick | .invalComplete
    | .iodSchedCycle => true
  | _ => false

/-- Whether an event waits. -/
def State.waits (s : State) (i : Instr) : Bool :=
  mayWait i && (Config.freeBool s.free || (isArrival i && s.delayed.any isArrival))

/-- An event of the agenda: executed now, or kept for a later CCLK. A word is no event: words run from threads alone. -/
def State.takeEvent (s : State) (i : Instr) : Chosen :=
  if !isEvent i then .quiet s
  else if mayWait i then
    let s' := s.drawn
    if s.waits i then .quiet { s' with delayed := s'.delayed ++ [i] } else .run i s'
  else .run i s

/-! ### One CCLK -/

/-- The wait of a ready lane of a team slot counted; it starts again where the lane is not ready (R149). -/
def Core.tickLane (k : Core) (slot : Nat) (a : Agent) : Agent :=
  if k.readyLane slot a then { a with wait := a.wait + 1 } else { a with wait := 0, starving := false }

/-- A core after a CCLK. -/
def Core.tick (k : Core) (now : Nat) : Core :=
  { k with
    lastHeld := if k.holdsWork then now else k.lastHeld,
    teams := k.teams.map fun (t : Nat × Team) =>
      if t.2.runs then (t.1, { t.2 with lanes := t.2.lanes.map fun (l : Nat × Agent) => (l.1, k.tickLane t.1 l.2) }) else t,
    tads := k.tads.map fun (t : Nat × Tadpole) =>
      (t.1, { t.2 with lanes := t.2.lanes.map fun (l : Nat × Agent) => (l.1, k.tickLane t.2.slot l.2) }) }

/-- What time brings a lane: it starves, its YIELD ends, or a wait of 4,096 CCLK is over (R149, R160, R193, R195, R295). -/
def laneEvents (now : Nat) (r : AgentRef) (a : Agent) : List Instr :=
  let late := decide (a.parkedAt + 4096 ≤ now)
  (if 256 ≤ a.wait && !a.starving then [.laneStarving r] else [])
    ++ (if a.yieldUntil.any fun t => decide (t ≤ now) then [.yieldRelease r] else [])
    ++ match a.status with
      | .parked (.take _) => if late then [.wtakeEmpty r] else []
      | .parked (.basin _ _ _ _) => if late then [.bsnfillTimeout r] else []
      | .parked (.cond w) => if late && !w.monitor then [.waitcReread r] else []
      | _ => []

/-- What time brings the lanes of a core. -/
def coreEvents (now c : Nat) (k : Core) : List Instr :=
  (k.teams.flatMap fun (t : Nat × Team) => t.2.lanes.flatMap fun (l : Nat × Agent) => laneEvents now (.lane c t.1 l.1) l.2)
    ++ (k.tads.flatMap fun (t : Nat × Tadpole) =>
      t.2.lanes.flatMap fun (l : Nat × Agent) => laneEvents now (.tad c t.1 l.1) l.2)
    ++ (k.contexts.flatMap fun (x : Nat × KeeperCtx) => laneEvents now (.keeper c x.1) x.2.ag)
    ++ k.teams.filterMap fun (t : Nat × Team) => if t.2.preempted && t.2.holds then some (.teamResume c t.1) else none

/-- CCLK in a millisecond at a throttle step (R27). -/
def cclkPerMs (step : BitVec 4) : Nat :=
  match step.toNat with
  | 0 => 850000
  | 1 => 765000
  | 2 => 680000
  | 3 => 595000
  | _ => 425000

/-- What time and the states of its units bring the device. -/
def State.dueEvents (s : State) : List Instr :=
  let now := s.cclk
  (s.cores.flatMap fun (c : Nat × Core) => coreEvents now c.1 c.2)
    ++ (if now % 64 = 0 then [.btsTick] else [])
    ++ (s.queues.filterMap fun (q : Nat × Queue) =>
      if q.2.pending.any fun p => !p.unmet.isEmpty && decide (p.readAt + 4096 ≤ now) then some (.dependencyRead q.1) else none)
    ++ (if s.cmd.invalWait.isEmpty then [] else [.invalComplete])
    ++ (s.launches.filterMap fun (l : Nat × Launch) => if s.launchOver l.1 then some (.launchComplete l.1) else none)
    ++ (s.l2.flatMap fun (e : Nat × List L2Line) => e.2.filterMap fun (l : L2Line) =>
      if l.moor.any fun m => decide (m.1 ≤ now) then some (.moorLeaseEnd l.line) else none)
    ++ (s.apertures.filterMap fun (a : Nat × Aperture) =>
      if a.2.state == .fencing && s.fenced a.1 then some (.retireFenced a.1)
      else if a.2.state == .draining && decide (a.2.drainAt + cclkPerMs s.smc.step ≤ now) then some (.retireTimeout a.1)
      else none)
    ++ (List.range 40).filterMap fun i => if s.rowIdle (i / 10) (i % 10) then some (.deepIdleEnter (i / 10) (i % 10)) else none

/-- The berths of a core that hold lanes, and its keeper core: the moves of one CCLK of each. -/
def coreMoves (c : Nat) (k : Core) : List (List Move) :=
  ((List.range 16).filterMap fun b =>
    if (k.members c b).isEmpty then none else some [.event (.broadcastFetch c b), .issue c b])
    ++ if k.eq.isEmpty && k.contexts.all fun (x : Nat × KeeperCtx) => x.2.launch.isNone then [] else [[.keeperTurn c]]

/-- The schedulers' turns: a cycle every 16 CCLK (R126, R142). -/
def schedMoves (now : Nat) : List (List Move) :=
  if now % 16 = 0 then
    [.event .iodSchedCycle] :: (List.range 4).map fun d => [.event (.dieSchedCycle d)]
  else []

/-- The groups of moves of a CCLK in an order that free numbers give: the spec orders nothing between them. -/
def shuffle (n : Nat) (ms : List (List Move)) : List Move :=
  (ms.zipIdx.insertionSort fun x y => Config.freeMove (n + x.2) ≤ Config.freeMove (n + y.2)).flatMap Prod.fst

/-- What agents of the host side write to host memory in a CCLK (R58): free values, as a group of moves each. -/
def hostMoves (xs : List (Nat × List Byte)) : List (List Move) :=
  (xs.filter fun x => paRange x.1 == .host && paRange (x.1 + x.2.length) == .host).map fun x => [.hostStore x.1 x.2]

/-- A store of an agent of the host side to its own memory: an atomic that the fabric port performs as a read and a write
may fall around it (R58). -/
def State.hostSide (s : State) (pa : Nat) (bs : List Byte) : State := s.sparing (s.hostWrite pa bs) fun _ => true

/-- A CCLK begins: what waited, what is due, what arrives from outside, then every berth, keeper core and scheduler. -/
def State.tick (s : State) : State :=
  let now := s.cclk + 1
  let s := { s with cclk := now, cores := s.cores.map fun (c : Nat × Core) => (c.1, c.2.tick now) }
  let groups := schedMoves now ++ hostMoves (Config.hostStores s.free)
    ++ s.cores.flatMap fun (c : Nat × Core) => coreMoves c.1 c.2
  let events := s.delayed ++ s.dueEvents ++ (Config.inputs s.free).filter fromOutside
  { s with
    agenda := events.map Move.event ++ shuffle (s.free + 1) groups, delayed := [], free := s.free + 1 + groups.length }

/-! ### The word of a thread -/

/-- A lane with a trap to take takes it (R172, R176). -/
def State.takePending (s : State) (r : AgentRef) (a : Agent) (t : PendingTrap) : State :=
  let s := { s with cur := r, ag := { a with pendTrap := none } }.trapLane t.cause t.pc t.addr
  { s.putAgent s.cur s.ag with cur := .none, ag := {} }

/-- The word a keeper context has fetched: a MOVK waits until the k registers of its launch have been read (R167,
R178). -/
def State.keeperRun (s : State) (r : AgentRef) (a : Agent) (ready : Bool) (w : Word) : Chosen :=
  match instrOfWord w with
  | .movk d k => if ready then .run (.movk d k) { s with cur := r, ag := a } else .quiet s
  | i => .run i { s with cur := r, ag := a }

/-- A keeper context fetches the word at its program counter (R165, R178, R181); `ready` says that the k registers of its
launch have been read. -/
def State.keeperFetch (s : State) (r : AgentRef) (a : Agent) (launch : Nat) (ready : Bool) : Chosen :=
  let va := a.pc.toNat
  let asid := s.asidOf launch
  if !vaOk va 4 then .quiet (s.fetchTrap r a .access)
  else match s.translate asid .ex va with
    | none => .quiet (s.fetchPark r a asid)
    | some (s, x) =>
      match s.fetchBad { va := va, pa := x.pa, len := 4, cls := x.cls, cache := x.cache } with
      | some c => .quiet (s.fetchRefused r a c x.pa)
      | none =>
        let w : Who := { core := coreOfRef r, asid := asid, launch := launch, slot := 0, lane := 0 }
        match paRange x.pa with
        | .aperture n o => match s.fetchFar w (fetchTag 16) n o va 4 with
          | (s, some (.inr bs)) => s.keeperRun r a ready (BitVec.ofNat 32 (leNat bs))
          | (s, some (.inl c)) => .quiet (s.fetchTrap r a c)
          | (s, none) => .quiet s
        | _ => s.keeperRun r a ready (BitVec.ofNat 32 (s.numAt x.pa 4))

/-- A thread's turn: it is checked out with the word at its program counter. -/
def State.turn (s : State) (r : AgentRef) : Chosen :=
  match s.agentAt r with
  | none => .quiet s
  | some a =>
    match a.status with
    | .parked (.mid w) => .run (instrOfWord w) { s with cur := r, ag := { a with status := .ready } }
    | .ready => match a.pendTrap with
      | some t => .quiet (s.takePending r a t)
      | none => match r with
        | .keeper c n => match (s.core c).contexts.find? n with
          | some x => match x.launch with
            | some l => s.keeperFetch r a l x.kReady
            | none => .quiet s
          | none => .quiet s
        | _ => match a.wordAt a.pc with
          | some w => .run (instrOfWord w) { s with cur := r, ag := a }
          | none => .quiet s
    | _ => .quiet s

/-- The routine contexts of a keeper core that may run: they are not parked (R178). -/
def Core.runnable (k : Core) : List Nat :=
  k.contexts.filterMap fun (e : Nat × KeeperCtx) =>
    if e.2.launch.isSome && e.2.ag.status == .ready then some e.1 else none

/-- The contexts of a keeper core take turns: the firmware context takes every turn it needs, one for each record of the
event queue (R178, R180). -/
def State.keeperTurn (s : State) (c : Nat) : State :=
  let k := s.core c
  let ns := k.runnable
  if k.deepIdle then s
  else if !k.eq.isEmpty then s.first [.event (.firmwareEvent c)]
  else if ns.isEmpty then s
  else s.first [.lane (.keeper c (ns.getD (s.cclk % ns.length) 0))]

/-! ### Choice and conclusion -/

/-- What a step does next. -/
def State.choose (s : State) : Chosen :=
  match s.agenda with
  | [] => .quiet s.tick
  | m :: rest =>
    let s := { s with agenda := rest }
    match m with
    | .issue c b => .quiet (s.issueBundle c b)
    | .lane r => s.turn r
    | .together rs => .quiet (s.first (rs.map Move.lane))
    | .endBundle c slot gs => .quiet (s.endBundle c slot gs)
    | .keeperTurn c => .quiet (s.keeperTurn c)
    | .tadEnd c slot => .quiet (s.endTad c slot)
    | .hostStore pa bs => .quiet (s.hostSide pa bs)
    | .event i => s.takeEvent i

/-- The thread put back into its table after its word. -/
def State.conclude (s : State) : State := { s.putAgent s.cur s.ag with cur := .none, ag := {} }

end Sys2Proof.Machine
end

