-- ==== Sys2Proof/Machine/Place.lean ====
section
/-! DEFINITION. A thread that stands ready at its word, for a state given one instruction to run: what loading a program
from outside leaves where the machine fetches next (log entry 1). -/

namespace Sys2Proof.Machine

/-- The team of one lane a word is placed in where the agenda names no thread: launch 0, slot 0 of core 0, every register
within reach, all of it at 0. -/
def soleTeam : Team :=
  { launch := 0, number := 0, x := 0, y := 0, z := 0, origin := 0, nlanes := 1, regs := 256, tmem := 0, ftz := false,
    berth := 0, vrf := [], tmBase := 0, tiles := [], phase := .running, lanes := [(0, {})] }

/-- The thread whose word the next step runs: the one at the head of the agenda, or lane 0 of the sole team. -/
def State.nextThread (s : State) : AgentRef :=
  match s.agenda with
  | .lane (.lane c slot l) :: _ => if (s.agentAt (.lane c slot l)).isSome then .lane c slot l else .lane 0 0 0
  | _ => .lane 0 0 0

/-- The state with the sole team where the thread of the next step does not exist. -/
def State.withThread (s : State) : State :=
  match s.agentAt s.nextThread with
  | some _ => s
  | none => s.setTeam 0 0 soleTeam

/-- A ready lane with a word at its program counter, its loop buffer holding that word alone. -/
def Agent.withWord (a : Agent) (w : Word) : Agent :=
  { a with status := .ready, pendTrap := none, loopBuf := [(a.pc, w)] }

end Sys2Proof.Machine
end

