-- ==== Sys2Proof/Machine/Step.lean ====
section
/-! DEFINITION. One step of the machine, and a state given the instruction its next step runs. -/

namespace Sys2Proof.Machine

open Host (Outcome)

/-- One step: a move of the machine's own, or one row of the opcode table, after which its thread goes back into its
table. -/
def step (s : State) : Outcome State Fault Refusal :=
  match s.choose with
  | .quiet s => .next s
  | .run i s =>
    match exec i s with
    | .next s => .next s.conclude
    | .fault f => .fault f
    | .refused r => .refused r

/-- The state whose next step runs the word (log entry 1): it stands in the loop buffer of the next thread, at its
program counter, and the agenda names that thread. -/
def State.withFetchWord (s : State) (_nbits w : Nat) : State :=
  let r := s.nextThread
  let s := s.withThread
  { s.modAgent r fun a => a.withWord (BitVec.ofNat 32 w) with agenda := [.lane r] }

end Sys2Proof.Machine
end

