-- ==== Sys2Proof/Safety.lean ====
section
/-! DEFINITION. The terms the statements use: when the thread being executed takes the effect of a word, what a word
that completes has written and what it has left as it was, and the invariants. -/

namespace Sys2Proof

/-- An instruction that has a word of its own: not a device event, and not a row that stands for refused words. -/
def Instr.hasWord : Instr → Bool
  | .wordLevelIllegal _ | .malformedHint _ => false
  | i => i.isWord

end Sys2Proof

namespace Sys2Proof.Machine

open Host (Outcome)

/-! ### A word that takes its effect -/

/-- The thread being executed takes the effect of a word: there is such a thread; the word is well formed (R269 to
R274); its pending set is one the word accepts (R275), and so are those of the other lanes of its bundle with their
payloads, of which one that the word refuses raises ILLEGAL in every lane (R20); every register it names lies within its reach (R167); its
guard, if it has one, holds (R20). -/
structure State.Takes (s : State) (i : Instr) (u : HintUse) (regs : List Nat) : Prop where
  thread : s.cur ≠ .none
  formed : i.wellFormed = true
  hints : s.ag.hints.fits u = true
  mates : ∀ h ∈ s.ag.mates, s.mateOk i u h = true
  reach : ∀ r ∈ regs, r < s.reach
  guard : s.guardHolds = true

/-- The value of a key after some writes: the first write that names it, otherwise what it was. -/
def written {κ α : Type} [DecidableEq κ] (ws : List (κ × α)) (q : κ) (old : α) : α :=
  ((ws.find? fun w => decide (w.1 = q)).map Prod.snd).getD old

/-- The registers of a thread that its arithmetic, its loads and its stores leave alone: LINK, the trap registers,
HANDLER, ESEQ.LAST, the domain it participates in, what it waits for. -/
structure Agent.SameSpecial (a b : Agent) : Prop where
  link : b.link = a.link
  trapCause : b.trapCause = a.trapCause
  trapPc : b.trapPc = a.trapPc
  trapAddr : b.trapAddr = a.trapAddr
  handler : b.handler = a.handler
  eseqLast : b.eseqLast = a.eseqLast
  domain : b.domain = a.domain
  status : b.status = a.status

/-- The v registers and predicates of a thread after a word that wrote `vs` and `ps` and no other: p0 reads as true
whatever was written (R3). -/
structure Agent.Wrote (a b : Agent) (vs : List (Nat × Word)) (ps : List (BitVec 3 × Bool)) : Prop where
  regs : ∀ r, b.reg r = written vs r (a.reg r)
  preds : ∀ q, b.pred q = (q == 0#3 || written ps q (a.pred q))

/-- From `s` to `t` the thread goes on at the next word, having written the registers `vs` and the predicates `ps`. Its
other registers and predicates, its special registers, every byte of memory and all the rest of the machine are as
before. -/
structure State.Completes (s t : State) (vs : List (Nat × Word)) (ps : List (BitVec 3 × Bool)) : Prop where
  only : t = { s with ag := t.ag }
  mem : ∀ a, t.byteAt a = s.byteAt a
  wrote : s.ag.Wrote t.ag vs ps
  special : s.ag.SameSpecial t.ag
  pc : t.ag.pc = s.ag.pc + 4#64
  hints : t.ag.hints = {}

/-- Where the thread takes the word's effect, the word completes, having written `vs` and `ps` and nothing else. -/
def State.Gives (s : State) (i : Instr) (u : HintUse) (regs : List Nat) (vs : List (Nat × Word))
    (ps : List (BitVec 3 × Bool)) : Prop :=
  s.Takes i u regs → ∃ t, exec i s = .next t ∧ s.Completes t vs ps

/-- From `s` to `t` the thread goes on at `pc` with LINK holding `link`, having written the registers `vs` and the
predicates `ps`. Its other registers and predicates, its other special registers and every byte of memory are as
before; what else changed is said beside it. -/
structure State.Goes (s t : State) (pc link : DWord) (vs : List (Nat × Word)) (ps : List (BitVec 3 × Bool)) : Prop where
  mem : ∀ a, t.byteAt a = s.byteAt a
  wrote : s.ag.Wrote t.ag vs ps
  special : Agent.SameSpecial { s.ag with link := link } t.ag
  pc : t.ag.pc = pc
  hints : t.ag.hints = {}

/-- The thread goes on at the next word, LINK as before. -/
abbrev State.GoesOn (s t : State) (vs : List (Nat × Word)) (ps : List (BitVec 3 × Bool)) : Prop :=
  s.Goes t (s.ag.pc + 4#64) s.ag.link vs ps

/-- Where the thread takes the word's effect, the word answers a next state of which `P` holds. -/
def State.Does (s : State) (i : Instr) (u : HintUse) (regs : List Nat) (P : State → Prop) : Prop :=
  s.Takes i u regs → ∃ t, exec i s = .next t ∧ P t

/-- A word or a device event answers a next state of which `P` holds. -/
def State.Answers (s : State) (i : Instr) (P : State → Prop) : Prop := ∃ t, exec i s = .next t ∧ P t

/-- Where the thread takes the word's effect and no access of it is out at a peer, the word completes once the thread's
earlier stores have (R75, R236), having written `vs` and `ps` and nothing else. -/
def State.GivesAfter (s : State) (i : Instr) (u : HintUse) (regs : List Nat) (vs : List (Nat × Word))
    (ps : List (BitVec 3 × Bool)) : Prop :=
  s.netBusy = false → s.Takes i u regs → ∃ t, exec i s = .next t ∧ s.drain.Completes t vs ps

/-- From `s` to `t` the thread waits at its instruction, nothing of the word performed. -/
structure State.WaitsPeer (s t : State) : Prop where
  only : t = { s with ag := t.ag }
  status : t.ag.status = .parked .peer
  pc : t.ag.pc = s.ag.pc
  hints : t.ag.hints = s.ag.hints
  wrote : s.ag.Wrote t.ag [] []

/-- An access of `n` bytes at `va` that needs `need` and lies in one line of local memory at `pa`, of a page of class
`cls`: its translation is cached and grants it (R134); no engine owns the line (R78) and the L1 that serves the agent
holds no dirty copy of it (R72); no access of the thread is out at a peer (R55) and the thread is at the beginning of
its instruction; no other move stands on the agenda and no atomic is between its read and its write, so that nothing
comes between the parts of the access (R198, R247). -/
structure State.Lands (s : State) (w : Who) (need : Need) (va n pa cls : Nat) : Prop where
  root : (s.ptroot w.asid).valid = true
  mapped : ∃ e, s.tlb.find? (fun t => t.asid = w.asid && t.page = va / 4096) = some e ∧ pteGrants e.pte need = true ∧
    (need.writes = true → pteBit e.pte 9 = true) ∧ (mappedOf e.pte e.level va).pa = pa ∧ (mappedOf e.pte e.level va).cls = cls
  nonempty : 0 < n
  space : va + n ≤ 2 ^ 56
  line : va % 128 + n ≤ 128
  inLocal : paRange pa = .local_
  owner : (s.l2Line (pa / 128)).owner = none
  clean : ∀ c, s.l1Line (w.l1Core (pa / 128)) (pa / 128) = some c → c.dirty = false
  peers : s.netBusy = false
  begun : s.ag.parts = none
  alone : s.agenda = []
  atomics : s.rmws = []

/-- A pair written: the odd register takes bits 63:32 (R3). -/
def pairOf (r : Nat) (x : DWord) : List (Nat × Word) := [(r, x.extractLsb' 0 32), (r + 1, x.extractLsb' 32 32)]

/-- The hints of a word that accepts GUARD and IMM20, or GUARD and C4. -/
def withImm : HintUse := { imm20 := true }

def withC4 : HintUse := { c4 := true }

/-- The hints of a global access: GUARD, IMM20, CACHE, SCOPE (R274). -/
def withAccess : HintUse := { imm20 := true, cache := true, scope := true }

/-- The integer conditions of R272 on two numbers; codes 6 and 7 are no conditions. -/
def conditionHolds (c : BitVec 3) (x y : Int) : Prop :=
  (c = 0#3 ∧ x = y) ∨ (c = 1#3 ∧ x ≠ y) ∨ (c = 2#3 ∧ x < y) ∨ (c = 3#3 ∧ x ≤ y) ∨ (c = 4#3 ∧ y < x) ∨
    (c = 5#3 ∧ y ≤ x)

/-! ### Numbers -/

/-- The exact value of a finite value. -/
def FVal.exact : FVal → ℚ
  | .fin neg m e => (if neg then -1 else 1) * m * (2 : ℚ) ^ e
  | _ => 0

/-- A finite value. -/
def FVal.isFin : FVal → Prop
  | .fin _ _ _ => True
  | _ => False

/-- A NaN of a format (R248). -/
def Fmt.isNan (f : Fmt) (x : Nat) : Prop := f.infBits < x % f.signBit

/-- An integer that orders the encodings of a format that are no NaN as their values are ordered, −0 and +0 equal. -/
def Fmt.order (f : Fmt) (x : Nat) : Int := if x / f.signBit % 2 = 1 then -(x % f.signBit : Nat) else (x % f.signBit : Nat)

/-- The same with −0 below +0 (R253). -/
def Fmt.orderZeros (f : Fmt) (x : Nat) : Int := if x / f.signBit % 2 = 1 then -(x % f.signBit : Nat) - 1 else (x % f.signBit : Nat)

/-- minimumNumber, or maximumNumber, of two encodings (R253). -/
def Fmt.lesser (f : Fmt) (greater : Bool) (a b : Nat) : Nat :=
  if f.infBits < a % f.signBit then (if f.infBits < b % f.signBit then f.nan else b)
  else if f.infBits < b % f.signBit then a
  else if f.orderZeros a ≤ f.orderZeros b then (if greater then b else a)
  else (if greater then a else b)

/-- The floating-point conditions of R306 on two encodings. -/
def Fmt.holds (f : Fmt) (c : BitVec 3) (a b : Nat) : Prop :=
  let ordered := ¬f.isNan a ∧ ¬f.isNan b
  let x := f.order a
  let y := f.order b
  (c = 0#3 ∧ ordered ∧ x = y) ∨ (c = 1#3 ∧ ¬(ordered ∧ x = y)) ∨ (c = 2#3 ∧ ordered ∧ x < y) ∨
    (c = 3#3 ∧ ordered ∧ x ≤ y) ∨ (c = 4#3 ∧ ordered ∧ y < x) ∨ (c = 5#3 ∧ ordered ∧ y ≤ x) ∨ (c = 6#3 ∧ ¬ordered) ∨
    (c = 7#3 ∧ ordered)

/-- The number `v` lies on the same side of every number of 56 binary places or fewer as a value of which `below d` says
that it lies below d and `above d` that it lies above: it rounds as that value does, to every format (R248, R249). -/
def roundsAs (v : ℚ) (below above : ℚ → Prop) : Prop :=
  ∀ (k : Nat) (j : Int), k < 2 ^ 56 →
    (v < k * (2 : ℚ) ^ j ↔ below (k * (2 : ℚ) ^ j)) ∧ (k * (2 : ℚ) ^ j < v ↔ above (k * (2 : ℚ) ^ j))

/-! ### Fault records that arrive -/

/-- From `s` to `t` the fault queue takes a record (R124, R135, R136, R140): written at FQ_WR where the ring has room and
none is held, FQ_WR moved on, the bit set; held behind the others where not. `repl` names the launch whose sink record it
replaces (R139). No byte changes but those of the record. -/
def State.FqTakes (s t : State) (r : FaultRec) (repl : Option Nat) : Prop :=
  let size := s.cmd.fqSize.toNat
  let i := s.cmd.fqWr.toNat
  let at_ := s.cmd.fqBase.toNat + 32 * (i % 2 ^ size)
  let room := (i + 2 ^ 32 - s.cmd.fqRd.toNat) % 2 ^ 32 < 2 ^ size ∧ s.cmd.fqHeld = []
  (room → t.cmd.fqWr = s.cmd.fqWr + 1#32 ∧ t.cmd.fqHeld = [] ∧ t.cmd.intStat.getLsbD 0 = true ∧
    ∀ a, t.byteAt a = if at_ ≤ a ∧ a < at_ + 32
      then (r.bytes (if i / 2 ^ size % 2 = 0 then 128 else 0)).getD (a - at_) 0#8 else s.byteAt a) ∧
  (¬room → t.cmd.fqWr = s.cmd.fqWr ∧ t.mem = s.mem ∧ t.cmd.fqHeld = s.cmd.fqHeld ++ [(r, repl)])

/-- The fault sink at an address can take a record (R138, R139): it lies in local memory, or in host memory with a port
up, aligned; its size is 2 to 16; its reserved bytes are zero; neither its header nor the record's place is poisoned. -/
def State.SinkUsable (s : State) (sink : Nat) : Prop :=
  let size := s.numAt (sink + 8) 1
  sink % 64 = 0 ∧ (paRange sink = .local_ ∨ (paRange sink = .host ∧ s.hostDown = false)) ∧ 2 ≤ size ∧ size ≤ 16 ∧
    (∀ b ∈ s.bytesAt (sink + 9) 3 ++ s.bytesAt (sink + 16) 48, b = 0#8) ∧ s.firstPoison sink 64 = none ∧
    s.firstPoison (sink + 64 + 32 * (s.numAt sink 4 % 2 ^ size)) 32 = none

/-- From `s` to `t` a launch's sink takes a record (R136, R138, R139): written at WR where its ring has room, WR moved on,
the interrupt set where INT_FAULT asks for it; counted as dropped where not; and the fault queue takes it while the sink
is unusable. No other byte changes. -/
def State.SinkTakes (s t : State) (launch : Nat) (record : LaunchRec) (r : FaultRec) : Prop :=
  let sink := record.sink
  let wr := s.numAt sink 4
  let size := s.numAt (sink + 8) 1
  let at_ := sink + 64 + 32 * (wr % 2 ^ size)
  let room := (wr + 2 ^ 32 - s.numAt (sink + 4) 4) % 2 ^ 32 < 2 ^ size
  (s.SinkUsable sink → room → (Nat.testBit record.flags 3 = true → t.cmd.intStat.getLsbD 1 = true) ∧
    ∀ a, t.byteAt a = if at_ ≤ a ∧ a < at_ + 32
        then (r.bytes (if wr / 2 ^ size % 2 = 0 then 128 else 0)).getD (a - at_) 0#8
      else if sink ≤ a ∧ a < sink + 4 then (leBytes 4 ((wr + 1) % 2 ^ 32)).getD (a - sink) 0#8 else s.byteAt a) ∧
  (s.SinkUsable sink → ¬room → ∀ a, t.byteAt a = if sink + 12 ≤ a ∧ a < sink + 16
    then (leBytes 4 (min (2 ^ 32 - 1) (s.numAt (sink + 12) 4 + 1))).getD (a - (sink + 12)) 0#8 else s.byteAt a) ∧
  (¬s.SinkUsable sink → s.FqTakes t r (some launch))

/-! ### What the clutch and layer units find in memory -/

/-- The cached entry of the page of a virtual address in the thread's space (R134). -/
def State.entryOf (s : State) (va : Nat) : Option TlbEntry :=
  s.tlb.find? fun t => t.asid = s.who.asid && t.page = va / 4096

/-- The physical address at which that entry puts the virtual address. -/
def State.paOf (s : State) (va : Nat) : Nat := ((s.entryOf va).map fun e => (mappedOf e.pte e.level va).pa).getD 0

/-- A unit may use the `n` bytes at `va` (R87, R113): the thread's space has a root; the cached translations grant `need`
and lie in coherent pages of local memory; the lines hold no poison and no engine owns one. -/
structure State.Shared (s : State) (need : Need) (va n : Nat) : Prop where
  root : (s.ptroot s.who.asid).valid = true
  space : va + n ≤ 2 ^ 56
  mapped : ∀ x, va ≤ x → x < va + n → ∃ e, s.entryOf x = some e ∧ pteGrants e.pte need = true ∧
    (need.writes = true → pteBit e.pte 9 = true) ∧ (mappedOf e.pte e.level x).cls = 2 ∧ paRange (s.paOf x) = .local_
  clean : ∀ x, va ≤ x → x < va + n → s.firstPoison (s.paOf x / 128 * 128) 128 = none
  unowned : ∀ x, va ≤ x → x < va + n → (s.l2Line (s.paOf x / 128)).owner = none

/-- The state with some bytes of memory written, in order. -/
def State.after (s : State) (ws : List (Nat × List Byte)) : State :=
  ws.foldl (fun s w => s.pokeBytes w.1 w.2) s

/-- Index entry i of a clutch as memory holds it (R88). -/
def State.indexEntry (s : State) (c : Clutch) (i : Nat) : IndexEntry :=
  let at_ := s.paOf (c.index + 16 * i)
  { fence := s.numAt at_ 8, block := s.numAt (at_ + 8) 4 }

/-- The index of a clutch with LIVE entries is sound (R87, R88): usable, each entry's fence and block in range and its
reserved word zero, the fences rising. -/
structure State.IndexSound (s : State) (c : Clutch) (need : Need) : Prop where
  usable : s.Shared need c.index (16 * c.live)
  each : ∀ i < c.live, (s.indexEntry c i).fence < 2 ^ 62 ∧ (s.indexEntry c i).block < c.count ∧
    s.numAt (s.paOf (c.index + 16 * i) + 12) 4 = 0
  rises : ∀ i j, i < j → j < c.live → (s.indexEntry c i).fence ≤ (s.indexEntry c j).fence

/-- The block of an index entry holds `es` (R87, R89, R91): usable, its header sound, its payload the elements' stream. -/
structure State.BlockHolds (s : State) (c : Clutch) (need : Need) (e : IndexEntry) (next : Nat) (es : List Elem) : Prop where
  usable : s.Shared need (c.pool + 256 * e.block) 256
  fence : s.numAt (s.paOf (c.pool + 256 * e.block)) 8 = e.fence
  next : s.numAt (s.paOf (c.pool + 256 * e.block) + 12) 4 = next ∧ (next = 0xFFFFFFFF ∨ next < c.count)
  bits : s.numAt (s.paOf (c.pool + 256 * e.block) + 10) 2 ≤ 1920
  stream : decodeElems (beNat (s.bytesAt (s.paOf (c.pool + 256 * e.block) + 16) 112 ++
      s.bytesAt (s.paOf (c.pool + 256 * e.block + 128)) 128)) (s.numAt (s.paOf (c.pool + 256 * e.block) + 10) 2)
    c.w c.ab (s.numAt (s.paOf (c.pool + 256 * e.block) + 8) 2) 0 e.fence = some es
  keys : ∀ x ∈ es, x.key < 2 ^ c.kw

/-- The entry a key belongs to (R95): the last whose fence is at most the key, or the first. -/
def State.EntryOfKey (s : State) (c : Clutch) (key i : Nat) : Prop :=
  i < c.live ∧ (i = 0 ∨ (s.indexEntry c i).fence ≤ key) ∧ ∀ j, i < j → j < c.live → key < (s.indexEntry c j).fence

/-- Node n of a target's pool as memory holds it (R110). -/
def State.nodeAt (s : State) (t : Target) (n : Nat) : Frag :=
  let at_ := s.paOf (t.pool + 16 * n)
  let word := fun i => BitVec.ofNat 32 (s.numAt (at_ + 4 * i) 4)
  let seqAt := s.paOf (t.seqBase + 4 * n)
  { depth := word 0, rg := word 1, ba := word 2,
    seq := if t.ordered then BitVec.ofNat 32 (s.numAt seqAt 4) else 0#32, idx := n, at_ := at_,
    seqAt := if t.ordered then some seqAt else none }

/-- The virtual address of the head word of the pixel a register names (R109). -/
def Target.headOf (t : Target) (xy : Word) : Nat := t.headBase + 4 * (xy.toNat / 2 ^ 16 * t.width + xy.toNat % 2 ^ 16)

/-- A node and its sequence word are usable (R110, R113). -/
def State.NodeUsable (s : State) (t : Target) (need : Need) (n : Nat) : Prop :=
  s.Shared need (t.pool + 16 * n) 16 ∧ (t.ordered = true → s.Shared need (t.seqBase + 4 * n) 4)

/-- The pixel a register names holds the nodes `idx`, nearest first (R109, R110, R113). -/
structure State.PixelHolds (s : State) (t : Target) (need : Need) (xy : Word) (idx : List Nat) : Prop where
  inside : xy.toNat % 2 ^ 16 < t.width ∧ xy.toNat / 2 ^ 16 < t.height
  usable : s.Shared need (t.headOf xy) 4
  head : s.numAt (s.paOf (t.headOf xy)) 4 = idx.length * 2 ^ 27 + idx.headD 0
  bound : idx.length ≤ t.lbound
  nodes : ∀ n ∈ idx, 1 ≤ n ∧ n < 16 * t.pages ∧ s.NodeUsable t need n
  chain : ∀ k n, idx[k]? = some n → s.numAt (s.paOf (t.pool + 16 * n) + 12) 4 = idx.getD (k + 1) 0

/-! ### Reductions -/

/-- Two sides of a combination of R266: an absent side passes the other on unchanged. -/
def combined (f : Word → Word → Word) : Option Word → Option Word → Option Word
  | some x, some y => some (f x y)
  | some x, none => some x
  | none, y => y

/-- The fixed tree of R266 over the 2^n lanes from `k` on, the lower half the left operand. -/
def laneTree (f : Word → Word → Word) (x : Nat → Option Word) : Nat → Nat → Option Word
  | 0, k => x k
  | n + 1, k => combined f (laneTree f x n k) (laneTree f x n (k + 2 ^ n))

/-- The lanes 0 to `l` combined from left to right (R266). -/
def lanePrefix (f : Word → Word → Word) (x : Nat → Option Word) : Nat → Option Word
  | 0 => x 0
  | l + 1 => combined f (lanePrefix f x l) (x (l + 1))

end Sys2Proof.Machine
end

