-- ==== Sys2Proof/Certificates/Slice0/Obligations.lean ====
section
/-! DEFINITION. The statements: each a proposition about the model, with the rule of the spec it states or rests on. -/

open Sys2Proof Sys2Proof.Machine
open Host (Outcome)

/-! ### Encoding and the step -/

/-- R268, R271 and the worked words of the spec: words written out from their encodings decode to the instructions they
stand for, one or more of every family. -/
def Obligations.WorkedWordsDecode : Prop :=
  decode 0x02080A0C#32 = .ok (.iadd 4#8 5#8 6#8) ∧
  decode 0x46040E10#32 = .ok (.isel 3#3 2#8 7#8 8#8 0#1) ∧
  decode 0x62000100#32 = .ok (.call 0x100#21) ∧
  decode 0x68000020#32 = .ok .exit ∧
  decode 0x6A000022#32 = .ok (.jwait 2#4) ∧
  decode 0x76140406#32 = .ok (.vred 10#8 0#4 2#4 3#8) ∧
  decode 0xBA06080C#32 = .ok (.drel 3#8 2#7 3#7) ∧
  decode 0xC010089F#32 = .ok (.ld 8#8 2#7 2#3 31#6) ∧
  decode 0xF014080C#32 = .ok (.brdhLin 10#8 2#7 1#1 4#3) ∧
  decode 0xF4181013#32 = .ok (.wapp 3#6 4#7 3#3) ∧
  decode 0xF8100801#32 = .ok (.clins 8#8 2#7 1#3) ∧
  decode 0xF8280CA1#32 = .ok (.rslv 5#6 3#7 1#1) ∧
  decode 0xF8400900#32 = .ok (.isect 32#8 2#7) ∧
  decode 0xFA164000#32 = .ok (.mfs 11#8 0x020#12) ∧
  decode 0xFA000A20#32 = .ok (.trap 5#8) ∧
  decode 0xFA0004A1#32 = .ok (.trel 2#8 1#3) ∧
  decode 0xFA0000C0#32 = .ok .idle

/-- Every operand of every well-formed instruction, at every value, comes back from the bytes of its word, and nothing of
the bytes that follow is taken. A word that decodes is the one word of the instruction it decodes to, and that
instruction is well formed: no bit of a word is left unread, no two words stand for one instruction. -/
def Obligations.DecodeAndEncode : Prop :=
  (∀ (i : Instr) (rest : List Byte), i.hasWord = true → i.wellFormed = true →
      decodeBytes (bytesOfWord (encode i) ++ rest) = .ok (i, rest)) ∧
  (∀ (w : Word) (i : Instr), decode w = .ok i → encode i = w ∧ i.hasWord = true ∧ i.wellFormed = true)

/-- R274, R275, R375: a hint word enters the pending set and has no other effect but the pc's advance, whatever the guard;
the address of the first is kept; a kind named twice, CACHE 3, DXBD 0 and a malformed hint word are remembered. R20,
R271, R273 to R275: no instruction word but a hint takes any effect with a pending set that names a kind twice or
holds a malformed hint, or when it is not well formed: it raises ILLEGAL with the word, and so it does where another
lane of its bundle holds such a set, or one whose payload the word refuses: an addend beyond reach or of no pair, a
misaligned compare register, a scope that WAITC has not, no lease for MOOR. A word whose guard is false only goes on at the next word, its pending set emptied,
wherever with a guard that holds, of p0, it does not raise that ILLEGAL: so every well-formed word does whose hints fit,
whose registers lie in reach and which its thread runs. A word that is no instruction raises ILLEGAL. R271, R274, R275: a word of a major the opcode map leaves unassigned, 0x00 and 0x7E among
them, decodes to no instruction, and a thread that executes it takes an ILLEGAL trap that saves the word, whatever its
guard; a word of major 0x7F of no assigned kind is a malformed hint, which enters the pending set. -/
def Obligations.HintsAndRefusals : Prop :=
  (∀ (s : State) (i : BitVec 21) (x : BitVec 1) (p : BitVec 3) (c : BitVec 8) (k sc : BitVec 2) (n : BitVec 4) (w : Word),
      s.cur ≠ .none →
      let h := s.ag.hints
      let first := some (h.first.getD s.ag.pc)
      let enters := fun (i : Instr) (h' : Hints) =>
        exec i s = .next { s with ag := { s.ag with pc := s.ag.pc + 4#64, hints := { h' with first := first } } }
      enters (.hintImm20 i) { h with imm20 := some i, twice := h.twice || h.imm20.isSome } ∧
      enters (.hintGuard x p) { h with guard := some (x ++ p), twice := h.twice || h.guard.isSome } ∧
      enters (.hintC4 c) { h with c4 := some c, twice := h.twice || h.c4.isSome } ∧
      enters (.hintCache k)
        { h with cache := some k, twice := h.twice || h.cache.isSome, malformed := h.malformed || decide (k = 3#2) } ∧
      enters (.hintScope sc) { h with scope := some sc, twice := h.twice || h.scope.isSome } ∧
      enters (.hintDxbd n)
        { h with dxbd := some n, twice := h.twice || h.dxbd.isSome, malformed := h.malformed || decide (n = 0#4) } ∧
      enters (.malformedHint w) { h with malformed := true }) ∧
  (∀ (s : State) (i : Instr), s.cur ≠ .none → i.isWord = true →
      (∀ x, i ≠ .hintImm20 x) → (∀ x y, i ≠ .hintGuard x y) → (∀ x, i ≠ .hintC4 x) → (∀ x, i ≠ .hintCache x) →
      (∀ x, i ≠ .hintScope x) → (∀ x, i ≠ .hintDxbd x) → (∀ x, i ≠ .malformedHint x) →
      let illegal := exec i s = .next (s.takeTrap .illegal ((encode i).setWidth 64))
      let p0 : State := { s with ag := { s.ag with hints := { s.ag.hints with guard := some 0#4 } } }
      (s.ag.hints.twice = true ∨ s.ag.hints.malformed = true ∨ i.wellFormed = false → illegal) ∧
      ((∃ h ∈ s.ag.mates, h.twice = true ∨ h.malformed = true) → illegal) ∧
      ((∃ h ∈ s.ag.mates, h.guard ≠ none) → (∃ r, i = .br r) → illegal) ∧
      (∀ (d a b x : BitVec 8) (z : BitVec 2) (l : BitVec 7) (h : Hints), h ∈ s.ag.mates →
        (i = .imad d a b ∨ i = .ffma 0#2 d a b → h.c4 = some x → s.reach ≤ x.toNat → illegal) ∧
        (∀ r e f g, i = .dfma e r f g → h.c4 = some x → x.toNat % 2 = 1 → illegal) ∧
        (i = .atom d a 9#4 z 0#1 → h.c4 = some x → x.toNat % 2 ^ z.toNat ≠ 0 → illegal) ∧
        (∀ c, i = .waitc d l c z → h.scope = some 0#2 → illegal) ∧
        (∀ m, i = .moor d l m → h.imm20 = some 0#21 → illegal)) ∧
      ((∃ w, i = .wordLevelIllegal w) → illegal) ∧
      (s.guardHolds = false → exec i p0 ≠ .next (p0.takeTrap .illegal ((encode i).setWidth 64)) →
        exec i s = .next { s with ag := { s.ag with
          pc := s.ag.pc + 4#64, hints := {}, mates := [], parts := none, netGot := [], netUsed := 0 } })) ∧
  (∀ (s : State) (d a b : BitVec 8) (x y : BitVec 7) (z : BitVec 3) (o : BitVec 6) (m : BitVec 1),
      let skips := fun (i : Instr) (u : HintUse) (regs : List Nat) =>
        State.Takes { s with ag := { s.ag with hints := { s.ag.hints with guard := some 0#4 } } } i u regs →
          s.guardHolds = false → exec i s = .next { s with ag := { s.ag with
            pc := s.ag.pc + 4#64, hints := {}, mates := [], parts := none, netGot := [], netUsed := 0 } }
      skips (.iadd d a b) {} [vn d, vn a, vn b] ∧ skips (.fadd 0#2 d a b) {} [vn d, vn a, vn b] ∧
      skips (.ld d x z o) withAccess [vn d + (if z.toNat ≤ 2 then 1 else 2 ^ (z.toNat - 2)) - 1, pn x + 1] ∧
      skips (.st d x z o) withAccess [vn d + (if z.toNat ≤ 2 then 1 else 2 ^ (z.toNat - 2)) - 1, pn x + 1] ∧
      skips .ret {} [] ∧ skips (.brx a) {} [vn a] ∧ skips (.trap d) {} [] ∧ skips (.movi d (0#9)) withImm [vn d] ∧
      (s.kind = .team → skips (.clins d x 0#3) {} [vn d + 7, pn x + 1] ∧ skips (.isect d y) {} [vn d + 31, pn y + 1] ∧
        skips (.vbal d m 0#3 b) {} [vn d, vn b] ∧ skips .tbar {} [] ∧ skips .exit {} [] ∧ skips (.jwait 0#4) {} [])) ∧
  (∀ (w : Word) (s : State), s.cur ≠ .none →
      (opcode w = 0 ∨ (0x2C ≤ opcode w ∧ opcode w ≤ 0x2F) ∨ (0x3C ≤ opcode w ∧ opcode w ≤ 0x3F) ∨ opcode w = 0x56 ∨
          opcode w = 0x57 ∨ (0x69 ≤ opcode w ∧ opcode w ≤ 0x6F) ∨ opcode w = 0x7E →
        decode w = .error .unassignedMajor ∧ exec (instrOfWord w) s = .next (s.takeTrap .illegal (w.setWidth 64))) ∧
      (opcode w = 0x7F ∧ 6 ≤ (bits w 21 4).toNat →
        decode w = .error .malformedHint ∧ ∃ t, exec (instrOfWord w) s = .next t ∧ t.ag.hints.malformed = true ∧
          t.ag.pc = s.ag.pc + 4#64))

/-- A step whose next move is a lane's turn executes, in that lane, the instruction the word at its program counter
decodes to, and puts the lane back into its table; a lane between the parts of its instruction goes on with it (R198,
R228, R247); lanes that a bundle runs together take the next moves, in their order. A keeper context reads its word from
memory through translation (R165, R178); that it holds it in no instruction cache and that its MOVK waits until its
counters are ready is the model's choice (log entries 76 and 40). A step whose next move is an event of the device
executes it, or, where the spec leaves its time open, may keep it for a later CCLK (the model's choice, log entry 1). -/
def Obligations.StepRunsTheWord : Prop :=
  (∀ (s : State) (rs : List AgentRef) (rest : List Move), s.agenda = .together rs :: rest →
    step s = .next { s with agenda := rs.map Move.lane ++ rest }) ∧
  ∀ (s t : State) (r : AgentRef) (rest : List Move) (a : Agent) (w : Word) (i : Instr),
    s.agenda = .lane r :: rest → s.agentAt r = some a → decode w = .ok i →
      (a.status = .ready → a.pendTrap = none → (∀ c n, r ≠ .keeper c n) → a.wordAt a.pc = some w →
        exec i { s with agenda := rest, cur := r, ag := a } = .next t → step s = .next t.conclude) ∧
      (a.status = .parked (.mid w) →
        exec i { s with agenda := rest, cur := r, ag := { a with status := .ready } } = .next t →
          step s = .next t.conclude) ∧
      (a.status = .ready → a.pendTrap = none → ∀ c n x l s' y, r = .keeper c n → (s.core c).contexts.find? n = some x → x.launch = some l →
        a.pc.toNat + 4 ≤ 2 ^ 56 →
        State.translate { s with agenda := rest } (s.asidOf l) .ex a.pc.toNat = some (s', y) →
        s'.fetchBad { va := a.pc.toNat, pa := y.pa, len := 4, cls := y.cls, cache := y.cache } = none →
        (∀ m o, paRange y.pa ≠ .aperture m o) → BitVec.ofNat 32 (s'.numAt y.pa 4) = w →
        (x.kReady = true ∨ ∀ d k, i ≠ .movk d k) → exec i { s' with cur := r, ag := a } = .next t → step s = .next t.conclude) ∧
      ∀ (s : State) (t : State) (i : Instr) (rest : List Move), s.agenda = .event i :: rest → isEvent i = true →
        let u := { s with agenda := rest }
        (mayWait i = false → exec i u = .next t → step s = .next t.conclude) ∧
        (mayWait i = true → exec i u.drawn = .next t → step s = .next t.conclude ∨
          step s = .next { u.drawn with delayed := s.delayed ++ [i] })

/-- From every state the machine has a next state: no step of this model faults and none is refused. Every step keeps
memory in its canonical form, addresses strictly rising and no entry that reads as an unlisted address does: from
every state of that form, reached or not. -/
def Obligations.EveryStep : Prop :=
  (∀ s : State, ∃ t, step s = .next t) ∧
  (∀ s t : State, Memory.wf s.mem = true → step s = .next t → Memory.wf t.mem = true)

/-- R39, R42, R51, R53, R74, R83, R124: the machine at power-on has the values the register tables give: every phase,
step, temperature and counter 0; every queue stopped, empty and of 16 slots; no page table root valid; every aperture
off; every interrupt masked; scrubbing and hot-row capture on; no core started, no launch, no team;
memory in its canonical form. -/
def Obligations.StateAtReset : Prop :=
  let s := State.reset
  s.bts = 0#64 ∧ s.smc.phase = 0#4 ∧ s.smc.fail = 0#8 ∧ s.smc.dieSup = 0#4 ∧ s.smc.rows = 0#8 ∧ s.smc.step = 0#4 ∧
    s.smc.floor = 0#4 ∧ s.hostWin = 0#12 ∧ s.d2dRetry = 0#16 ∧ s.d2dFailed = false ∧ s.inReject = 0#32 ∧
    (∀ q, s.queue q = { en := false, err := false, prio := 0#3, asid := 0#6, base := 0#52, size := 4#4, qwr := 0#32,
                        qrd := 0#32, pending := none }) ∧
    (∀ a, s.ptroot a = { root := 0#52, valid := false }) ∧
    (∀ n, (s.aperture n).state = .off ∧ (s.aperture n).gen = 0#8 ∧ (s.aperture n).ports = 0#12) ∧
    s.cmd.fqSize = 4#4 ∧ s.cmd.fqWr = 0#32 ∧ s.cmd.fqRd = 0#32 ∧ s.cmd.intStat = 0#6 ∧ s.cmd.intMask = 0x3F#6 ∧
    (∀ d, (s.dieMemOf d).scrubEn = true ∧ (s.dieMemOf d).hrcEn = true ∧ (s.dieMemOf d).elogWr = 0#32) ∧
    (∀ c, (s.core c).started = false ∧ (s.core c).teams = []) ∧ s.launches = [] ∧ Memory.wf s.mem = true

/-! ### Integer words -/

/-- R280, R282, R287: the integer words of register operands write D and change nothing else. R280: IMUL and IMULH
together hold the exact 64-bit product, of signed numbers where M is 0 and of unsigned ones where M is 1. R282: IPOPC
counts the set bits of A, ICLZ the zero bits above the highest set one (32 where A is 0), and IBREV moves bit i to bit
31 − i. -/
def Obligations.IntegerRegisterWords : Prop :=
  (∀ (s : State) (d a b : BitVec 8) (m : BitVec 1),
      let A := s.v (vn a)
      let B := s.v (vn b)
      let C := vn (s.ag.hints.c4.getD d)
      let less := if m = 1#1 then A.ule B else A.sle B
      let three := [vn d, vn a, vn b]
      s.Gives (.iadd d a b) {} three [(vn d, A + B)] [] ∧
      s.Gives (.isub d a b) {} three [(vn d, A - B)] [] ∧
      s.Gives (.imul d a b) {} three [(vn d, A * B)] [] ∧
      s.Gives (.imad d a b) withC4 [vn d, vn a, vn b, C] [(vn d, A * B + s.v C)] [] ∧
      s.Gives (.imin d a b m) {} three [(vn d, if less then A else B)] [] ∧
      s.Gives (.imax d a b m) {} three [(vn d, if less then B else A)] [] ∧
      s.Gives (.iand d a b) {} three [(vn d, A &&& B)] [] ∧
      s.Gives (.ior d a b) {} three [(vn d, A ||| B)] [] ∧
      s.Gives (.ixor d a b) {} three [(vn d, A ^^^ B)] [] ∧
      s.Gives (.inot d a) {} [vn d, vn a] [(vn d, ~~~A)] [] ∧
      s.Gives (.iabs d a) {} [vn d, vn a] [(vn d, if A.msb then -A else A)] [] ∧
      s.Gives (.mov d a) {} [vn d, vn a] [(vn d, A)] []) ∧
  (∀ (s : State) (d a b : BitVec 8),
      let A := s.v (vn a)
      let B := s.v (vn b)
      ∃ low high highU : Word,
        s.Gives (.imul d a b) {} [vn d, vn a, vn b] [(vn d, low)] [] ∧
        s.Gives (.imulh d a b 0#1) {} [vn d, vn a, vn b] [(vn d, high)] [] ∧
        s.Gives (.imulh d a b 1#1) {} [vn d, vn a, vn b] [(vn d, highU)] [] ∧
        (high ++ low).toInt = A.toInt * B.toInt ∧ (highU ++ low).toNat = A.toNat * B.toNat) ∧
  (∀ (s : State) (d a : BitVec 8),
      let A := s.v (vn a)
      ∃ (pop zeros : Nat) (rev : Word),
        s.Gives (.ipopc d a) {} [vn d, vn a] [(vn d, BitVec.ofNat 32 pop)] [] ∧
        s.Gives (.iclz d a) {} [vn d, vn a] [(vn d, BitVec.ofNat 32 zeros)] [] ∧
        s.Gives (.ibrev d a) {} [vn d, vn a] [(vn d, rev)] [] ∧
        pop = (List.range 32).countP (fun i => A.getLsbD i) ∧
        zeros ≤ 32 ∧ (∀ i, i < zeros → A.getLsbD (31 - i) = false) ∧ (zeros < 32 → A.getLsbD (31 - zeros) = true) ∧
        ∀ i < 32, rev.getLsbD (31 - i) = A.getLsbD i)

/-- R283: a shift count is B, or the sign-extended immediate, as an unsigned number; from 32 up a shift left or a
logical shift right gives 0 and an arithmetic shift right the sign everywhere; IROL uses bits 4:0 of the count alone. -/
def Obligations.ShiftCounts : Prop :=
  ∀ (s : State) (d a b : BitVec 8) (i : BitVec 9),
    let A := s.v (vn a)
    let left := fun (c : Word) => if c.toNat < 32 then A <<< c.toNat else 0#32
    let right := fun (c : Word) => if c.toNat < 32 then A >>> c.toNat else 0#32
    let arith := fun (c : Word) =>
      if c.toNat < 32 then A.sshiftRight c.toNat else if A.msb then 0xFFFFFFFF#32 else 0#32
    let B := s.v (vn b)
    let I := s.ag.hints.imm i
    let three := [vn d, vn a, vn b]
    s.Gives (.ishl d a b) {} three [(vn d, left B)] [] ∧
    s.Gives (.ishr d a b) {} three [(vn d, right B)] [] ∧
    s.Gives (.isar d a b) {} three [(vn d, arith B)] [] ∧
    s.Gives (.ishli d a i) withImm [vn d, vn a] [(vn d, left I)] [] ∧
    s.Gives (.ishri d a i) withImm [vn d, vn a] [(vn d, right I)] [] ∧
    s.Gives (.isari d a i) withImm [vn d, vn a] [(vn d, arith I)] [] ∧
    s.Gives (.irol d a b) {} three [(vn d, A.rotateLeft (B.extractLsb' 0 5).toNat)] []

/-- R284: the field of IBFX and IBFI begins at bit B<4:0> and holds w = min(B<13:8>, 32 − pos) bits; IBFX takes it out,
its top bit copied upward where M is 1, and IBFI puts the low bits of A in its place and keeps D's other bits. -/
def Obligations.BitFields : Prop :=
  ∀ (s : State) (d a b : BitVec 8) (m : BitVec 1),
    let A := s.v (vn a)
    let D := s.v (vn d)
    let pos := ((s.v (vn b)).extractLsb' 0 5).toNat
    let w := min ((s.v (vn b)).extractLsb' 8 6).toNat (32 - pos)
    ∃ out ins : Word,
      s.Gives (.ibfx d a b m) {} [vn d, vn a, vn b] [(vn d, out)] [] ∧
      s.Gives (.ibfi d a b) {} [vn d, vn a, vn b] [(vn d, ins)] [] ∧
      ∀ j < 32,
        out.getLsbD j =
          (if j < w then A.getLsbD (pos + j) else decide (m = 1#1 ∧ 0 < w) && A.getLsbD (pos + w - 1)) ∧
        ins.getLsbD j = (if pos ≤ j ∧ j < pos + w then A.getLsbD (j - pos) else D.getLsbD j)

/-- R270, R281, R287: an immediate word acts as its register form with the sign-extended immediate, of 9 bits or, with an
IMM20 hint, of 30. R285 to R287: the words that write a pair, each modulo 2^64; LEA shifts its index, zero-extended
where M is 1 and sign-extended where M is 0; MOVK reads a k register of the thread's team, or of its launch in a
keeper context. -/
def Obligations.ImmediateAndPairWords : Prop :=
  (∀ (s : State) (d a : BitVec 8) (i : BitVec 9),
      let A := s.v (vn a)
      let I : Word := match s.ag.hints.imm20 with
        | none => i.signExtend 32
        | some h => (h ++ i).signExtend 32
      s.Gives (.iaddi d a i) withImm [vn d, vn a] [(vn d, A + I)] [] ∧
      s.Gives (.iandi d a i) withImm [vn d, vn a] [(vn d, A &&& I)] [] ∧
      s.Gives (.iori d a i) withImm [vn d, vn a] [(vn d, A ||| I)] [] ∧
      s.Gives (.ixori d a i) withImm [vn d, vn a] [(vn d, A ^^^ I)] [] ∧
      s.Gives (.movi d i) withImm [vn d] [(vn d, I)] []) ∧
  (∀ (s : State) (d a b : BitVec 7) (x : BitVec 8) (n : BitVec 2) (m : BitVec 1) (k : BitVec 5),
      let A := s.pair (pn a)
      let B := s.pair (pn b)
      let index : DWord := if m = 1#1 then (s.v (vn x)).setWidth 64 else (s.v (vn x)).signExtend 64
      let three := [pn d + 1, pn a + 1, pn b + 1]
      s.Gives (.iadd64 d a b) {} three (pairOf (pn d) (A + B)) [] ∧
      s.Gives (.isub64 d a b) {} three (pairOf (pn d) (A - B)) [] ∧
      s.Gives (.imul64 d a b) {} three (pairOf (pn d) (A * B)) [] ∧
      s.Gives (.lea d n a x m) {} [pn d + 1, pn a + 1, vn x] (pairOf (pn d) (A + (index <<< n.toNat))) [] ∧
      s.Gives (.movk d k) {} [pn d + 1] (pairOf (pn d) (s.kreg k.toNat)) [])

/-- R272, R289: ICMP and ICMPI write one predicate from a comparison of 32-bit or 64-bit values, signed or unsigned. R288,
R290, R291: selection by a predicate; the predicate operations after inversion of their sources; all predicates at
once, p0 always reading as true and never written. -/
def Obligations.ComparesAndPredicates : Prop :=
  (∀ (s : State) (t : BitVec 2) (c p : BitVec 3) (a b : BitVec 8) (i : BitVec 9),
      let wide := t.getLsbD 1
      let unsigned := t.getLsbD 0
      let num32 := fun (x : Word) => if unsigned then (x.toNat : Int) else x.toInt
      let num64 := fun (x : DWord) => if unsigned then (x.toNat : Int) else x.toInt
      let value := fun (r : BitVec 8) => if wide then num64 (s.pair (vn r)) else num32 (s.v (vn r))
      let I := s.ag.hints.imm i
      let imm := if wide then num64 (I.signExtend 64) else num32 I
      let last := fun (r : BitVec 8) => vn r + if wide then 1 else 0
      ∃ x y : Bool,
        s.Gives (.icmp t c p a b) {} [last a, last b] [] [(p, x)] ∧
        s.Gives (.icmpi t c p a i) withImm [last a] [] [(p, y)] ∧
        (c.toNat ≤ 5 → (x = true ↔ conditionHolds c (value a) (value b)) ∧
          (y = true ↔ conditionHolds c (value a) imm))) ∧
  (∀ (s : State) (p q r : BitVec 3) (x y : BitVec 1) (d a b : BitVec 8),
      let P := s.pred q ^^ decide (x = 1#1)
      let Q := s.pred r ^^ decide (y = 1#1)
      s.Gives (.isel q d a b x) {} [vn d, vn a, vn b] [(vn d, if P then s.v (vn a) else s.v (vn b))] [] ∧
      s.Gives (.pand p x q y r) {} [] [] [(p, P && Q)] ∧
      s.Gives (.por p x q y r) {} [] [] [(p, P || Q)] ∧
      s.Gives (.pxor p x q y r) {} [] [] [(p, P ^^ Q)] ∧
      s.Gives (.pnot p x q) {} [] [] [(p, !P)] ∧
      (∃ mask : Word, s.Gives (.pget d) {} [vn d] [(vn d, mask)] [] ∧
        ∀ j < 32, mask.getLsbD j = (decide (j < 8) && s.pred (BitVec.ofNat 3 j))) ∧
      s.Gives (.pset a) {} [vn a] []
        [(1#3, (s.v (vn a)).getLsbD 1), (2#3, (s.v (vn a)).getLsbD 2), (3#3, (s.v (vn a)).getLsbD 3),
         (4#3, (s.v (vn a)).getLsbD 4), (5#3, (s.v (vn a)).getLsbD 5), (6#3, (s.v (vn a)).getLsbD 6),
         (7#3, (s.v (vn a)).getLsbD 7)])

/-! ### Branches, calls, ends, masks -/

/-- R270, R292 to R295: a branch goes to its own address plus 4 × OFF21 where its condition holds and on to the next word
where it does not; CALL saves the next word's address in LINK, whose bits 1:0 and 63:56 are zero; RET goes to LINK;
NOP changes nothing. No register, no predicate and no byte of memory changes. R173, R294: BRX and CALLX with index i
of the dispatch table of the thread's launch: DISPATCH with i where i is 0 or not below DTLEN; otherwise entry i is
read, a null entry raises DISPATCH with i in BRX and makes CALLX clear its predicate and go on; an entry with a bit of
1:0 or 63:56 set raises DISPATCH with the entry; any other is entered, CALLX setting its predicate and LINK. -/
def Obligations.Transfers : Prop :=
  (∀ (s : State) (p : BitVec 3) (n : BitVec 1) (o : BitVec 21),
      let here := s.ag.pc
      let next := here + 4#64
      let target := here + BitVec.ofInt 64 (4 * o.toInt)
      let link := s.ag.link
      let taken := s.pred p ^^ decide (n = 1#1)
      s.Does (.brp p n o) noHints [] (fun t => s.Goes t (if taken then target else next) link [] []) ∧
      s.Does (.br o) noHints [] (fun t => s.Goes t target link [] []) ∧
      s.Does (.call o) noHints [] (fun t => s.Goes t target (next &&& 0x00FFFFFFFFFFFFFC#64) [] []) ∧
      s.Does .ret {} [] (fun t => s.Goes t link link [] []) ∧
      s.Gives .nop {} [] [] []) ∧
  (∀ (s : State) (l : Launch) (p : BitVec 3) (a : BitVec 8), s.myLaunch = some l →
      let i := s.v (vn a)
      let n := i.toNat
      ((n = 0 ∨ l.record.dtlen ≤ n) →
        s.Does (.brx a) {} [vn a] (fun t => t = s.takeTrap .dispatch (i.setWidth 64)) ∧
        s.Does (.callx p a) {} [vn a] (fun t => t = s.takeTrap .dispatch (i.setWidth 64))) ∧
      (∀ r e, n ≠ 0 → n < l.record.dtlen → s.readEntry l n = .ok r e →
        (e = 0#64 →
          s.Does (.brx a) {} [vn a] (fun t => t = s.takeTrap .dispatch (i.setWidth 64)) ∧
          s.Does (.callx p a) {} [vn a] (fun t => r.GoesOn t [] [(p, false)])) ∧
        (e ≠ 0#64 → (bits e 0 2 ≠ 0#2 ∨ bits e 56 8 ≠ 0#8) →
          s.Does (.brx a) {} [vn a] (fun t => t = s.takeTrap .dispatch e) ∧
          s.Does (.callx p a) {} [vn a] (fun t => t = s.takeTrap .dispatch e)) ∧
        (e ≠ 0#64 → bits e 0 2 = 0#2 → bits e 56 8 = 0#8 →
          s.Does (.brx a) {} [vn a] (fun t => r.Goes t e r.ag.link [] []) ∧
          s.Does (.callx p a) {} [vn a]
            (fun t => r.Goes t e ((r.ag.pc + 4#64) &&& 0x00FFFFFFFFFFFFFC#64) [] [(p, true)]))))

/-- R178, R181, R204, R295: EXIT ends a lane of a team, or removes a routine's context from its keeper core, and raises
ILLEGAL in a tadpole; a lane that ends is gone from the sixteen rejoin masks of its group (R168). YIELD holds a team's lane back
for 32 CCLK and changes nothing else. R205, R338: TEND in a lane
of a tadpole, its earlier accesses and appends complete, ends the lane; the last lane to end takes the tadpole out of its slot. In
a lane of a team and in a keeper context it raises ILLEGAL. -/
def Obligations.Ends : Prop :=
  (∀ (s : State),
      (s.Takes .exit {} [] → ∀ c slot l, s.cur = .lane c slot l →
        ∃ t, exec .exit s = .next t ∧ t.cur = .none ∧
          t = { (s.putAgent s.cur s.ag).endLane c slot l with cur := .none, ag := {} } ∧
          (∀ tm, s.team c slot = some tm → s.ag.status = .ready →
            ∃ tm', t.team c slot = some tm' ∧ (tm'.lanes.find? l).map Agent.status = some .ended ∧
              ∀ j < 16, (tm'.mask (l / 8) j).getLsbD (l % 8) = false)) ∧
      (s.Takes .exit {} [] → ∀ c n x, s.cur = .keeper c n → (s.core c).contexts.find? n = some x →
        ∃ t, exec .exit s = .next t ∧ t.cur = .none ∧ (t.core c).contexts.find? n = none ∧ t.mem = s.mem) ∧
      (∀ c k l, s.cur = .tad c k l → exec .exit s = .next (s.takeTrap .illegal 0x68000020#64)) ∧
      (s.kind = .team → s.Does .yield {} [] (fun t => s.GoesOn t [] [] ∧ t.ag.yieldUntil = some (s.cclk + 32) ∧
        t = { s with ag := t.ag })) ∧
      (s.kind = .keeper → s.Gives .yield {} [] [] [])) ∧
  (∀ (s : State) (core slot l : Nat) (t : Tadpole), s.cur = .tad core slot l → (s.core core).tads.find? slot = some t →
      s.netBusy = false → (∀ e ∈ s.wlItems, e.2.agent ≠ s.cur) →
      let rest := t.lanes.put l { s.drain.ag with status := .ended, hints := {} }
      ((∀ e ∈ rest, e.2.status = .ended) → s.Does .tend {} [] fun u =>
        u.cur = .none ∧ u.mem = s.mem ∧ (u.core core).tads.find? slot = none) ∧
      ((∃ e ∈ rest, e.2.status ≠ .ended) → s.Does .tend {} [] fun u =>
        u.cur = .none ∧ u.mem = s.mem ∧ (u.core core).tads.find? slot = some { t with lanes := rest }) ∧
      ∀ s' : State, s'.cur ≠ .none → s'.kind ≠ .tad → exec .tend s' = .next (s'.takeTrap .illegal 0xF6000000#64))

/-- R168, R296: the words on rejoin masks act on the mask of the lane's group and on no other: JSET adds the lane's bit,
JDROP takes it out, JCLR makes the mask 0 and releases no lane, JMASK reads it; JWAIT parks the lane. A tadpole and a
keeper context take ILLEGAL. R169: the test of one rejoin mask: where some lanes of the group wait at it and it names no lane that does
not, it becomes 0 and exactly those lanes go on; otherwise nothing changes. R192: the test of a team's barrier: where
every lane that has not ended waits at it, and some lane does, every lane that waits goes on; otherwise nothing
changes. That a mask a bundle made 0 by JCLR releases no lane at the test after that bundle either is the model's reading
of R168 (log entry 87). -/
def Obligations.Rejoins : Prop :=
  (∀ (s : State) (c slot l : Nat) (t : Team) (j : BitVec 4) (d : BitVec 8), s.cur = .lane c slot l →
      s.team c slot = some t →
        let m := t.mask (l / 8) j.toNat
        let bit : BitVec 8 := 1#8 <<< (l % 8)
        let masks := fun (u : State) (x : BitVec 8) => ∃ t', u.team c slot = some t' ∧
          t' = { t with masks := t'.masks, cleared := t'.cleared } ∧ ∀ g k, k < 16 → t'.mask g k = if g = l / 8 ∧ k = j.toNat then x else t.mask g k
        s.Does (.jset j) {} [] (fun u => s.GoesOn u [] [] ∧ masks u (m ||| bit)) ∧
        s.Does (.jclr j) {} [] (fun u => s.GoesOn u [] [] ∧ masks u 0#8 ∧
          ∀ t', u.team c slot = some t' → 16 * (l / 8) + j.toNat ∈ t'.cleared) ∧
        s.Does (.jdrop j) {} [] (fun u => s.GoesOn u [] [] ∧ masks u (m &&& ~~~bit)) ∧
        s.Gives (.jmask d j) {} [vn d] [(vn d, m.setWidth 32)] [] ∧
        s.Does (.jwait j) {} [] (fun u => u = { s with ag := u.ag } ∧ u.ag.status = .parked (.rejoin j.toNat) ∧
          u.ag.pc = s.ag.pc + 4#64 ∧ s.ag.Wrote u.ag [] [])) ∧
  (∀ (s : State) (j : BitVec 4) (d : BitVec 8), s.cur ≠ .none → s.kind ≠ .team →
      ∀ i ∈ [.jset j, .jclr j, .jdrop j, .jmask d j, .jwait j],
        exec i s = .next (s.takeTrap .illegal ((encode i).setWidth 64))) ∧
  (∀ (t : Team) (g j l : Nat) (a : Agent), j < 16 → 16 * g + j ∈ t.cleared → (l, a) ∈ t.lanes →
      a.status = .parked (.rejoin j) → (l, a) ∈ (t.testMasks g).lanes) ∧
  (∀ (t : Team) (g j : Nat), j < 16 → (t.lanes.map Prod.fst).Nodup →
      let waits := fun (a : Agent) => a.status = .parked (.rejoin j)
      let u := t.testMask g j
      ((∃ e ∈ t.lanes, e.1 / 8 = g ∧ waits e.2) ∧
          (∀ n < 8, (t.mask g j).getLsbD n = true → ∃ a, t.lanes.find? (8 * g + n) = some a ∧ waits a) →
        u.mask g j = 0#8 ∧ (∀ k, k < 16 → k ≠ j → u.mask g k = t.mask g k) ∧
        u.lanes.map (fun e => (e.1, e.2.status)) = t.lanes.map (fun e =>
          (e.1, if e.1 / 8 = g ∧ waits e.2 then .ready else e.2.status))) ∧
      (((∀ e ∈ t.lanes, e.1 / 8 = g → ¬ waits e.2) ∨
          (∃ n < 8, (t.mask g j).getLsbD n = true ∧ ∀ a, t.lanes.find? (8 * g + n) = some a → ¬ waits a)) → u = t)) ∧
  (∀ (t : Team), t.phase ≠ .staging →
      let waits := fun (a : Agent) => a.status = .parked Wait.teamBarrier
      let woken := t.lanes.map fun (e : Nat × Agent) =>
        if e.2.status = .parked Wait.teamBarrier then (e.1, { e.2 with status := .ready, wait := 0, starving := false }) else e
      ((∃ e ∈ t.lanes, waits e.2) → (∀ e ∈ t.lanes, e.2.status = .ended ∨ waits e.2) →
        t.testTeamBarrier = { t with lanes := woken }) ∧
      ((∃ e ∈ t.lanes, e.2.status ≠ .ended ∧ ¬ waits e.2) ∨ (∀ e ∈ t.lanes, ¬ waits e.2) → t.testTeamBarrier = t))

/-! ### Group collectives -/

/-- R170, R171, R298, R299: a lane that issues a collective whose mask names it and only lanes that exist and have not
ended arrives at the instance of the instruction's address and that mask, with the values it holds, and parks; with
any other mask it takes COLLMASK, which saves the mask. R170, R298: an instance is performed once every lane its mask
names has arrived, and not before: then each arrived lane has its result and is ready, every other lane of the team is
as it was. A lane's result is that of the table: VSHFL the value of the lane selected, its own where that lane is not
named; VBAL and VMATCH a bit for each named lane; VVOTE the OR or the AND; ELECT true in the lowest named lane alone.
R171: where a lane ends that the mask of a waiting instance of its group names, every lane that has arrived there stops
waiting with a COLLMASK trap to take, of the address of the collective and that mask, its registers as before; the
lanes of other instances wait on; a lane takes such a trap at its turn. -/
def Obligations.Collectives : Prop :=
  (∀ (s : State) (c slot l : Nat) (t : Team) (d a b : BitVec 8) (x m : BitVec 1) (p q : BitVec 3) (op ty : BitVec 4),
      s.cur = .lane c slot l → s.team c slot = some t →
        let mask : BitVec 8 := (s.v (vn b)).extractLsb' 0 8
        let named := mask.getLsbD (l % 8) = true ∧ ∀ k < 8, mask.getLsbD k = true →
          ∃ g, t.lanes.find? (8 * (l / 8) + k) = some g ∧ g.status ≠ .ended
        let arrives := fun (i : Instr) (regs : List Nat) (value : DWord) (sel : Word) =>
          (named → s.Does i {} (vn b :: regs) fun u => u = { s with ag := u.ag } ∧ s.ag.Wrote u.ag [] [] ∧
            u.ag.pc = s.ag.pc + 4#64 ∧ u.ag.status = .parked (.collective i s.ag.pc s.ag.trapAt mask value sel)) ∧
          (¬named → s.Does i {} (vn b :: regs) fun u => u = s.takeTrap .collMask (mask.setWidth 64))
        let D : DWord := (s.v (vn d)).setWidth 64
        let P : DWord := if s.pred p ^^ decide (x = 1#1) then 1#64 else 0#64
        arrives (.vshfl d a b m) [vn d, vn a] D (s.v (vn a)) ∧
        arrives (.vbal d x p b) [vn d] P 0#32 ∧
        arrives (.vvote q x p b m) [] P 0#32 ∧
        arrives (.vmatch d a b 0#1) [vn d, vn a] ((s.v (vn a)).setWidth 64) 0#32 ∧
        arrives (.vmatch d a b 1#1) [vn d, vn a + 1] (s.pair (vn a)) 0#32 ∧
        arrives (.elect p b) [] 0#64 0#32 ∧
        arrives (.vred d op ty b) [vn d] D 0#32 ∧
        arrives (.vscan d op ty b) [vn d] D 0#32) ∧
  (∀ (t : Team) (g : Nat) (pc : DWord) (mask : BitVec 8) (d a b : BitVec 8) (x m : BitVec 1) (p q : BitVec 3),
      let vals := fun k => (t.lanes.find? (8 * g + k)).bind fun w => w.arrivedAt pc mask
      (∀ i, (∃ k < 8, mask.getLsbD k = true ∧ vals k = none) → t.perform g i pc mask = t) ∧
      (∀ i, (∀ k < 8, mask.getLsbD k = true → (vals k).isSome) →
        (t.perform g i pc mask).lanes = t.lanes.map fun e =>
          if e.1 / 8 = g ∧ (e.2.arrivedAt pc mask).isSome then
            (e.1, { collectResult i t.ftz vals (e.1 % 8) e.2 with status := .ready, wait := 0, starving := false })
          else e) ∧
      ∀ (l : Nat) (w : Agent) (me : Arrived), l < 8 → vals l = some me →
        let result := fun i => collectResult i t.ftz vals l w
        let s : Nat := if m = 0#1 then me.sel.toNat % 8 else l ^^^ (me.sel.toNat % 8)
        (result (.vshfl d a b m)).reg (vn d) = ((vals s).getD me).x.setWidth 32 ∧
        (∀ k < 32, ((result (.vbal d x p b)).reg (vn d)).getLsbD k =
          (decide (k < 8) && (vals k).any fun v => v.x != 0#64)) ∧
        (q ≠ 0#3 → ((result (.vvote q x p b 0#1)).pred q = true ↔ ∃ k < 8, ∃ v, vals k = some v ∧ v.x ≠ 0#64)) ∧
        (q ≠ 0#3 → ((result (.vvote q x p b 1#1)).pred q = true ↔ ∀ k < 8, ∀ v, vals k = some v → v.x ≠ 0#64)) ∧
        (∀ k < 32, ((result (.vmatch d a b m)).reg (vn d)).getLsbD k =
          (decide (k < 8) && (vals k).any fun v => v.x == me.x)) ∧
        (p ≠ 0#3 → ((result (.elect p b)).pred p = true ↔ ∀ k < l, vals k = none))) ∧
  (∀ (t : Team) (l k : Nat) (e a : Agent) (i : Instr) (pc at_ : DWord) (mask : BitVec 8) (x : DWord) (sel : Word),
      t.lanes.find? l = some e → t.lanes.find? k = some a → k ≠ l →
      a.status = .parked (.collective i pc at_ mask x sel) →
      (k / 8 = l / 8 → mask.getLsbD (l % 8) = true → ∃ b, (t.endLane l).lanes.find? k = some b ∧ b.status = .ready ∧
        b.pendTrap = some { cause := .collMask, pc := at_, addr := mask.setWidth 64 } ∧ a.Wrote b [] []) ∧
      (k / 8 ≠ l / 8 ∨ mask.getLsbD (l % 8) = false → (t.endLane l).lanes.find? k = some a)) ∧
  ∀ (s : State) (r : AgentRef) (rest : List Move) (a : Agent) (c : Cause) (pc addr : DWord),
    s.agenda = .lane r :: rest → s.agentAt r = some a → a.status = .ready →
    a.pendTrap = some { cause := c, pc := pc, addr := addr } →
      step s = .next ({ s with agenda := rest, cur := r, ag := { a with pendTrap := none } }.trapLane c pc addr).conclude

/-- R266: VRED gives every named lane the combination of the named lanes' values in the fixed tree over lane indices, an
absent side passing the other on unchanged; VSCAN gives lane l the combination of the named lanes 0 to l, from left to
right. R299: a combination adds, takes the minimum or the maximum, or forms the AND, OR or XOR: of integers modulo 2^32,
signed or unsigned; of FP32 values with one rounding to nearest, FTZ as R252 has it. -/
def Obligations.ReductionOrder : Prop :=
  (∀ (ftz : Bool) (vals : Nat → Option Arrived) (l : Nat) (w : Agent) (d b : BitVec 8) (op ty : BitVec 4),
    l < 8 → (vals l).isSome →
      let f := redCombine ftz op ty
      let x := fun k => (vals k).map fun v => v.x.setWidth 32
      some ((collectResult (.vred d op ty b) ftz vals l w).reg (vn d)) = laneTree f x 3 0 ∧
      some ((collectResult (.vscan d op ty b) ftz vals l w).reg (vn d)) = lanePrefix f x l) ∧
  ∀ (ftz : Bool) (x y : Word),
    let flush := fun (x : Word) => if ftz ∧ x.toNat % 2 ^ 31 < 2 ^ 23 then x.toNat / 2 ^ 31 * 2 ^ 31 else x.toNat
    let X := unpack32 ftz x
    let Y := unpack32 ftz y
    (∀ t : BitVec 4, t = 0#4 ∨ t = 1#4 →
      let less := if t = 1#4 then x.ule y else x.sle y
      redCombine ftz 0#4 t x y = x + y ∧ redCombine ftz 1#4 t x y = (if less then x else y) ∧
      redCombine ftz 2#4 t x y = (if less then y else x) ∧ redCombine ftz 3#4 t x y = x &&& y ∧
      redCombine ftz 4#4 t x y = x ||| y ∧ redCombine ftz 5#4 t x y = x ^^^ y) ∧
    (X.isFin → Y.isFin → ∃ v : FVal, v.isFin ∧ v.exact = X.exact + Y.exact ∧
      redCombine ftz 0#4 2#4 x y = BitVec.ofNat 32 (f32.pack .rn ftz v)) ∧
    redCombine ftz 1#4 2#4 x y = BitVec.ofNat 32 (f32.lesser false (flush x) (flush y)) ∧
    redCombine ftz 2#4 2#4 x y = BitVec.ofNat 32 (f32.lesser true (flush x) (flush y))

/-! ### Floating point -/

/-- R249, R252, R301, R307, R308: a sum, difference, product or fused multiply-add of finite operands is formed exactly
and rounded once: the result is the rounding of a value equal to the exact one; an exact zero of a sum has the sign both
zeros share, or otherwise the minus sign only in `.rd`. R250: a NaN operand gives NaN; an infinity and a finite value
sum to the infinity and two infinities of one sign to it, those of different signs to NaN; an infinity times a nonzero
value is the infinity of the product's sign, and times zero NaN, whatever is added; a NaN is written as the canonical
one of its format, R248. R167: DFMA with an odd register for its addend raises ILLEGAL. -/
def Obligations.SumsAndProducts : Prop :=
  (∀ (s : State) (r : BitVec 2) (d a b : BitVec 8) (dd aa bb : BitVec 7) (m : BitVec 1),
    let mode := Rnd.ofCode r.toNat
    let C := vn (s.ag.hints.c4.getD d)
    let CC := (s.ag.hints.c4.map BitVec.toNat).getD (pn dd)
    let three := [vn d, vn a, vn b]
    let pairs := [pn dd + 1, pn aa + 1, pn bb + 1]
    let single := fun v => [(vn d, BitVec.ofNat 32 (f32.pack mode s.ftz v))]
    let double := fun v => pairOf (pn dd) (BitVec.ofNat 64 (f64.pack mode false v))
    let F := fmt16 m
    let low := fun (k : Nat) => F.unpack ((s.v k).extractLsb' 0 16).toNat
    let high := fun (k : Nat) => F.unpack ((s.v k).extractLsb' 16 16).toNat
    let both := fun v w => [(vn d, BitVec.ofNat 32 (F.pack .rn false v + 65536 * F.pack .rn false w))]
    let sumOf := fun (mode : Rnd) (x y v : FVal) =>
      (x.isFin → y.isFin → v.isFin ∧ v.exact = x.exact + y.exact ∧
        (v.exact = 0 → ∃ n e, v = .fin n 0 e ∧ (n = true ↔ (∃ p q, x = .fin true 0 p ∧ y = .fin true 0 q) ∨
          (mode = .rd ∧ ¬∃ p q, x = .fin false 0 p ∧ y = .fin false 0 q)))) ∧
      (x = .nan ∨ y = .nan → v = .nan) ∧
      ∀ n, (x = .inf n → y.isFin ∨ y = .inf n → v = .inf n) ∧ (y = .inf n → x.isFin → v = .inf n) ∧
        (x = .inf n → y = .inf (!n) → v = .nan)
    let infTimes := fun (x y v : FVal) => ∀ n g, x = .inf n → (y = .inf g → v = .inf (n ^^ g)) ∧
      ∀ k e, y = .fin g k e → v = if k = 0 then .nan else .inf (n ^^ g)
    let productOf := fun (x y v : FVal) =>
      (∀ n k e g l q, x = .fin n k e → y = .fin g l q →
        v.exact = x.exact * y.exact ∧ ∃ i j, v = .fin (n ^^ g) i j) ∧
      (x = .nan ∨ y = .nan → v = .nan) ∧ infTimes x y v ∧ infTimes y x v
    let A := s.f (vn a)
    let B := s.f (vn b)
    let AA := s.f64 (pn aa)
    let BB := s.f64 (pn bb)
    (∃ v, sumOf mode A B v ∧ s.Gives (.fadd r d a b) {} three (single v) []) ∧
    (∃ v, sumOf mode A B.neg v ∧ s.Gives (.fsub r d a b) {} three (single v) []) ∧
    (∃ v, productOf A B v ∧ s.Gives (.fmul r d a b) {} three (single v) []) ∧
    (∃ p v, productOf A B p ∧ sumOf mode p (s.f C) v ∧
      s.Gives (.ffma r d a b) withC4 [vn d, vn a, vn b, C] (single v) []) ∧
    (∃ v, sumOf mode AA BB v ∧ s.Gives (.dadd dd r aa bb) {} pairs (double v) []) ∧
    (∃ v, sumOf mode AA BB.neg v ∧ s.Gives (.dsub dd r aa bb) {} pairs (double v) []) ∧
    (∃ v, productOf AA BB v ∧ s.Gives (.dmul dd r aa bb) {} pairs (double v) []) ∧
    (CC % 2 = 0 → ∃ p v, productOf AA BB p ∧ sumOf mode p (s.f64 CC) v ∧
      s.Gives (.dfma dd r aa bb) withC4 [pn dd + 1, pn aa + 1, pn bb + 1, CC + 1] (double v) []) ∧
    (CC % 2 = 1 → s.cur ≠ .none →
      exec (.dfma dd r aa bb) s = .next (s.takeTrap .illegal ((encode (.dfma dd r aa bb)).setWidth 64))) ∧
    (∃ v w, sumOf .rn (low (vn a)) (low (vn b)) v ∧ sumOf .rn (high (vn a)) (high (vn b)) w ∧
      s.Gives (.hadd2 d a b m) {} three (both v w) []) ∧
    (∃ v w, productOf (low (vn a)) (low (vn b)) v ∧ productOf (high (vn a)) (high (vn b)) w ∧
      s.Gives (.hmul2 d a b m) {} three (both v w) []) ∧
    ∃ p q v w, productOf (low (vn a)) (low (vn b)) p ∧
      productOf (high (vn a)) (high (vn b)) q ∧ sumOf .rn p (low C) v ∧ sumOf .rn q (high C) w ∧
      s.Gives (.hfma2 d a b m) withC4 [vn d, vn a, vn b, C] (both v w) []) ∧
  ∀ (mode : Rnd) (z n : Bool),
    f32.pack mode z .nan = 0x7FC00000 ∧ f64.pack mode z .nan = 0x7FF8000000000000 ∧ f16.pack mode z .nan = 0x7E00 ∧
    bf16.pack mode z .nan = 0x7FC0 ∧ f32.pack mode z (.inf n) = (if n then 0xFF800000 else 0x7F800000) ∧
    f64.pack mode z (.inf n) = (if n then 0xFFF0000000000000 else 0x7FF0000000000000) ∧
    f16.pack mode z (.inf n) = (if n then 0xFC00 else 0x7C00) ∧ bf16.pack mode z (.inf n) = if n then 0xFF80 else 0x7F80

/-- R6, R249: a magnitude in units of the last place is rounded to an integer in the direction named: to the nearest, a
tie to the even one; toward zero; upward; downward; R261: to a neighbour by a hash of its 24 discarded bits and the
lane. R252: with FTZ 1 an FP32 result that is below 2^-126 after rounding to its precision is zero of its sign. R248, R249: a nonzero magnitude is rounded to a whole number of
units of its last place, subnormals kept, and the result's encoding stands for that number with its sign; past the
largest finite value the result is the infinity or the largest finite value that the direction gives. -/
def Obligations.Rounding : Prop :=
  (∀ (neg : Bool) (m : Nat) (e q : Int),
      let x : ℚ := m * (2 : ℚ) ^ (e - q)
      let toZero := fun (n : Nat) => (n : ℚ) ≤ x ∧ x < n + 1
      let fromZero := fun (n : Nat) => (n : ℚ) - 1 < x ∧ x ≤ n
      let nearest := roundAt .rn neg m e q
      (|(nearest : ℚ) - x| ≤ 1 / 2 ∧ (|(nearest : ℚ) - x| = 1 / 2 → nearest % 2 = 0)) ∧
      toZero (roundAt .rz neg m e q) ∧
      (if neg then toZero (roundAt .ru neg m e q) else fromZero (roundAt .ru neg m e q)) ∧
      (if neg then fromZero (roundAt .rd neg m e q) else toZero (roundAt .rd neg m e q))) ∧
  (∀ (f : Fmt) (mode : Rnd) (neg : Bool) (m : Nat) (e : Int), f = f64 ∨ f = f32 ∨ f = f16 ∨ f = bf16 → m ≠ 0 →
      let x : ℚ := m * (2 : ℚ) ^ e
      let q := f.ulpExp m e
      let n := roundAt mode neg m e q
      let top : ℚ := (2 : ℚ) ^ (2 ^ (f.ebits - 1))
      let r := f.unpack (f.round mode neg m e)
      (q = f.qmin ∧ x < 2 ^ (f.fbits + 1) * (2 : ℚ) ^ q ∨
        f.qmin < q ∧ 2 ^ f.fbits * (2 : ℚ) ^ q ≤ x ∧ x < 2 ^ (f.fbits + 1) * (2 : ℚ) ^ q) ∧
      ((n : ℚ) * (2 : ℚ) ^ q < top → ∃ k g, r = .fin neg k g ∧ (k : ℚ) * (2 : ℚ) ^ g = n * (2 : ℚ) ^ q) ∧
      (top ≤ (n : ℚ) * (2 : ℚ) ^ q →
        if mode = .rn ∨ (mode = .ru ∧ neg = false) ∨ (mode = .rd ∧ neg = true) then r = .inf neg
        else ∃ k g, r = .fin neg k g ∧ (k : ℚ) * (2 : ℚ) ^ g = top - (2 : ℚ) ^ (2 ^ (f.ebits - 1) - 1 - f.fbits : Int))) ∧
  (∀ (mode : Rnd) (neg : Bool) (m : Nat) (e : Int), m ≠ 0 →
      let q := (Nat.log2 m : Int) + e - 23
      f32.pack mode true (.fin neg m e) =
        if (roundAt mode neg m e q : ℚ) * (2 : ℚ) ^ q < (2 : ℚ) ^ (-126 : Int) then (if neg then 2 ^ 31 else 0)
        else f32.round mode neg m e) ∧
  (∀ (f : Fmt) (lane : Nat) (neg : Bool) (m : Nat) (e : Int), f = f64 ∨ f = f32 ∨ f = f16 ∨ f = bf16 → m ≠ 0 →
      let q := f.ulpExp m e
      let x : ℚ := m * (2 : ℚ) ^ (e - q)
      let lo : Nat := ⌊x⌋₊
      let d : Nat := ⌊(x - lo) * 2 ^ 24⌋₊
      let n := if hash24 d d (lane % 32) < d then lo + 1 else lo
      let top : ℚ := (2 : ℚ) ^ (2 ^ (f.ebits - 1))
      let r := f.unpack (f.roundRs lane neg m e)
      roundAtRs lane m e q = n ∧
      ((n : ℚ) * (2 : ℚ) ^ q < top → ∃ k g, r = .fin neg k g ∧ (k : ℚ) * (2 : ℚ) ^ g = n * (2 : ℚ) ^ q) ∧
      (top ≤ (n : ℚ) * (2 : ℚ) ^ q →
        ∃ k g, r = .fin neg k g ∧ (k : ℚ) * (2 : ℚ) ^ g = top - (2 : ℚ) ^ (2 ^ (f.ebits - 1) - 1 - f.fbits : Int)))

/-- R253, R306: the minimum and the maximum give the other operand of a NaN, the canonical NaN of two, and otherwise one
of the operands, −0 below +0; a comparison is unordered where an operand is NaN, and −0 equals +0. FTZ flushes FP32
operands, and no others. -/
def Obligations.MinMaxAndCompare : Prop :=
  ∀ (s : State) (d a b : BitVec 8) (dd aa bb : BitVec 7) (m : BitVec 1) (c p : BitVec 3) (q : BitVec 2),
    let flush := fun (x : Word) => if s.ftz ∧ x.toNat % 2 ^ 31 < 2 ^ 23 then x.toNat / 2 ^ 31 * 2 ^ 31 else x.toNat
    let A := flush (s.v (vn a))
    let B := flush (s.v (vn b))
    let AA := (s.pair (pn aa)).toNat
    let BB := (s.pair (pn bb)).toNat
    let F := fmt16 m
    let low := fun (k : Nat) => ((s.v k).extractLsb' 0 16).toNat
    let high := fun (k : Nat) => ((s.v k).extractLsb' 16 16).toNat
    let both := fun g => BitVec.ofNat 32 (F.lesser g (low (vn a)) (low (vn b)) + 65536 * F.lesser g (high (vn a)) (high (vn b)))
    let three := [vn d, vn a, vn b]
    let pairs := [pn dd + 1, pn aa + 1, pn bb + 1]
    s.Gives (.fmin d a b) {} three [(vn d, BitVec.ofNat 32 (f32.lesser false A B))] [] ∧
    s.Gives (.fmax d a b) {} three [(vn d, BitVec.ofNat 32 (f32.lesser true A B))] [] ∧
    s.Gives (.dmin dd aa bb) {} pairs (pairOf (pn dd) (BitVec.ofNat 64 (f64.lesser false AA BB))) [] ∧
    s.Gives (.dmax dd aa bb) {} pairs (pairOf (pn dd) (BitVec.ofNat 64 (f64.lesser true AA BB))) [] ∧
    s.Gives (.hmin2 d a b m) {} three [(vn d, both false)] [] ∧
    s.Gives (.hmax2 d a b m) {} three [(vn d, both true)] [] ∧
    ∃ x y u w : Bool,
      (s.Gives (.fcmp c p a b) {} [vn a, vn b] [] [(p, x)] ∧ (x = true ↔ f32.holds c A B)) ∧
      (s.Gives (.dcmp c p aa bb) {} [pn aa + 1, pn bb + 1] [] [(p, y)] ∧ (y = true ↔ f64.holds c AA BB)) ∧
      s.Gives (.hcmp2 m c q a b) {} [vn a, vn b] [] [(q ++ 1#1, w), (q ++ 0#1, u)] ∧
      (u = true ↔ F.holds c (low (vn a)) (low (vn b))) ∧ (w = true ↔ F.holds c (high (vn a)) (high (vn b)))

/-- R251, R254, R303, R308: division, square root, reciprocals, 2^x, log2 x and rounding to an integral value complete
with the rounding of what their function gives. A quotient, a square root and its reciprocal of finite nonzero operands
round as the exact value does; an integral value is the operand rounded to a whole number. The functions have the special
cases of R254: zeros, infinities, negative operands and NaNs; FEXP2 of an integer n is exactly 2^n and FLOG2 of 2^n
exactly n. R304, R305: FCLASS writes
one bit, that of the class of A, a NaN quiet where bit 22 is set; FMOVM changes the sign bits of its elements and
copies every other bit. -/
def Obligations.DivisionsAndClasses : Prop :=
  ((∀ (s : State) (r : BitVec 2) (k : BitVec 3) (d a b : BitVec 8) (dd aa bb : BitVec 7),
      let A := s.f (vn a)
      let AA := s.f64 (pn aa)
      let single := fun mode v => [(vn d, BitVec.ofNat 32 (f32.pack mode s.ftz v))]
      let double := fun mode v => pairOf (pn dd) (BitVec.ofNat 64 (f64.pack mode false v))
      let mode := Rnd.ofCode r.toNat
      let dir := Rnd.ofCode k.toNat
      s.Gives (.fdiv r d a b) {} [vn d, vn a, vn b] (single mode (A.div (s.f (vn b)))) [] ∧
      s.Gives (.ddiv dd r aa bb) {} [pn dd + 1, pn aa + 1, pn bb + 1] (double mode (AA.div (s.f64 (pn bb)))) [] ∧
      s.Gives (.fsqrt d a k) {} [vn d, vn a] (single dir A.sqrt) [] ∧
      s.Gives (.dsqrt dd aa k) {} [pn dd + 1, pn aa + 1] (double dir AA.sqrt) [] ∧
      s.Gives (.frnd d a k) {} [vn d, vn a] (single .rn (A.integral dir)) [] ∧
      s.Gives (.drnd dd aa k) {} [pn dd + 1, pn aa + 1] (double .rn (AA.integral dir)) [] ∧
      s.Gives (.frcp d a) {} [vn d, vn a] (single .rn ((FVal.fin false 1 0).div A)) [] ∧
      s.Gives (.frsq d a) {} [vn d, vn a] (single .rn A.rsqrt) [] ∧
      s.Gives (.fexp2 d a) {} [vn d, vn a] [(vn d, BitVec.ofNat 32 (exp2f32 s.ftz A))] [] ∧
      s.Gives (.flog2 d a) {} [vn d, vn a] [(vn d, BitVec.ofNat 32 (log2f32 s.ftz A))] []) ∧
    (∀ (n g : Bool) (m : Nat) (e q : Int), m ≠ 0 →
      let zero := FVal.fin n 0 e
      let num := FVal.fin n m e
      (num.div (.fin g 0 q) = .inf (n ^^ g) ∧ zero.div (.fin g 0 q) = .nan ∧ (FVal.inf n).div (.inf g) = .nan ∧
        (∃ z, num.div (.inf g) = .fin (n ^^ g) 0 z) ∧ (FVal.inf n).div (.fin g m q) = .inf (n ^^ g)) ∧
      (zero.sqrt = zero ∧ (FVal.inf n).sqrt = (if n then .nan else .inf false) ∧ (n = true → num.sqrt = .nan)) ∧
      (zero.rsqrt = .inf n ∧ (n = true → num.rsqrt = .nan ∧ (FVal.inf n).rsqrt = .nan) ∧
        ∃ z, (FVal.inf false).rsqrt = .fin false 0 z) ∧
      (exp2f32 false zero = 0x3F800000 ∧ exp2f32 false (.inf n) = (if n then 0 else 0x7F800000)) ∧
      (log2f32 false zero = 0xFF800000 ∧ (n = true → log2f32 false num = 0x7FC00000) ∧
        log2f32 false (.inf n) = (if n then 0x7FC00000 else 0x7F800000)) ∧
      (∀ x, FVal.nan.div x = .nan ∧ x.div .nan = .nan) ∧ FVal.nan.sqrt = .nan ∧ FVal.nan.rsqrt = .nan ∧
        exp2f32 false .nan = 0x7FC00000 ∧ log2f32 false .nan = 0x7FC00000) ∧
    (∀ (n g : Bool) (m k : Nat) (e q : Int), m ≠ 0 → k ≠ 0 →
      let a : ℚ := m * (2 : ℚ) ^ e
      let b : ℚ := k * (2 : ℚ) ^ q
      (∃ i j, (FVal.fin n m e).div (.fin g k q) = .fin (n ^^ g) i j ∧
        roundsAs (i * (2 : ℚ) ^ j) (fun d => a < d * b) (fun d => d * b < a)) ∧
      (∃ i j, (FVal.fin false m e).sqrt = .fin false i j ∧
        roundsAs (i * (2 : ℚ) ^ j) (fun d => a < d ^ 2) (fun d => d ^ 2 < a)) ∧
      (∃ i j, (FVal.fin false m e).rsqrt = .fin false i j ∧
        roundsAs (i * (2 : ℚ) ^ j) (fun d => 1 < d ^ 2 * a) (fun d => d ^ 2 * a < 1)) ∧
      ∀ mode, ∃ i j, (FVal.fin n m e).integral mode = .fin n i j ∧ (i : ℚ) * (2 : ℚ) ^ j = roundAt mode n m e 0) ∧
    (∀ n : Int, -126 ≤ n → n ≤ 127 →
      exp2f32 false (.fin (decide (n < 0)) n.natAbs 0) = (n + 127).toNat * 2 ^ 23 ∧
      (f32.unpack (log2f32 false (f32.unpack ((n + 127).toNat * 2 ^ 23)))).exact = n)) ∧
  (∀ (s : State) (d a : BitVec 8) (o : BitVec 2),
      let A := s.v (vn a)
      let D := s.v (vn d)
      let neg := A.getLsbD 31
      let e := (A.extractLsb' 23 8).toNat
      let f := (A.extractLsb' 0 23).toNat
      let sign := fun (x old : Bool) => if o = 0#2 then !x else if o = 1#2 then false else if o = 2#2 then true else old
      (∃ k : Nat, s.Gives (.fclass d a) {} [vn d, vn a] [(vn d, 1#32 <<< k)] [] ∧
        k = (if e = 255 ∧ f = 0 then (if neg then 0 else 7)
          else if e = 255 then (if A.getLsbD 22 then 9 else 8)
          else if e = 0 ∧ f = 0 then (if neg then 3 else 4)
          else if e = 0 then (if neg then 2 else 5)
          else if neg then 1 else 6)) ∧
      (∃ x, s.Gives (.fmovm d a 0#2 o) {} [vn d, vn a] [(vn d, x)] [] ∧
        ∀ i < 32, x.getLsbD i = if i = 31 then sign (A.getLsbD i) (D.getLsbD i) else A.getLsbD i) ∧
      (∃ x, s.Gives (.fmovm d a 1#2 o) {} [vn d + 1, vn a + 1] (pairOf (vn d) x) [] ∧
        ∀ i < 64, x.getLsbD i = if i = 63 then sign ((s.pair (vn a)).getLsbD i) ((s.pair (vn d)).getLsbD i)
          else (s.pair (vn a)).getLsbD i) ∧
      (∀ t : BitVec 2, t = 2#2 ∨ t = 3#2 → ∃ x, s.Gives (.fmovm d a t o) {} [vn d, vn a] [(vn d, x)] [] ∧
        ∀ i < 32, x.getLsbD i = if i = 15 ∨ i = 31 then sign (A.getLsbD i) (D.getLsbD i) else A.getLsbD i))

/-- R309 to R312: a conversion takes its source exactly, an integer type from the low bits of its register or pair, and
rounds it once to the type of its destination, stochastically under `.rs` (R261); under FTZ an FP32 result is flushed
where it lies below 2^-126 as it stands rounded, as R311 has it (log entry 19); to an integer type it saturates, NaN gives 0 and an infinity the end of
the range. CVT has no 64-bit side, CVTD has one. R256 to R260, R314, R315: a
block's scales follow its largest magnitude, an element takes the lower scale where its nearest point of the grid is no
more than the largest, and its code is that point, or a neighbour that a hash chooses. QDXB writes the codes of its block, four or
eight to a register, its two scales and whether an element saturated; DQDXB writes the value of each code under the
scale its SEL bit names: NaN under the scale 0xFF, +0 for the magnitude 0. -/
def Obligations.Conversions : Prop :=
  (∀ (s : State) (r : BitVec 3) (d a : BitVec 8) (t st : BitVec 4),
      let T := t.toNat
      let S := st.toNat
      let size := fun (c : Nat) => 8 * 2 ^ (c % 4)
      let lowest := fun (c : Nat) => if c < 4 then -(2 ^ (size c - 1) : Int) else 0
      let highest := fun (c : Nat) => if c < 4 then (2 ^ (size c - 1) : Int) - 1 else (2 ^ size c : Int) - 1
      let wide := fun (c : Nat) => c = 3 ∨ c = 7 ∨ c = 11
      let last := fun (r : BitVec 8) (c : Nat) => vn r + if wide c then 1 else 0
      let flushed := fun (T y : Nat) => if s.ftz ∧ T = 10 ∧ y % 2 ^ 31 < 2 ^ 23 then y / 2 ^ 31 * 2 ^ 31 else y
      let A : DWord := if wide S then s.pair (vn a) else (s.v (vn a)).setWidth 64
      ∃ (v : FVal) (V : DWord),
        (¬wide T → ¬wide S → s.Gives (.cvt r d a t st) {} [vn d, vn a] [(vn d, V.setWidth 32)] []) ∧
        (wide T ∨ wide S → s.Gives (.cvtd r d a t st) {} [last d T, last a S]
          (if wide T then pairOf (vn d) V else [(vn d, V.setWidth 32)]) []) ∧
        (S < 8 → v.isFin ∧ v.exact = if S < 4 then ((A.extractLsb' 0 (size S)).toInt : ℚ) else (A.extractLsb' 0 (size S)).toNat) ∧
        (S = 8 → v = f16.unpack (A.toNat % 2 ^ 16)) ∧ (S = 9 → v = bf16.unpack (A.toNat % 2 ^ 16)) ∧
        (S = 10 → v = unpack32 s.ftz (A.setWidth 32)) ∧ (S = 11 → v = f64.unpack A.toNat) ∧
        (T < 8 → (v = .nan → V = 0#64) ∧
          (∀ neg, v = .inf neg → V = BitVec.ofInt 64 (if neg then lowest T else highest T)) ∧
          (∀ neg m e, v = .fin neg m e →
            let n : Nat := if r = 4#3 then roundAtRs s.laneId m e 0 else roundAt (Rnd.ofCode r.toNat) neg m e 0
            V = BitVec.ofInt 64 (max (lowest T) (min (highest T) (if neg then -n else n))))) ∧
        (8 ≤ T → T ≤ 11 → r.toNat < 4 →
          let F := if T = 8 then f16 else if T = 9 then bf16 else if T = 10 then f32 else f64
          V = BitVec.ofNat 64 (flushed T (F.pack (Rnd.ofCode r.toNat) false v))) ∧
        (8 ≤ T → T ≤ 11 → r = 4#3 →
          let F := if T = 8 then f16 else if T = 9 then bf16 else if T = 10 then f32 else f64
          (v = .nan → V = BitVec.ofNat 64 F.nan) ∧ (∀ neg, v = .inf neg → V = BitVec.ofNat 64 (F.pack .rn false v)) ∧
          ∀ neg m e, v = .fin neg m e → V = BitVec.ofNat 64 (flushed T (F.roundRs s.laneId neg m e)))) ∧
  (∀ (s : State) (d a b : BitVec 8) (x h : BitVec 1) (p : BitVec 3),
      let count := (s.ag.hints.imm20.map BitVec.toNat).getD 32
      let inputs := (List.range 32).map fun i => if i < count then some (f32.unpack (s.v (vn a + i)).toNat) else none
      let block := fun four => quantBlock four (x = 1#1) ((s.ag.hints.dxbd.getD 6#4).toNat) inputs
      let hints : HintUse := { imm20 := true, dxbd := true }
      let packed := fun (width n q : Nat) (cs : List Nat) =>
        BitVec.ofNat 32 ((List.range n).map fun j => cs.getD (n * q + j) 0 * 2 ^ (width * j)).sum
      let scales : DxbBlock → Word := fun k => BitVec.ofNat 32 (k.sa + 256 * k.sb)
      (1 ≤ count → count ≤ 32 →
        s.Gives (.qdxb d a x 0#1 0#1 p) hints [vn d + 8, vn a + 31]
          ((List.range 8).map (fun q => (vn d + q, packed 8 4 q (block false).codes)) ++ [(vn d + 8, scales (block false))])
          [(p, (block false).sat)] ∧
        s.Gives (.qdxb d a x 1#1 h p) hints [vn d + 8, vn a + 31]
          ((List.range 4).map (fun q => (vn d + 4 * h.toNat + q, packed 4 8 q (block true).codes)) ++
            [(vn d + 8, if h = 0#1 then (s.v (vn d + 8) &&& 0xFFFF0000#32) ||| scales (block true)
              else (s.v (vn d + 8) &&& 0xFFFF#32) ||| (scales (block true) <<< 16))]) [(p, (block true).sat)]) ∧
      ∀ m : BitVec 1,
        let four := decide (m = 1#1)
        let n := if four then 8 else 4
        let code := fun i => (s.v (vn a)).toNat / 2 ^ (32 / n * i) % 2 ^ (32 / n)
        let mag : Nat → Nat := fun i => code i % (2 ^ (32 / n) / 4)
        let scale := fun i => (if code i / (2 ^ (32 / n) / 2) = 0 then (s.v (vn b)).extractLsb' 0 8
          else (s.v (vn b)).extractLsb' 8 8).toNat
        ∃ value : Nat → Word,
          s.Gives (.dqdxb d a b m) {} [vn d + n - 1, vn a, vn b] ((List.range n).map fun i => (vn d + i, value i)) [] ∧
          ∀ i < n, (scale i = 0xFF → value i = 0x7FC00000#32) ∧ (scale i ≠ 0xFF → mag i = 0 → value i = 0#32) ∧
            (scale i ≠ 0xFF → mag i ≠ 0 → ∃ v : FVal, v.isFin ∧ value i = BitVec.ofNat 32 (f32.pack .rn s.ftz v) ∧
              v.exact = (if code i / (2 ^ (32 / n) / 4) % 2 = 1 then -1 else 1) *
                (if four then (mag i : ℚ) else if mag i < 8 then (mag i : ℚ) / 32
                  else ((8 + mag i % 8) * 2 ^ (mag i / 8) : Nat) / 64) *
                (2 : ℚ) ^ ((scale i : Int) - 127))) ∧
  ∀ (four rs : Bool) (D : Nat) (xs : List (Option FVal)), xs.length = 32 → D ≤ 15 →
    let b := quantBlock four rs D xs
    let top := if four then 3 else 63
    let grid : Nat → ℚ := fun c =>
      if four then (c : ℚ) else if c < 8 then (c : ℚ) / 32 else ((8 + c % 8) * 2 ^ (c / 8) : Nat) / 64
    let nearest := fun (c : Nat) (y : ℚ) => c ≤ top + 1 ∧
      ∀ k ≤ top + 1, k ≠ c → |grid c - y| < |grid k - y| ∨ (|grid c - y| = |grid k - y| ∧ c % 2 = 0)
    let x := fun (i : Nat) => (xs.getD i none).getD (.fin false 0 0)
    let bad := ∃ i < 32, ¬(x i).isFin
    let mag := fun i => |(x i).exact|
    let sign := fun i => match x i with
      | .fin true _ _ => 1
      | _ => 0
    (bad → b.sa = 0xFF ∧ b.sb = 0xFF ∧ b.codes = List.replicate 32 0 ∧ b.sat = false) ∧
    (¬bad → (∀ i < 32, mag i = 0) → b.sa = 0x7F ∧ b.sb = 0x7F ∧ b.codes = List.replicate 32 0 ∧ b.sat = false) ∧
    (¬bad → ∀ (M : Nat) (L : Int), M < 32 → (∀ i < 32, mag i ≤ mag M) → (2 : ℚ) ^ L ≤ mag M → mag M < (2 : ℚ) ^ (L + 1) →
      let ea := max (L - if four then 1 else 4) (-127)
      let eb := max (ea - D) (-127)
      b.sa = (ea + 127).toNat ∧ b.sb = (eb + 127).toNat ∧ b.codes.length = 32 ∧
      ∃ (sel : Nat → Bool) (q d : Nat → Nat), (b.sat = true ↔ ∃ i < 32, top < q i) ∧
        ∀ i < 32,
          let y := mag i / (2 : ℚ) ^ (if sel i then eb else ea)
          (sel i = true ↔ (xs.getD i none).isSome = true ∧ ∃ c ≤ top, nearest c (mag i / (2 : ℚ) ^ eb)) ∧
          (rs = false → nearest (q i) y) ∧
          (rs = true → ∃ lo, grid lo ≤ y ∧ y < grid (lo + 1) ∧ lo ≤ top ∧
            d i = ⌊(y - grid lo) / (grid (lo + 1) - grid lo) * 2 ^ 24⌋₊ ∧
            q i = if hash24 (d ((i + 31) % 32)) (d ((i + 1) % 32)) i < d i then lo + 1 else lo) ∧
          b.codes.getD i 0 = (let c := min (q i) top
            if c = 0 then 0
            else (2 * (if sel i then 1 else 0) + sign i) * (top + 1) + c))

/-- R255: DREL gives the canonical NaN for a NaN or two infinities of one sign, the infinity of a − b where one operand
is infinite, and otherwise the exact difference rounded once to FP32; an exact zero difference is +0. -/
def Obligations.RelativeDifference : Prop :=
  ∀ (s : State) (d : BitVec 8) (a b : BitVec 7),
    let A := s.f64 (pn a)
    let B := s.f64 (pn b)
    ∃ x : Word, s.Gives (.drel d a b) {} [vn d, pn a + 1, pn b + 1] [(vn d, x)] [] ∧
      (A = .nan ∨ B = .nan ∨ (∃ n, A = .inf n ∧ B = .inf n) → x = 0x7FC00000#32) ∧
      (∀ n, (A = .inf n ∧ (B.isFin ∨ B = .inf !n)) ∨ (A.isFin ∧ B = .inf !n) →
        x = if n then 0xFF800000#32 else 0x7F800000#32) ∧
      (A.isFin → B.isFin → ∃ v : FVal, v.isFin ∧ v.exact = A.exact - B.exact ∧
        x = BitVec.ofNat 32 (f32.pack .rn s.ftz v) ∧ (A.exact = B.exact → x = 0#32))

/-! ### Memory -/

/-- R317, R319: LD and its signed forms at the base pair plus the offset in units of the size: where the access gives
bytes, the destination takes them, the lowest first, and a signed form extends them; a cause of R317 is taken as a
trap, a poisoned sector raises MEMERR with the lowest address of the access in it (R80), and is noted as an event (R81; for a load the model's reading, log entry 61), a page fault parks the lane; an
address past 2^56 raises ACCESS, and so does an access that only ends past it, with its own address (the model's reading,
log entries 28 and 36). R72, R75, R134: a load of a page whose
translation is cached and grants reading, within one line of local memory that is not poisoned, that no engine owns
and of which the L1 holds no copy and has room for one, gives the bytes memory holds, and changes no byte of memory
and no register of the thread. -/
def Obligations.GlobalLoads : Prop :=
  (∀ (s : State) (d : BitVec 8) (a : BitVec 7) (z : BitVec 3) (y : BitVec 1) (o : BitVec 6),
      let off : Int := match s.ag.hints.imm20 with
        | none => o.toInt
        | some h => (h ++ o).toInt
      let ea := fun (n : Nat) => (s.pair (pn a) + BitVec.ofInt 64 (off * n)).toNat
      let access := fun (n : Nat) => s.drain.loadPlain s.who (s.ag.hints.scope.getD 2#2) s.ag.hints.cache (ea n) n
      let n := 2 ^ z.toNat
      let k := if z.toNat ≤ 2 then 1 else 2 ^ (z.toNat - 2)
      let m := 2 ^ y.toNat
      let long := fun P => s.Does (.ld d a z o) withAccess [vn d + k - 1, pn a + 1] P
      let short := fun P => s.Does (.ldSigned d a y o) withAccess [vn d, pn a + 1] P
      (∀ r bs, access n = .ok r bs → long fun t => t = { r with ag := t.ag, agenda := t.agenda } ∧
        r.GoesOn t ((List.range k).map fun i => (vn d + i, BitVec.ofNat 32 (leNat bs / 2 ^ (32 * i)))) []) ∧
      (∀ r bs, access m = .ok r bs → short fun t => t = { r with ag := t.ag, agenda := t.agenda } ∧
        r.GoesOn t [(vn d, if y = 0#1 then (BitVec.ofNat 8 (leNat bs)).signExtend 32
          else (BitVec.ofNat 16 (leNat bs)).signExtend 32)] []) ∧
      (∀ c x, access n = .trap c x → long fun t => t = s.takeTrap c x) ∧
      (∀ c x, access m = .trap c x → short fun t => t = s.takeTrap c x) ∧
      (∀ x p, access n = .bad x p → long fun t => t = (s.notePoison p).takeTrap .memErr (BitVec.ofNat 64 x)) ∧
      (∀ x p, access m = .bad x p → short fun t => t = (s.notePoison p).takeTrap .memErr (BitVec.ofNat 64 x)) ∧
      (∀ r w, access n = .page r w → long fun t => t = r.parkPage w) ∧
      (∀ r w, access m = .page r w → short fun t => t = r.parkPage w) ∧
      (s.ag.parts = none → 2 ^ 56 < ea n + n → access n = .trap .access (BitVec.ofNat 64 (ea n)))) ∧
  (∀ (s : State) (w : Who) (scope : BitVec 2) (hint : Option (BitVec 2)) (va n pa cls : Nat),
      let line := pa / 128
      s.Lands w .rd va n pa cls → cls ≠ 3 → s.firstPoison pa n = none → s.l1Line (w.l1Core line) line = none →
      (s.core (w.l1Core line)).l1.length < 2048 →
        ∃ r, s.loadPlain w scope hint va n = .ok r (s.bytesAt pa n) ∧ r.mem = s.mem ∧ r.ag = s.ag)

/-- R75, R134, R317: ST puts the low bytes of its registers, the lowest first, at the base pair plus the offset in units
of the size. On a coherent line of local memory that no engine owns, whose translation is cached and grants writing,
exactly those bytes of memory take them, and every other byte is as before. A store to a read-shared page that grants
writing raises ACCESS. -/
def Obligations.GlobalStores : Prop :=
  ∀ (s : State) (d : BitVec 8) (a : BitVec 7) (z : BitVec 3) (o : BitVec 6),
    let n := 2 ^ z.toNat
    let k := if z.toNat ≤ 2 then 1 else 2 ^ (z.toNat - 2)
    let va := s.eaOf a o n
    let value := wordsNat ((List.range k).map fun i => s.v (vn d + i))
    let byte := fun (i : Nat) => BitVec.ofNat 8 (value / 256 ^ i)
    let bytes := (List.range n).map byte
    let store := fun P => s.Does (.st d a z o) withAccess [vn d + k - 1, pn a + 1] P
    (∀ r, s.drain.storeVA s.who (s.ag.hints.scope.getD 2#2) s.ag.hints.cache va bytes = .ok r () →
      store fun t => t = { r with ag := t.ag } ∧ r.GoesOn t [] []) ∧
    ∀ pa,
      (s.drain.Lands s.who .wr va n pa 2 → store fun t =>
          (∀ x, t.byteAt x = if pa ≤ x ∧ x < pa + n then byte (x - pa) else s.byteAt x) ∧
          s.ag.Wrote t.ag [] [] ∧ s.ag.SameSpecial t.ag ∧ t.ag.pc = s.ag.pc + 4#64) ∧
      (s.drain.Lands s.who .wr va n pa 1 → store fun t => t = s.takeTrap .access (BitVec.ofNat 64 va))

/-- R185, R317, R320, R321: LD and ST on team memory at the base register plus the offset in units of the size: past the
team's memory ACCESS, then misaligned ALIGN, each saving the address; otherwise, the lane's earlier accesses complete
(R236), a load takes the bytes there and a store puts them there, exactly those; while an access of the lane is out at a
peer it waits. XLD and XST of a record at a misaligned address raise ALIGN, of one that R208 refuses RECORD, each saving
the record's address, and what refuses the read of the record is taken as a trap. XLD and XST of an element outside the
extents read the fill value or do nothing. An element inside is loaded or stored at its bit address; one below a byte takes its bits of the byte alone, and keeps the others. A
whole-byte element of a coherent line is written to exactly its bytes, and no register but XLD's D changes. -/
def Obligations.TeamMemory : Prop :=
  ∀ (s : State) (d a : BitVec 8) (b : BitVec 7) (z : BitVec 3) (y : BitVec 1) (o : BitVec 6),
    let ta := fun (n : Nat) => teamEa (s.v (vn a)) (s.ag.hints.off o) n
    let n := 2 ^ z.toNat
    let m := 2 ^ y.toNat
    let k := if z.toNat ≤ 2 then 1 else 2 ^ (z.toNat - 2)
    let at_ := (ta n).toNat
    let low := (ta m).toNat
    let value := wordsNat ((List.range k).map fun i => s.v (vn d + i))
    let load := fun P => s.Does (.ldt d a z o) withImm [vn d + k - 1, vn a] P
    let store := fun P => s.Does (.stt d a z o) withImm [vn d + k - 1, vn a] P
    (s.tmemSize < at_ + n →
      load (fun t => t = s.takeTrap .access ((ta n).setWidth 64)) ∧
      store fun t => t = s.takeTrap .access ((ta n).setWidth 64)) ∧
    (at_ + n ≤ s.tmemSize → at_ % n ≠ 0 →
      load (fun t => t = s.takeTrap .align ((ta n).setWidth 64)) ∧
      store fun t => t = s.takeTrap .align ((ta n).setWidth 64)) ∧
    (at_ + n ≤ s.tmemSize → at_ % n = 0 →
      s.GivesAfter (.ldt d a z o) withImm [vn d + k - 1, vn a]
        ((List.range k).map fun i => (vn d + i, BitVec.ofNat 32 (s.tmNum at_ n / 2 ^ (32 * i)))) [] ∧
      (s.netBusy = true → load s.WaitsPeer ∧ store s.WaitsPeer) ∧
      (s.netBusy = false → store fun t => s.GoesOn t [] [] ∧
        ∀ x, t.tmByte x = if at_ ≤ x ∧ x < at_ + n then BitVec.ofNat 8 (value / 256 ^ (x - at_)) else s.tmByte x)) ∧
    (low + m ≤ s.tmemSize → low % m = 0 →
      s.GivesAfter (.ldtSigned d a y o) withImm [vn d, vn a]
        [(vn d, if y = 0#1 then (BitVec.ofNat 8 (s.tmNum low m)).signExtend 32
          else (BitVec.ofNat 16 (s.tmNum low m)).signExtend 32)] [] ∧
      (s.netBusy = true → s.Does (.ldtSigned d a y o) withImm [vn d, vn a] s.WaitsPeer)) ∧
    (s.tmemSize < low + m →
      s.Does (.ldtSigned d a y o) withImm [vn d, vn a] fun t => t = s.takeTrap .access ((ta m).setWidth 64)) ∧
    (low + m ≤ s.tmemSize → low % m ≠ 0 →
      s.Does (.ldtSigned d a y o) withImm [vn d, vn a] fun t => t = s.takeTrap .align ((ta m).setWidth 64)) ∧
    (s.myRmw = none →
      let at_ := s.pair (pn b)
      let aligned := at_.toNat % 64 = 0 ∨ 2 ^ 56 ≤ at_.toNat
      let traps := fun (c : Cause) (x : DWord) => ∀ i ∈ [Instr.xld d a b, .xst d a b],
        s.Does i { cache := true, scope := true } [vn d, vn a, pn b + 1] fun t => t = s.takeTrap c x
      (¬aligned → traps .align at_) ∧
      (∀ c x, aligned → s.drain.readRecord at_.toNat = .trap c x → traps c x) ∧
      ∀ r bs, aligned → s.drain.readRecord at_.toNat = .ok r bs → recordOk bs = false → traps .record at_) ∧
    ∀ r bs, (s.pair (pn b)).toNat % 64 = 0 → s.drain.readRecord (s.pair (pn b)).toNat = .ok r bs → recordOk bs = true →
      s.myRmw = none →
      let q := parseRecord bs
      let coords := (List.range q.rank).map fun i => (r.v (vn a + i)).toInt
      let hints : HintUse := { cache := true, scope := true }
      let regs := [vn d, vn a, pn b + 1]
      let at_ := q.bitAddr coords
      let used := if q.bits = 64 then 2 else 1
      let words := fun (x : Nat) => (List.range used).map fun i => (vn d + i, BitVec.ofNat 32 (x / 2 ^ (32 * i)))
      let x := wordsNat (r.vs (vn d) used) % 2 ^ q.bits
      r.reach = s.reach → vn a + q.rank ≤ s.reach → (q.bits = 64 → vn d % 2 = 0 ∧ vn d + 2 ≤ s.reach) →
        (q.inside coords = false →
          s.Does (.xld d a b) hints regs (fun t => t = { r with ag := t.ag } ∧ r.GoesOn t (words q.fillBits) []) ∧
          s.Does (.xst d a b) hints regs fun t => t = { r with ag := t.ag } ∧ r.GoesOn t [] []) ∧
        (q.inside coords = true →
          (∀ u bytes, r.loadPlain r.who r.scope r.ag.hints.cache (at_ / 8) (max 1 (q.bits / 8)) = .ok u bytes →
            s.Does (.xld d a b) hints regs fun t => t = { u with ag := t.ag, agenda := t.agenda } ∧
              u.GoesOn t (words (leNat bytes / 2 ^ (at_ % 8) % 2 ^ q.bits)) []) ∧
          (8 ≤ q.bits →
            (∀ u, r.storeVA r.who r.scope r.ag.hints.cache (at_ / 8) (leBytes (q.bits / 8) x) = .ok u () →
              s.Does (.xst d a b) hints regs fun t => t = { u with ag := t.ag } ∧ u.GoesOn t [] []) ∧
            ∀ pa, r.Lands r.who .wr (at_ / 8) (q.bits / 8) pa 2 → s.Does (.xst d a b) hints regs fun t =>
              (∀ i, t.byteAt i = if pa ≤ i ∧ i < pa + q.bits / 8 then BitVec.ofNat 8 (x / 256 ^ (i - pa)) else r.byteAt i) ∧
                r.ag.Wrote t.ag [] [] ∧ r.ag.SameSpecial t.ag ∧ t.ag.pc = r.ag.pc + 4#64) ∧
          (q.bits < 8 → at_ % 8 + q.bits ≤ 8 → ∀ pa, r.Lands r.who .rw (at_ / 8) 1 pa 2 → r.firstPoison pa 1 = none →
            s.Does (.xst d a b) hints regs fun t => r.ag.Wrote t.ag [] [] ∧ r.ag.SameSpecial t.ag ∧ t.ag.pc = r.ag.pc + 4#64 ∧
              (∀ i, i ≠ pa → t.byteAt i = r.byteAt i) ∧
              ∀ j < 8, (t.byteAt pa).getLsbD j =
                if at_ % 8 ≤ j ∧ j < at_ % 8 + q.bits then x.testBit (j - at_ % 8) else (r.byteAt pa).getLsbD j))

/-- R322 to R325: an atomic takes the old value of an aligned word of its size, writes the new value of its operation, and
ATOM and ATOMF write the old value to D. In team memory exactly the word's bytes change; a word past the team's memory
raises ACCESS and a misaligned one ALIGN; it waits while an access of the lane is out at a peer. In global memory the
lane goes on with what the read-modify-write gives; on a coherent line, or a private one at `.dev` or above (R197), exactly
the word's bytes change, to the new value of the bytes that stood there. R323,
R324: the new value of each atomic operation on words of n bytes: wrapping addition; the signed and unsigned lesser
and greater; and, or and exclusive or; exchange; compare-and-swap; increment and decrement; addition, minimum and
maximum in FP32 and FP64. -/
def Obligations.Atomics : Prop :=
  (∀ (s : State) (d a : BitVec 8) (o : BitVec 4) (z : BitVec 2),
      let k := 2 ^ z.toNat
      let n := 4 * k
      let operand := wordsNat ((List.range k).map fun i => s.v (vn d + i))
      let C := (s.ag.hints.c4.map BitVec.toNat).getD 0
      let words := fun (x : Nat) => (List.range k).map fun i => (vn d + i, BitVec.ofNat 32 (x / 2 ^ (32 * i)))
      let ta := s.v (vn a)
      let at_ := ta.toNat
      let old := s.tmNum at_ n
      let va := (s.pair (vn a)).toNat
      let forms : List (Bool × Bool × (BitVec 1 → Instr)) :=
        [(false, true, .atom d a o z), (false, false, .red d a o z), (true, true, .atomf d a o z), (true, false, .redf d a o z)]
      ∀ float returns i, (float, returns, i) ∈ forms →
        let cas := !float && o == 9#4
        let c := if cas then wordsNat ((List.range k).map fun i => s.v (C + i)) else 0
        let u : HintUse := { scope := true, c4 := cas, needC4 := cas }
        let regs := fun (m : Nat) => [vn d + k - 1, vn a + m] ++ if cas then [C + k - 1] else []
        let new := fun (x : Nat) => atomValue float o.toNat n x operand c
        (cas = true → C % k = 0) →
          (s.tmemSize < at_ + n → s.Does (i 1#1) u (regs 0) fun t => t = s.takeTrap .access (ta.setWidth 64)) ∧
          (at_ + n ≤ s.tmemSize → at_ % n ≠ 0 → s.Does (i 1#1) u (regs 0) fun t => t = s.takeTrap .align (ta.setWidth 64)) ∧
          (at_ + n ≤ s.tmemSize → at_ % n = 0 → s.netBusy = true → s.Does (i 1#1) u (regs 0) s.WaitsPeer) ∧
          (at_ + n ≤ s.tmemSize → at_ % n = 0 → s.netBusy = false → s.Does (i 1#1) u (regs 0) fun t =>
            s.GoesOn t (if returns then words old else []) [] ∧
            ∀ x, t.tmByte x = if at_ ≤ x ∧ x < at_ + n then BitVec.ofNat 8 (new old / 256 ^ (x - at_)) else s.tmByte x) ∧
          (∀ r bs, s.drain.rmwVA s.who (s.ag.hints.scope.getD 2#2) none va n returns false
                (.atomic float o.toNat n (BitVec.ofNat 128 operand) (BitVec.ofNat 128 c) returns)
                (fun x => leBytes n (new (leNat x))) = .ok r bs →
            s.Does (i 0#1) u (regs 1) fun t => t = { r with ag := t.ag, agenda := t.agenda } ∧
              r.GoesOn t (if returns then words (leNat bs) else []) []) ∧
          (va % n = 0 → ∀ pa cls, s.drain.Lands s.who .rw va n pa cls →
            cls = 2 ∨ (cls = 0 ∧ 2 ≤ (s.ag.hints.scope.getD 2#2).toNat) → s.firstPoison pa n = none →
              s.Does (i 0#1) u (regs 1) fun t =>
                s.ag.Wrote t.ag (if returns then words (s.numAt pa n) else []) [] ∧ s.ag.SameSpecial t.ag ∧
                t.ag.pc = s.ag.pc + 4#64 ∧ ∀ x, t.byteAt x =
                  if pa ≤ x ∧ x < pa + n then BitVec.ofNat 8 (new (s.numAt pa n) / 256 ^ (x - pa)) else s.byteAt x) ∧
          (va % n ≠ 0 → va + n ≤ 2 ^ 56 → s.myRmw = none → s.Does (i 0#1) u (regs 1) fun t =>
            t = s.takeTrap .align (BitVec.ofNat 64 va))) ∧
  (∀ (n : Nat) (o v c : Nat), n = 4 ∨ n = 8 ∨ n = 16 → o < 2 ^ (8 * n) → v < 2 ^ (8 * n) → c < 2 ^ (8 * n) →
      let signed := fun (x : Nat) => (BitVec.ofNat (8 * n) x).toInt
      let new := fun op => atomValue false op n o v c
      new 0 = (o + v) % 2 ^ (8 * n) ∧
      (new 1 = o ∨ new 1 = v) ∧ signed (new 1) = min (signed o) (signed v) ∧
      (new 2 = o ∨ new 2 = v) ∧ signed (new 2) = max (signed o) (signed v) ∧
      new 3 = min o v ∧ new 4 = max o v ∧
      (∀ i, (new 5).testBit i = (o.testBit i && v.testBit i)) ∧ (∀ i, (new 6).testBit i = (o.testBit i || v.testBit i)) ∧
      (∀ i, (new 7).testBit i = (o.testBit i ^^ v.testBit i)) ∧
      new 8 = v ∧ new 9 = (if o = c then v else o) ∧ new 10 = (if v ≤ o then 0 else o + 1) ∧
      new 11 = (if o = 0 ∨ v < o then v else o - 1) ∧ (∀ op < 12, new op < 2 ^ (8 * n)) ∧
      (n = 4 → atomValue true 0 n o v c = f32.pack .rn false ((f32.unpack o).add .rn (f32.unpack v)) ∧
        atomValue true 1 n o v c = f32.lesser false o v ∧ atomValue true 2 n o v c = f32.lesser true o v) ∧
      (n = 8 → atomValue true 0 n o v c = f64.pack .rn false ((f64.unpack o).add .rn (f64.unpack v)) ∧
        atomValue true 1 n o v c = f64.lesser false o v ∧ atomValue true 2 n o v c = f64.lesser true o v))

/-- R243, R326 to R328: FENCE goes on once every earlier store of the lane has completed, its core's pts at or above their
timestamps, and waits while an access to a peer is out; WAITC on a coherent or read-shared word goes on with the word
where its condition holds and otherwise parks, past 2^56 raises ACCESS, also where the access only ends past it (log
entries 28 and 36), and misaligned ALIGN, and waits too while an access to a peer is out; on a private page, in host
memory or in an aperture it raises ACCESS, and at a scope below `.dev` ILLEGAL; CFLUSH leaves no dirty copy of its line in the L1, CINV none at all. -/
def Obligations.FencesAndFlushes : Prop :=
  ∀ (s : State) (sc : BitVec 2) (d : BitVec 8) (a : BitVec 7) (c : BitVec 4) (z : BitVec 2),
    let va := (s.pair (pn a)).toNat
    let k := 2 ^ z.toNat
    let n := 4 * k
    (s.netBusy = false → s.Does (.fence sc) {} [] fun t => s.GoesOn t [] [] ∧ t.ag.stores = [] ∧
      ∀ x ∈ s.ag.stores, x.toNat ≤ (t.core s.coreNo).pts.toNat) ∧
    (s.netBusy = true → s.Does (.fence sc) {} [] s.WaitsPeer) ∧
    ((s.ag.hints.scope.getD 2#2).toNat ≥ 2 → s.kind ≠ .tad →
      let waitc := fun P => s.Does (.waitc d a c z) { scope := true } [vn d + k - 1, pn a + 1] P
      (2 ^ 56 < va + n → waitc fun t => t = s.takeTrap .access (BitVec.ofNat 64 va)) ∧
      (va + n ≤ 2 ^ 56 → va % n ≠ 0 → waitc fun t => t = s.takeTrap .align (BitVec.ofNat 64 va))) ∧
    ((s.ag.hints.scope.getD 2#2).toNat < 2 → s.cur ≠ .none →
      exec (.waitc d a c z) s = .next (s.takeTrap .illegal ((encode (.waitc d a c z)).setWidth 64))) ∧
    (∀ r p ps, va + n ≤ 2 ^ 56 → va % n = 0 → (s.ag.hints.scope.getD 2#2).toNat ≥ 2 → s.kind ≠ .tad →
      s.drain.pieces s.drain.who.asid .rd 2 va n = (r, .inr (p :: ps)) →
      (p.cls ≠ 1 ∧ p.cls ≠ 2) ∨ paRange p.pa ≠ .local_ →
        s.Does (.waitc d a c z) { scope := true } [vn d + k - 1, pn a + 1] fun t =>
          t = s.takeTrap .access (BitVec.ofNat 64 va)) ∧
    (∀ r p ps, va + n ≤ 2 ^ 56 → va % n = 0 → (s.ag.hints.scope.getD 2#2).toNat ≥ 2 → s.kind ≠ .tad →
      s.drain.pieces s.drain.who.asid .rd 2 va n = (r, .inr (p :: ps)) → p.cls = 1 ∨ p.cls = 2 → paRange p.pa = .local_ →
      (p.cls = 2 → r.netBusy = true →
        s.Does (.waitc d a c z) { scope := true } [vn d + k - 1, pn a + 1] r.WaitsPeer) ∧
      (r.netBusy = false →
      let q := r.releaseLine (p.pa / 128)
      q.firstPoison p.pa n = none →
        let u := q.homeLoad q.who p none
        let w := u.numAt p.pa n
        let v := wordsNat (u.vs (vn d) k)
        let waitc := fun P => s.Does (.waitc d a c z) { scope := true } [vn d + k - 1, pn a + 1] P
        (condHolds c.toNat n (BitVec.ofNat 64 w) (BitVec.ofNat 64 v) = true → waitc fun t => t = { u with ag := t.ag } ∧
          u.GoesOn t ((List.range k).map fun i => (vn d + i, BitVec.ofNat 32 (w / 2 ^ (32 * i)))) []) ∧
        (condHolds c.toNat n (BitVec.ofNat 64 w) (BitVec.ofNat 64 v) = false → waitc fun t =>
          t.mem = u.mem ∧ u.ag.Wrote t.ag [] [] ∧ ∃ x : CondWait, t.ag.status = .parked (.cond x) ∧ x.pa = p.pa ∧
            x.size = n ∧ x.cond = c.toNat ∧ x.value = BitVec.ofNat 64 v ∧ x.dest = vn d))) ∧
    (∀ r p ps, va + 1 ≤ 2 ^ 56 → s.drain.pieces s.drain.who.asid .rd 2 va 1 = (r, .inr (p :: ps)) →
      r.refuses false p = false → paRange p.pa = .local_ →
        let line := p.pa / 128
        let core := r.who.l1Core line
        s.Does (.cflush a) {} [pn a + 1] (fun t => r.ag.Wrote t.ag [] [] ∧ t.ag.pc = r.ag.pc + 4#64 ∧
          (∀ x, t.l1Line core line = some x → x.dirty = false) ∧ ((t.l1Line core line).isSome ↔ (r.l1Line core line).isSome)) ∧
        s.Does (.cinv a) {} [pn a + 1] fun t => r.ag.Wrote t.ag [] [] ∧ t.ag.pc = r.ag.pc + 4#64 ∧
          t.l1Line core line = none)

/-! ### Traps and system registers -/

/-- R175, R176, R370: taking a trap in a lane of a team. TRAPCAUSE, TRAPPC and TRAPADDR take the cause, the address of the
first hint word of the run or else of the instruction, and the address the cause gives, bits 63:56 zero but in SWTRAP. With HANDLER 0, DTLEN at least
1 and an entry 0 of the dispatch table that may be entered, HANDLER becomes 1 and the lane goes on at entry 0. In
handler state, with DTLEN 0, or with an entry 0 that is 0 or has a bit of 1:0 or 63:56 set, the lane stops, its team
is held and a TEAMSTOP record tells the keeper core; where entry 0 cannot be read the same happens with that failure's
cause, MEMERR for a poisoned sector, and TRAPADDR at DTAB; where its page faults the lane parks, and it waits there while
an access of it is out at a peer (the model's reading, log entry 39). The lanes of a team that stops leave their domains
(R158), and where none has joined one memory is as before. Registers, predicates, LINK, ESEQ.LAST are as before. R175,
R177, R181: a trap in a lane of a tadpole stops that lane and marks the tadpole, which ends as a whole once the other
lanes of the bundle have completed the instruction, with one TADTRAP record for the bundle (the model's reading of
R177, log entry 18) that names the issuer of its bulk read; a trap in a routine context removes the context. Memory is as before in a tadpole's trap. R176, R368, R369,
R371: TRAP raises SWTRAP with its number and the address of the word after it; ERET with HANDLER 1 clears HANDLER,
empties the pending set and goes on at TRAPPC, every other register as before, and with HANDLER 0 raises ILLEGAL; BRK
goes on at the next word, holds the team and sends a BRK record with its own address, every register, trap registers
included, and, where no lane of the team has joined a domain, every byte of memory as before; the lanes leave their
domains (R158). -/
def Obligations.Traps : Prop :=
  (∀ (s : State) (c : Cause) (addr : DWord) (core slot l : Nat) (team : Team), s.cur = .lane core slot l →
      s.team core slot = some team →
      let pc := s.ag.hints.first.getD s.ag.pc
      let t := s.takeTrap c addr
      let low := fun (k : Cause) (x : DWord) => if k = .swTrap then x else x &&& 0x00FFFFFFFFFFFFFF#64
      let q := s.netClear.modAg fun a => { a with netGot := [], netUsed := 0, mates := [], parts := none }
      let saved := q.modAg fun a => { a with trapCause := c.code, trapPc := pc, trapAddr := low c addr, hints := {} }
      let keeps := s.ag.Wrote t.ag [] [] ∧ t.ag.link = s.ag.link ∧ t.ag.eseqLast = s.ag.eseqLast ∧
        t.ag.hints = {} ∧ t.ag.trapPc = pc
      let joined := fun (x : Team) => ∃ e ∈ x.lanes, e.2.domain.isSome = true
      let stops := fun (r : State) (cause : Cause) (at_ : DWord) => keeps ∧ t.ag.status = .stopped ∧
        (∀ x, r.team core slot = some x → (joined x → t.ag.domain = none) ∧
          (¬joined x → t.mem = r.mem ∧ t.ag.domain = s.ag.domain)) ∧
        t.ag.handler = s.ag.handler ∧ t.ag.trapCause = cause.code ∧ t.ag.trapAddr = low cause at_ ∧
        ((r.team core slot).isSome → ((t.team core slot).map Team.held) = some true) ∧
        ∃ e : EventRec, (t.core core).eq ++ (t.core core).eqHeld = (r.core core).eq ++ (r.core core).eqHeld ++ [e] ∧
          e.kind = 1 ∧ e.slot = slot ∧ e.lane = some l ∧ e.status = bits cause.code 0 16 ∧ e.addr = pc
      (s.ag.handler = true → stops s c addr) ∧
      (s.ag.handler = false → ∀ x, s.myLaunch = some x →
        (x.record.dtlen = 0 → stops s c addr) ∧
        (x.record.dtlen ≠ 0 →
          (∀ r e, saved.readEntry x 0 = .ok r e →
            (e ≠ 0#64 → bits e 0 2 = 0#2 → bits e 56 8 = 0#8 → keeps ∧ t = { r with ag := t.ag } ∧ t.ag.handler = true ∧
              t.ag.domain = s.ag.domain ∧ t.ag.pc = e ∧ t.ag.status = .ready ∧ t.ag.trapCause = c.code ∧ t.ag.trapAddr = low c addr) ∧
            (e = 0#64 ∨ bits e 0 2 ≠ 0#2 ∨ bits e 56 8 ≠ 0#8 → stops r c addr)) ∧
          (∀ c' x', saved.readEntry x 0 = .trap c' x' → c' ≠ .swTrap → stops s c' (BitVec.ofNat 64 x.record.dtab)) ∧
          (∀ v p, saved.readEntry x 0 = .bad v p → stops s .memErr (BitVec.ofNat 64 x.record.dtab)) ∧
          (∀ r, saved.readEntry x 0 = .peer r → keeps ∧ t.ag.handler = false ∧ t.ag.status = .parked .peer ∧
            t.ag.pendTrap = some { cause := c, pc := pc, addr := addr }) ∧
          (∀ r w, saved.readEntry x 0 = .page r w → keeps ∧ t.ag.handler = false ∧ t.ag.domain = s.ag.domain ∧
            t.ag.trapCause = c.code ∧ t.ag.trapAddr = low c addr ∧ t.ag.pc = s.ag.pc ∧
            t.ag.status = .parked (.entry0 w { cause := c, pc := pc, addr := addr }) ∧
            (w.asid, w.page) ∈ t.cmd.faultsOut)))) ∧
  (∀ (s : State) (c : Cause) (addr : DWord) (core n l : Nat),
      let t := s.takeTrap c addr
      (∀ x : Tadpole, s.cur = .tad core n l → (s.core core).tads.find? n = some x →
        t.ag.status = .stopped ∧ t.mem = s.mem ∧
        (x.trapped = true → t.agenda = s.agenda ∧ (t.core core) = (s.core core)) ∧
        (x.trapped = false → (t.core core).tads.find? n = some { x with trapped := true } ∧ .tadEnd core n ∈ t.agenda ∧
        ∃ e : EventRec, (t.core core).eq ++ (t.core core).eqHeld = (s.core core).eq ++ (s.core core).eqHeld ++ [e] ∧
          e.kind = 8 ∧ e.slot = x.slot ∧ e.lane = some x.lane ∧ e.src = 4 ∧ e.bar = none ∧ e.status = bits c.code 0 16 ∧
          e.addr = s.ag.hints.first.getD s.ag.pc)) ∧
      (∀ x : Tadpole, (s.core core).tads.find? n = some x → x.trapped = true →
        ((s.endTad core n).core core).tads.find? n = none ∧ (s.endTad core n).mem = s.mem) ∧
      (∀ x : KeeperCtx, s.cur = .keeper core n → (s.core core).contexts.find? n = some x →
        t.cur = .none ∧ (t.core core).contexts.find? n = none)) ∧
  (∀ (s : State) (n : BitVec 8),
      (s.Does (.trap n) {} [] fun t => t = s.takeTrap .swTrap (n ++ bits (s.ag.pc + 4#64) 0 56)) ∧
      (s.kind = .team → s.ag.handler = true → s.Does .eret {} [] fun t => t = { s with ag := t.ag } ∧
        s.ag.Wrote t.ag [] [] ∧ Agent.SameSpecial { s.ag with handler := false } t.ag ∧ t.ag.hints = {} ∧
        t.ag.pc = s.ag.trapPc) ∧
      (s.kind = .team → s.ag.handler = false → s.Does .eret {} [] fun t => t = s.takeTrap .illegal 0xFA000030#64) ∧
      ∀ core slot l team, s.cur = .lane core slot l → s.team core slot = some team → s.Does .brk {} [] fun t =>
        (if team.lanes.any (fun e => e.2.domain.isSome) then
          s.ag.Wrote t.ag [] [] ∧ Agent.SameSpecial { s.ag with domain := none } t.ag ∧ t.ag.pc = s.ag.pc + 4#64 ∧
            t.ag.hints = {} ∧ (t.team core slot).map Team.held = some true
        else s.GoesOn t [] [] ∧ t.team core slot = some { team with held := true }) ∧
        ∃ e : EventRec, (t.core core).eq ++ (t.core core).eqHeld = (s.core core).eq ++ (s.core core).eqHeld ++ [e] ∧
          e.kind = 2 ∧ e.slot = slot ∧ e.lane = some l ∧ e.status = 0#16 ∧ e.addr = s.ag.pc)

/-- R366, R367: MFS of each system register writes its value: in a lane, the lane's places, the team's, the launch's, the
trap registers, LINK, ESEQ and CYCLES; in a tadpole and in a keeper context, theirs, and 0 where the table gives 0; a
read of ESEQ.CE or ESEQ.ME also raises the core's pts. MTS writes LINK, and in a lane TRAPPC, bits 1:0 and 63:56 cleared.
A register the table refuses raises ILLEGAL. -/
def Obligations.SystemRegisters : Prop :=
  ∀ (s : State) (d : BitVec 8),
    let word := fun (n : BitVec 12) (x : Word) => s.Gives (.mfs d n) {} [vn d] [(vn d, x)] []
    let wide := fun (n : BitVec 12) (x : DWord) => s.Gives (.mfs d n) {} [vn d + 1] (pairOf (vn d) x) []
    let num := fun (n : Nat) => BitVec.ofNat 32 n
    let dnum := fun (n : Nat) => BitVec.ofNat 64 n
    let k := s.core s.coreNo
    let code := fun (x : DWord) => x &&& 0x00FFFFFFFFFFFFFC#64
    let observed := fun (n : BitVec 12) (x : Word) (ts : DWord) => s.Does (.mfs d n) {} [vn d] fun t =>
      s.GoesOn t [(vn d, x)] [] ∧ (t.core s.coreNo).pts = (if k.pts.toNat < ts.toNat then ts else k.pts)
    word 0x009#12 (num (s.coreNo % 160)) ∧ word 0x00A#12 (num (dieOfCore s.coreNo)) ∧ wide 0x010#12 (dnum s.cclk) ∧
    wide 0x032#12 s.ag.link ∧ observed 0x040#12 k.eseqCe k.ceTs ∧ observed 0x041#12 k.eseqMe k.meTs ∧
    (s.Does (.mts d 0x032#12) {} [vn d + 1] fun t => t = { s with ag := t.ag } ∧
      s.Goes t (s.ag.pc + 4#64) (code (s.pair (vn d))) [] []) ∧
    (∀ core slot l t x, s.cur = .lane core slot l → s.team core slot = some t → s.launch t.launch = some x →
      let sx := x.record.teamX
      let sy := x.record.teamY
      word 0x000#12 (num l) ∧ word 0x001#12 (num (l / 8)) ∧
      word 0x002#12 (num (l % sx + 2 ^ 10 * (l / sx % sy) + 2 ^ 20 * (l / (sx * sy)))) ∧
      word 0x003#12 (num t.x) ∧ word 0x004#12 (num t.y) ∧ word 0x005#12 (num t.z) ∧
      word 0x006#12 (num (t.ci + x.record.clusX * t.cj)) ∧ word 0x007#12 (num (slot % 64)) ∧
      word 0x008#12 (num (k.tagOf t.launch)) ∧ word 0x00B#12 (num t.nlanes) ∧ word 0x020#12 s.ag.trapCause ∧
      wide 0x021#12 s.ag.trapPc ∧ wide 0x022#12 s.ag.trapAddr ∧
      word 0x023#12 (num ((if s.ag.handler then 2 else 0) + if t.ftz then 1 else 0)) ∧
      word 0x030#12 (num x.record.dtlen) ∧ wide 0x031#12 (dnum x.record.dtab) ∧ word 0x042#12 s.ag.eseqLast ∧
      s.Does (.mts d 0x021#12) {} [vn d + 1] fun u => u = { s with ag := u.ag } ∧ s.ag.Wrote u.ag [] [] ∧
        Agent.SameSpecial { s.ag with trapPc := code (s.pair (vn d)) } u.ag ∧ u.ag.pc = s.ag.pc + 4#64 ∧ u.ag.hints = {}) ∧
    (∀ core slot l, s.cur = .tad core slot l → word 0x000#12 (num l) ∧ word 0x001#12 (num slot) ∧ word 0x00B#12 8#32 ∧
      word 0x002#12 0#32 ∧ word 0x020#12 0#32 ∧ wide 0x021#12 0#64 ∧ wide 0x022#12 0#64 ∧ word 0x042#12 0#32) ∧
    (s.kind = .keeper → (∀ n ∈ [0x000#12, 0x001#12, 0x002#12, 0x003#12, 0x004#12, 0x005#12, 0x006#12, 0x007#12, 0x00B#12,
        0x020#12, 0x042#12], word n 0#32) ∧ wide 0x021#12 0#64 ∧ wide 0x022#12 0#64 ∧
      word 0x050#12 (num s.available.length)) ∧
    (s.cur ≠ .none → ∀ n, (sysReg n = none ∨ s.kind ≠ .keeper ∧ n = 0x050#12 →
        exec (.mfs d n) s = .next (s.takeTrap .illegal ((encode (.mfs d n)).setWidth 64))) ∧
      (n ≠ 0x032#12 → ¬ (s.kind = .team ∧ n = 0x021#12) →
        exec (.mts d n) s = .next (s.takeTrap .illegal ((encode (.mts d n)).setWidth 64))))

/-! ### Barriers and basins -/

/-- R187, R188, R193: a barrier handle is valid where its reserved bits are zero and it names, by cluster position and
index, an allocated entry of the same generation that belongs to the thread's launch and, on another core, to its
cluster, its place resolved in the user's own cluster (the model's reading, log entry 31); a basin handle likewise names an
entry of the thread's own core, and is never valid in a keeper core. Advancing PSEL changes bits 19:17 alone, by 1
modulo 8. A word on a handle that is not valid raises BARHANDLE with the handle. R193, R330: BSNNEW of N takes the
lowest free basin entry of the core and the N lowest free barriers, EXPECT 1 and one reference each; with none free it
writes 0xFFFF_FFFF, and an N outside 1 to 32 raises BARCOUNT, in a keeper core too, before its false answer (the model's
reading, log entry 44). BSNPOST reserves the slot at WP where the ring has room,
BSNFILL answers with the slot at RP once its barrier has closed the phase and parks before that, BSNREL releases a
filled slot, BSNFREE frees the basin. -/
def Obligations.HandlesAndBasins : Prop :=
  (∀ (s : State) (h : Word),
      (∀ c e, s.validBarrier h = some (c, e) ↔ ∃ gen psel pos, gen < 2 ^ 11 ∧ psel < 8 ∧ pos < 16 ∧ e < 1024 ∧
        h.toNat = gen * 2 ^ 20 + psel * 2 ^ 17 + pos * 2 ^ 12 + e ∧ s.coreAt pos = some c ∧
        (s.barrier c e).allocated = true ∧ (s.barrier c e).gen.toNat = gen ∧ s.myLaunchNo = some (s.barrier c e).launch ∧
        (c = s.coreNo ∨ (s.barrier c e).cluster = s.who.cluster)) ∧
      (∀ t l, s.myTeam = some t → s.myLaunch = some l → ∀ pos c,
        let x := l.record.clusX
        let y := l.record.clusY
        s.coreAt pos = some c ↔ if x * y ≤ 1 then pos = 0 ∧ c = s.coreNo
          else pos < x * y ∧ c = t.origin + pos % x + 16 * (pos / x)) ∧
      (∀ e, s.validBasin h = some e ↔ ∃ gen, gen < 2 ^ 11 ∧ e < 64 ∧ h.toNat = gen * 2 ^ 20 + e ∧ s.kind ≠ .keeper ∧
        let b := (s.core s.coreNo).basin e
        b.allocated = true ∧ b.gen.toNat = gen ∧ s.myLaunchNo = some b.launch) ∧
      (∀ i, (advancePsel h).getLsbD i = if 17 ≤ i ∧ i < 20 then (bits h 17 3 + 1#3).getLsbD (i - 17) else h.getLsbD i) ∧
      ∀ (d a : BitVec 8) (e : BitVec 7) (n : BitVec 4) (p : BitVec 3), s.v (vn a) = h →
        (s.validBarrier h = none → s.kind ≠ .tad →
          ∀ w ∈ [(Instr.bref a, [vn a]), (.bfree a, [vn a]), (.barr a n, [vn a]), (.barrReg d a, [vn d, vn a]),
            (.bexp d a, [vn d, vn a]), (.bwait a p, [vn a]), (.btest d a p, [vn d, vn a])],
          s.Does w.1 {} w.2 fun t => t = s.takeTrap .barHandle (h.setWidth 64)) ∧
        (s.validBasin h = none → s.kind ≠ .tad →
          ∀ w ∈ [(Instr.bsnpost e a p, [pn e + 1, vn a]), (.bsnfill d a p, [vn d, vn a]), (.bsnrel a p, [vn a]),
            (.bsnfree a, [vn a])],
          s.Does w.1 {} w.2 fun t => t = s.takeTrap .barHandle (h.setWidth 64))) ∧
  (∀ (s : State) (d a : BitVec 8) (x : BitVec 7) (p : BitVec 3),
      let c := s.coreNo
      let free := (s.core c).freeEntries 1024
      let n := (s.v (vn a)).toNat
      let bsnnew := fun P => s.Does (.bsnnew d a p) {} [vn d, vn a] P
      (s.kind ≠ .tad → n < 1 ∨ 32 < n → bsnnew fun t => t = s.takeTrap .barCount 0#64) ∧
      (s.kind ≠ .tad → 1 ≤ n → n ≤ 32 → s.kind = .keeper ∨ free.length < n ∨ (∀ e < 64, ((s.core c).basin e).allocated = true) →
        s.Gives (.bsnnew d a p) {} [vn d, vn a] [(vn d, 0xFFFFFFFF#32)] [(p, false)]) ∧
      (s.kind = .team → 1 ≤ n → n ≤ 32 → n ≤ free.length → ∀ e < 64, ((s.core c).basin e).allocated = false →
        (∀ e' < e, ((s.core c).basin e').allocated = true) → bsnnew fun t =>
          let gen := ((s.core c).basin e).gen
          s.GoesOn t [(vn d, BitVec.ofNat 32 (gen.toNat * 2 ^ 20 + e))] [(p, true)] ∧
          (t.core c).basin e = { allocated := true, launch := s.myLaunchNo.getD 0, slots := free.take n, gen := gen } ∧
          ∀ k, t.barrier c k = if k ∈ free.take n then
            { allocated := true, launch := s.myLaunchNo.getD 0, cluster := s.who.cluster, expect := 1, refs := 1,
              gen := (s.barrier c k).gen }
            else s.barrier c k) ∧
      ∀ e, s.validBasin (s.v (vn a)) = some e → s.kind = .team →
        let b := (s.core c).basin e
        let size := b.slots.length
        let slot := b.wp.toNat % size
        let w := b.slots.getD slot 0
        let rp := b.rp.toNat % size
        let r := b.slots.getD rp 0
        let bar := s.barrier c r
        let filled := bar.phases.toNat % 8 ≠ b.rp.toNat / size % 8
        let gone := fun (P : State → Prop) (t : State) => s.GoesOn t [] [(p, true)] ∧ P t
        (s.netBusy = true → ∀ y ∈ [(Instr.bsnpost x a p, [pn x + 1, vn a]), (.bsnrel a p, [vn a])],
          s.Does y.1 {} y.2 fun t => t.ag.status = .parked .peer ∧ t.ag.pc = s.ag.pc) ∧
        (s.netBusy = false →
          ((b.wp - b.rp).toNat < size → s.Does (.bsnpost x a p) {} [pn x + 1, vn a] fun t =>
            s.GoesOn t [(pn x + 1, BitVec.ofNat 32 ((s.barrier c w).gen.toNat * 2 ^ 20 + b.wp.toNat / size % 8 * 2 ^ 17
                + s.clusterPos * 2 ^ 12 + w)), (pn x, BitVec.ofNat 32 slot)] [(p, true)] ∧
              (t.core c).basin e = { b with wp := b.wp + 1#32 }) ∧
          (size ≤ (b.wp - b.rp).toNat → s.Does (.bsnpost x a p) {} [pn x + 1, vn a] fun t =>
            s.GoesOn t [] [(p, false)] ∧ (t.core c).basin e = b) ∧
          (filled → s.Does (.bsnrel a p) {} [vn a] (gone fun t => (t.core c).basin e = { b with rp := b.rp + 1#32 })) ∧
          (¬ filled → s.Does (.bsnrel a p) {} [vn a] fun t => s.GoesOn t [] [(p, false)] ∧ (t.core c).basin e = b)) ∧
        (bar.err = true → s.Gives (.bsnfill d a p) {} [vn d, vn a] [] [(p, false)]) ∧
        (bar.err = false → filled → s.Does (.bsnfill d a p) {} [vn d, vn a] fun t =>
          s.GoesOn t [(vn d, BitVec.ofNat 32 rp)] [(p, true)] ∧ bar.closeTs.toNat ≤ (t.core c).pts.toNat) ∧
        (bar.err = false → ¬ filled → s.Does (.bsnfill d a p) {} [vn d, vn a] fun t => t.mem = s.mem ∧
          s.ag.Wrote t.ag [] [] ∧ t.ag.pc = s.ag.pc + 4#64 ∧ t.ag.status = .parked (.basin c e (vn d) p)) ∧
        s.Does (.bsnfree a) {} [vn a] fun t => s.GoesOn t [] [] ∧ (t.core c).basin e = { gen := b.gen + 1#11 })

/-- R190: a post on an entry of a pool. In error, nothing happens. Past EXPECT, or with BALANCE out of range, the entry is
in error and every lane that waits on it goes on with a false predicate, its handle as it was. When ARRIVED reaches
EXPECT with BALANCE 0 or more, CLOSETS takes the largest timestamp, PHASES rises and ARRIVED, BALANCE and MAXTS become
0, and every lane that waits for the closing phase goes on with a true predicate, its handle's PSEL advanced, or in
BSNFILL with the slot, and pts at least CLOSETS. Otherwise the counts alone change. R189 to R192, R329 to R331: BALLOC
takes the lowest free entry with EXPECT n, one reference and every other field at its start, or writes 0xFFFF_FFFF;
BREF and BFREE count references, and at none the entry is freed, its generation incremented and its waiters released
with false; BARR posts after the lane's earlier accesses with the core's pts, BEXP announces bytes; BWAIT and BTEST
answer by the phase the handle selects; TBAR and CBAR park the lane. Counts out of range raise BARCOUNT, that of a BALLOC in a keeper core too, before its answer that none is free (the
model's reading, log entry 44). Where BTEST's
D and A name one register it ends with the handle (log entry 33). -/
def Obligations.Barriers : Prop :=
  (∀ (s : State) (c e arrivals : Nat) (bytes announced : Nat) (ts : DWord),
      let b := s.barrier c e
      let t := s.post c e arrivals bytes announced ts
      let balance := b.balance + bytes - announced
      let most := if b.maxTs.toNat < ts.toNat then ts else b.maxTs
      let close := if b.closeTs.toNat < most.toNat then most else b.closeTs
      let tooFar := b.expect < b.arrived + arrivals ∨ balance > 0xFFFFFFFF ∨ balance < -0xFFFFFFFF
      let closes := b.arrived + arrivals = b.expect ∧ 0 ≤ balance
      let waits := fun (r : AgentRef) (a : Agent) (phase : Option Nat) => (∃ n slot l, r = .lane n slot l) ∧
        s.agentAt r = some a ∧ ∃ psel : Nat, (phase.isSome → phase = some psel) ∧
          ((∃ k reg p, a.status = .parked (.barrier c e k reg p) ∧ k.toNat = psel) ∨
            ∃ x dest p, a.status = .parked (.basin c x dest p) ∧ ((s.core c).basin x).allocated = true ∧
              ∃ slot, ((s.core c).basin x).readSlot = (slot, psel, e))
      let falsely := ∀ r a, waits r a none → ∃ a', t.agentAt r = some a' ∧ a'.status = .ready ∧ ∃ p, a.Wrote a' [] [(p, false)] ∧
        ((∃ k reg, a.status = .parked (.barrier c e k reg p)) ∨ ∃ x dest, a.status = .parked (.basin c x dest p))
      let others := fun (phase : Option Nat) => ∀ r, (∀ a, ¬ waits r a phase) → t.agentAt r = s.agentAt r
      let truly := ∀ r a, waits r a (some (b.phases.toNat % 8)) → ∃ a', t.agentAt r = some a' ∧ a'.status = .ready ∧
        close.toNat ≤ (t.core (coreOfRef r)).pts.toNat ∧
        ((∃ k reg p, a.status = .parked (.barrier c e k reg p) ∧ a.Wrote a' [(reg, advancePsel (a.reg reg))] [(p, true)]) ∨
          ∃ x dest p, a.status = .parked (.basin c x dest p) ∧
            a.Wrote a' [(dest, BitVec.ofNat 32 ((s.core c).basin x).readSlot.1)] [(p, true)])
      (∀ c' e', (c', e') ≠ (c, e) → t.barrier c' e' = s.barrier c' e') ∧ t.mem = s.mem ∧ t.ag = s.ag ∧
        (b.err = true → t = s) ∧
        (b.err = false → tooFar → t.barrier c e = { b with err := true } ∧ falsely ∧ others none) ∧
        (b.err = false → ¬ tooFar → closes → t.barrier c e = { b with
          closeTs := close, phases := b.phases + 1#32, arrived := 0, balance := 0, maxTs := 0#64 } ∧ truly ∧
          others (some (b.phases.toNat % 8))) ∧
        (b.err = false → ¬ tooFar → ¬ closes → t.barrier c e = { b with
          arrived := b.arrived + arrivals, balance := balance, maxTs := most } ∧ ∀ r, t.agentAt r = s.agentAt r)) ∧
  (∀ (s : State) (d a : BitVec 8) (p : BitVec 3) (i : BitVec 9) (m : BitVec 4),
      let n := (match s.ag.hints.imm20 with
        | none => i.toInt
        | some h => (h ++ i).toInt)
      let free := fun (e : Nat) => e < 1024 ∧ (s.barrier s.coreNo e).allocated = false
      let others := fun (t : State) (c e : Nat) => ∀ c' e', (c', e') ≠ (c, e) → t.barrier c' e' = s.barrier c' e'
      let balloc := fun P => s.Does (.balloc d p i) withImm [vn d] P
      (s.kind ≠ .tad → n < 1 ∨ 65535 < n → balloc fun t => t = s.takeTrap .barCount 0#64) ∧
      (s.kind ≠ .tad → 1 ≤ n → n ≤ 65535 → s.kind = .keeper ∨ (∀ e, ¬ free e) →
        s.Gives (.balloc d p i) withImm [vn d] [(vn d, 0xFFFFFFFF#32)] [(p, false)]) ∧
      (s.kind = .team → 1 ≤ n → n ≤ 65535 → ∀ e, free e → (∀ e' < e, ¬ free e') → balloc fun t =>
        let gen := (s.barrier s.coreNo e).gen
        s.GoesOn t [(vn d, BitVec.ofNat 32 (gen.toNat * 2 ^ 20 + s.clusterPos * 2 ^ 12 + e))] [(p, true)] ∧
          t.barrier s.coreNo e = { allocated := true, launch := s.myLaunchNo.getD 0, cluster := s.who.cluster,
                                     expect := n.toNat, refs := 1, gen := gen } ∧
          others t s.coreNo e) ∧
      (∀ c e, s.validBarrier (s.v (vn a)) = some (c, e) →
        let b := s.barrier c e
        let h := s.v (vn a)
        let closed := b.phases.toNat % 8 ≠ (bits h 17 3).toNat
        let saw := fun (t : State) => (t.core s.coreNo).pts =
          if (s.core s.coreNo).pts.toNat < b.closeTs.toNat then b.closeTs else (s.core s.coreNo).pts
        let barr := fun (i : Instr) (regs : List Nat) (n : Nat) =>
          (n < 1 ∨ 65535 < n → s.Does i {} regs fun t => t = s.takeTrap .barCount 0#64) ∧
          (1 ≤ n → n ≤ 65535 → s.netBusy = true → s.Does i {} regs s.WaitsPeer) ∧
          (1 ≤ n → n ≤ 65535 → s.netBusy = false → s.Does i {} regs fun t =>
            t = { s.drain.post c e n 0 0 (s.drain.core s.coreNo).pts with ag := t.ag } ∧ s.GoesOn t [] [])
        (s.kind ≠ .tad → 65535 ≤ b.refs → s.Does (.bref a) {} [vn a] fun t => t = s.takeTrap .barCount 0#64) ∧
        (s.kind ≠ .tad → b.refs < 65535 → s.Does (.bref a) {} [vn a] fun t => s.GoesOn t [] [] ∧
          t.barrier c e = { b with refs := b.refs + 1 } ∧ others t c e) ∧
        (s.kind ≠ .tad → 1 < b.refs → s.Does (.bfree a) {} [vn a] fun t => s.GoesOn t [] [] ∧
          t.barrier c e = { b with refs := b.refs - 1 } ∧ others t c e) ∧
        (s.kind ≠ .tad → b.refs = 1 → s.Does (.bfree a) {} [vn a] fun t => s.GoesOn t [] [] ∧
          t.barrier c e = { gen := b.gen + 1#11 } ∧ others t c e ∧
          ∀ n slot l x k reg q, s.agentAt (.lane n slot l) = some x → x.status = .parked (.barrier c e k reg q) →
            ∃ y, t.agentAt (.lane n slot l) = some y ∧ y.status = .ready ∧ x.Wrote y [] [(q, false)]) ∧
        barr (.barr a m) [vn a] (m.toNat + 1) ∧ barr (.barrReg d a) [vn d, vn a] (s.v (vn d)).toNat ∧
        (s.Does (.bexp d a) {} [vn d, vn a] fun t =>
          t = { s.post c e 0 0 (s.v (vn d)).toNat 0#64 with ag := t.ag } ∧ s.GoesOn t [] []) ∧
        (s.kind ≠ .tad → b.err = true → s.Gives (.bwait a p) {} [vn a] [] [(p, false)] ∧
          s.Gives (.btest d a p) {} [vn d, vn a] [(vn d, 2#32)] [(p, false)]) ∧
        (s.kind ≠ .tad → b.err = false → closed →
          s.Does (.bwait a p) {} [vn a] (fun t => s.GoesOn t [(vn a, advancePsel h)] [(p, true)] ∧ saw t) ∧
          s.Does (.btest d a p) {} [vn d, vn a] fun t =>
            s.GoesOn t [(vn a, advancePsel h), (vn d, 1#32)] [(p, true)] ∧ saw t) ∧
        (s.kind ≠ .tad → b.err = false → ¬ closed → s.Gives (.btest d a p) {} [vn d, vn a] [(vn d, 0#32)] [(p, false)] ∧
          s.Does (.bwait a p) {} [vn a] fun t => t.mem = s.mem ∧ s.ag.Wrote t.ag [] [] ∧ t.ag.pc = s.ag.pc + 4#64 ∧
            t.ag.status = .parked (.barrier c e (bits h 17 3) (vn a) p))) ∧
      (s.kind = .team → (s.Does .tbar {} [] fun t => t.mem = s.mem ∧ s.ag.Wrote t.ag [] [] ∧ t.ag.pc = s.ag.pc + 4#64 ∧
          t.ag.status = .parked .teamBarrier) ∧
        s.Does .cbar {} [] fun t => t.mem = s.mem ∧ s.ag.Wrote t.ag [] [] ∧ t.ag.pc = s.ag.pc + 4#64 ∧
          t.ag.status = .parked (if s.clusterSize.1 * s.clusterSize.2 ≤ 1 then .teamBarrier else .clusterBarrier)))

/-! ### Engines, the matrix engine, mooring -/

/-- R199, R200, R334, R337, R340 to R342, R346, R349: an issue whose checks pass and whose queue has room enqueues its
operation with the next number of its counter, which ESEQ.LAST takes and, for MMA and ACQ, register D; the predicate is
set, the barrier takes a reference, and every other register of the lane is as before. An issue that finds its queue full,
or TCPY to a basin its ring, clears the predicate and changes nothing else; a slot past the team's memory raises ACCESS
first (R335). R334: lanes of a bundle issue in ascending order, each once its earlier accesses have completed: one behind
a lane that waits, or with an access out at a peer, waits at the word, and so does an MMA while a lane whose registers it
reads has a load out or stands between the parts of an instruction (R347). The waiting is the model's reading (log
entries 53, 96). -/
def Obligations.EngineIssues : Prop :=
  (∀ (s : State) (d a : BitVec 8) (x : BitVec 7) (e : BitVec 1) (p : BitVec 3), s.kind = .team →
    s.behind = true ∨ s.netBusy = true →
    let payload := (s.ag.hints.imm20.getD 0#21).toNat
    let C := (s.ag.hints.c4.getD 0#8).toNat
    (payload < 2 ^ 18 → ∀ i ∈ [Instr.brdhLin d x e p, .brdhTen d x e p],
      s.Does i issueHints [vn d, pn x + 1, C, 4 * (payload / 4096) + 3] s.WaitsPeer) ∧
    (payload < 256 → ∀ i ∈ [Instr.tcpy d x e p, .twb d x p],
      s.Does i issueHints [vn d, pn x + 1, C, payload] s.WaitsPeer) ∧
    (∀ i ∈ [Instr.gath a p, .scat a p], s.Does i { cache := true } [vn a] s.WaitsPeer) ∧
    s.Does (.mma d a p) {} [vn d, vn a] s.WaitsPeer ∧
    s.Does (.acq d a p) { dxbd := true } [vn d, vn a] s.WaitsPeer) ∧
  ∀ (s : State) (d a : BitVec 8) (x : BitVec 7) (e : BitVec 1) (p : BitVec 3), s.kind = .team → s.netBusy = false →
    s.behind = false →
    let q := s.drain
    let payload := (s.ag.hints.imm20.getD 0#21).toNat
    let C := (s.ag.hints.c4.getD 0#8).toNat
    let at_ := (s.pair (pn x)).toNat
    let issued := fun (r t : State) (queue : Nat) (kind : OpKind) (bar : Option (Nat × Nat)) (number : List Nat)
        (own : Nat) =>
      let k := r.core r.coreNo
      let seq := (if queue = 2 then k.meIssue else k.ceIssue) + 1#32
      (∃ o ∈ (t.core r.coreNo).ops, o.seq = seq ∧ o.queue = queue ∧ o.kind = kind ∧ o.bar = bar ∧ o.slot = r.home.1 ∧
        o.lane = r.home.2) ∧ (if queue = 2 then (t.core r.coreNo).meIssue else (t.core r.coreNo).ceIssue) = seq ∧
      t.ag.eseqLast = seq ∧ r.ag.Wrote t.ag (number.map fun n => (n, seq)) [(p, true)] ∧ t.ag.pc = r.ag.pc + 4#64 ∧
      t.ag.hints = {} ∧ t.ag.link = r.ag.link ∧ t.ag.status = r.ag.status ∧
      ∀ b ∈ bar, (t.barrier b.1 b.2).refs = (r.barrier b.1 b.2).refs + own
    let outcome := fun (i : Instr) (u : HintUse) (regs : List Nat) (r : State) (queue : Nat) (kind : OpKind)
        (bar : Option (Nat × Nat)) (number : List Nat) =>
      (r.queueFull r.coreNo queue = false → s.Does i u regs fun t => issued r t queue kind bar number 1) ∧
      (r.queueFull r.coreNo queue = true → s.Does i u regs fun t => r.GoesOn t [] [(p, false)])
    -- bulk reads
    (∀ bar, q.validBarrier (s.v (vn d)) = some bar → payload < 2 ^ 18 →
      let h := payload % 4096
      let G := 4 * (payload / 4096)
      let regs := [vn d, pn x + 1, C, G + 3]
      let n := (s.v C).toNat
      let enters := fun (r u : State) (entry : DWord) => ∃ l, r.myLaunch = some l ∧ 0 < h ∧ h < l.record.dtlen ∧
        r.readEntry l h = .ok u entry ∧ entryOk entry = true
      (at_ < 2 ^ 56 → at_ % 8 = 0 → n % 8 = 0 → 8 ≤ n → n ≤ 2 ^ 31 → ∀ u entry, enters q u entry →
        outcome (.brdhLin d x e p) issueHints regs u 0
          (.bulk (.linear at_ n) entry.toNat ((List.range 4).map fun i => u.v (G + i)) (e == 1#1)) (some bar) []) ∧
      (∀ r bs u entry, at_ < 2 ^ 56 → at_ % 64 = 0 → q.readRecord at_ = .ok r bs → recordOk bs = true →
        C + (parseRecord bs).rank ≤ u.reach → enters r u entry →
        outcome (.brdhTen d x e p) issueHints regs u 0
          (.bulk (.tensor (parseRecord bs) ((List.range (parseRecord bs).rank).map fun i => (u.v (C + i)).toInt))
            entry.toNat ((List.range 4).map fun i => u.v (G + i)) (e == 1#1)) (some bar) [])) ∧
    -- tensor copies
    (∀ r bs, payload < 256 → at_ < 2 ^ 56 → at_ % 64 = 0 → (s.v payload).toNat % 128 = 0 → q.readRecord at_ = .ok r bs →
      recordOk bs = true → C + (parseRecord bs).rank ≤ r.reach →
        let regs := [vn d, pn x + 1, C, payload]
        let dest := (s.v payload).toNat
        let g := parseRecord bs
        let cs := (List.range g.rank).map fun i => (r.v (C + i)).toInt
        (∀ bar, q.validBarrier (s.v (vn d)) = some bar → dest + g.bytes ≤ r.tmemSize →
          outcome (.tcpy d x 0#1 p) issueHints regs r 0 (.tcpy g cs dest) (some bar) [] ∧
          outcome (.twb d x p) issueHints regs r 0 (.twb g cs dest) (some bar) []) ∧
        (∀ b, q.validBasin (s.v (vn d)) = some b →
          let ring := (r.core r.coreNo).basin b
          let size := ring.slots.length
          let slot := ring.wp.toNat % size
          let dst := dest + slot * ((g.bytes + 127) / 128 * 128)
          let tcpy := fun P => s.Does (.tcpy d x 1#1 p) issueHints regs P
          ((ring.wp - ring.rp).toNat < size → dst + g.bytes ≤ r.tmemSize → r.queueFull r.coreNo 0 = false →
            tcpy fun t => issued r t 0 (.tcpy g cs dst) (some (r.coreNo, ring.slots.getD slot 0)) [] 0 ∧
              (t.core r.coreNo).basin b = { ring with wp := ring.wp + 1#32 }) ∧
          (r.tmemSize < dst + g.bytes → tcpy fun t => t = s.takeTrap .access (BitVec.ofNat 64 dst)) ∧
          (dst + g.bytes ≤ r.tmemSize → (ring.wp - ring.rp).toNat ≥ size ∨ r.queueFull r.coreNo 0 = true →
            tcpy fun t => r.GoesOn t [] [(p, false)]))) ∧
    -- gather and scatter, MMA, ACQ
    (let ta := (s.v (vn a)).toNat
     (∀ bar,
        let bs := q.tmBytes ta 48
        let b := gatherBlock bs
        ta + 48 ≤ q.tmemSize → ta % 16 = 0 → q.validBarrier (BitVec.ofNat 32 (fieldAt bs 36 4)) = some bar →
        1 ≤ b.count → b.count ≤ 65536 → 4 ≤ b.rowlen → b.rowlen ≤ 4096 → fieldAt bs 40 8 = 0 →
        b.taddr + b.count * b.rowlen ≤ q.tmemSize →
        (∀ y ∈ [b.xaddr, b.gbase, b.taddr, b.stride, b.rowlen], y % 4 = 0) →
          outcome (.gath a p) { cache := true } [vn a] q 1 (.gath b) (some bar) [] ∧
          outcome (.scat a p) { cache := true } [vn a] q 1 (.scat b) (some bar) []) ∧
     ∀ bar : Option (Nat × Nat),
        let barrier := fun (h : Word) => if h = 0xFFFFFFFF#32 then bar = none else bar ≠ none ∧ q.validBarrier h = bar
        (let bs := q.tmBytes ta 64
         ta + 64 ≤ q.tmemSize → ta % 64 = 0 → barrier (BitVec.ofNat 32 (fieldAt bs 12 4)) → fieldAt bs 8 1 < q.grant →
         mmaOk bs ((q.myTeam.map Team.groups).getD 0) q.reach = true →
          let b := mmaBlock bs
          (q.queueFull q.coreNo 2 = true ∨ q.operandOut b = false ∧ q.operandMid b = false →
            outcome (.mma d a p) {} [vn d, vn a] q 2 (.mma b (vn d, s.v (vn d)) none) bar [vn d]) ∧
          (q.queueFull q.coreNo 2 = false → q.operandOut b = true → s.Does (.mma d a p) {} [vn d, vn a] q.WaitsPeer) ∧
          (q.queueFull q.coreNo 2 = false → q.operandOut b = false → q.operandMid b = true →
            s.Does (.mma d a p) {} [vn d, vn a] fun t => q.ag.Wrote t.ag [] [] ∧ t.ag.pc = q.ag.pc ∧
              t.ag.hints = q.ag.hints ∧ t.ag.status = .parked (.mid (encode (.mma d a p))) ∧ (t.core q.coreNo).ops =
                (q.core q.coreNo).ops)) ∧
        (let bs := q.tmBytes ta 32
         let b := acqBlock bs (s.ag.hints.dxbd.getD 6#4).toNat
         ta + 32 ≤ q.tmemSize → ta % 32 = 0 → barrier (BitVec.ofNat 32 (fieldAt bs 16 4)) → fieldAt bs 3 1 < q.grant →
         acqOk bs = true → b.codes + b.nrows * b.rowBytes ≤ q.tmemSize → b.scales + 2 * b.nrows * b.nb ≤ q.tmemSize →
         (∀ y ∈ b.satAddr, y + 4 ≤ q.tmemSize ∧ y % 4 = 0) → b.codes % 16 = 0 → b.scales % 2 = 0 →
          outcome (.acq d a p) { dxbd := true } [vn d, vn a] q 2 (.acq b) bar [vn d]))

/-- R184, R348: the words that act on a tile at once. ACLD writes consecutive words of a row from registers, ACST reads
them into registers, ACZ makes every word 0 and clears the flags, ACFLG reads the flags; no other tile changes. A tile
beyond the grant raises ACSTILE, columns past 64 raise ENGARG, and while an earlier operation of the team on the tile
is left the lane waits at the word, as the scoreboard of log entry 74 has it. R216, R217, R262 to R265, R347, R350: the matrix engine reads the operand
registers of the 64 lanes of each group set, a lane that does not exist as zeros, and reads those that D overlaps as they
were before the issue (the model's reading, log entry 53); in its turn on its tile an MMA takes
every accumulator through its step and collects the flags, an ACQ writes the codes and scales of its blocks, quantised
as R259 has it, and the count of the saturated; each then completes, with one arrival and its bytes at its barrier. R262
to R264: the chunk sum of plus-times is NaN, an infinity, or the exact sum of the products, BF16 and FP16 products each
truncated to 2^-40 of the largest, a zero sum +0; an accumulator takes it with one rounding to nearest, or clamped, and
sets INF, SAT and NAN as the table has it; min-plus and max-times keep the minimum or maximum; or-and counts ones. -/
def Obligations.MatrixEngine : Prop :=
  (∀ (s : State) (core slot l : Nat) (team : Team) (d a : BitVec 8) (c : BitVec 4), s.cur = .lane core slot l →
      s.team core slot = some team →
      let n := c.toNat + 1
      let place := (s.v (vn a)).toNat
      let tile := place % 64
      let row := place / 64 % 64
      let col := place / 4096 % 64
      let grant := (team.nlanes + 63) / 64
      let busy := ∃ o ∈ (s.core core).ops, o.slot = slot ∧ o.kind.tile? = some tile
      let words := [(Instr.acld d a c, [vn d + n - 1, vn a]), (.acst d a c, [vn d + n - 1, vn a])]
      let others := [(Instr.acz a, [vn a]), (.acflg d a, [vn d, vn a])]
      (∀ w ∈ words ++ others, grant ≤ tile → s.Does w.1 {} w.2 fun t => t = s.takeTrap .acsTile 0#64) ∧
      (∀ w ∈ words, tile < grant → 64 < col + n → s.Does w.1 {} w.2 fun t => t = s.takeTrap .engArg 0#64) ∧
      (∀ w ∈ words ++ others, tile < grant → w ∈ others ∨ col + n ≤ 64 → busy → s.Does w.1 {} w.2 fun t =>
        t.mem = s.mem ∧ s.ag.Wrote t.ag [] [] ∧ t.ag.status = .parked .peer ∧ t.ag.pc = s.ag.pc) ∧
      (tile < grant → ¬ busy →
        (col + n ≤ 64 →
          s.Gives (.acst d a c) {} [vn d + n - 1, vn a]
            ((List.range n).map fun k => (vn d + k, team.acsWord tile row (col + k))) [] ∧
          s.Does (.acld d a c) {} [vn d + n - 1, vn a] fun t => s.GoesOn t [] [] ∧ ∃ u, t.team core slot = some u ∧
            u = { team with acs := u.acs } ∧ ∀ x i j, i < 64 → j < 64 → u.acsWord x i j =
              if x = tile ∧ i = row ∧ col ≤ j ∧ j < col + n then s.v (vn d + (j - col)) else team.acsWord x i j) ∧
        (s.Does (.acz a) {} [vn a] fun t => s.GoesOn t [] [] ∧ ∃ u, t.team core slot = some u ∧
          u = { team with acs := u.acs, acsFlags := u.acsFlags } ∧
          (∀ x i j, i < 64 → j < 64 → u.acsWord x i j = if x = tile then 0#32 else team.acsWord x i j) ∧
          ∀ x, u.flags x = if x = tile then 0#3 else team.flags x) ∧
        s.Gives (.acflg d a) {} [vn d, vn a] [(vn d, (team.flags tile).setWidth 32)] [])) ∧
  (∀ (s : State) (c seq : Nat) (o : EngineOp) (team : Team),
      let q := BitVec.ofNat 32 seq
      let ends := fun (bytes : Nat) (t : State) => t.op c 2 q = none ∧ t.mem = s.mem ∧ ∀ b e, o.bar = some (b, e) →
        (o.ownRef = false ∨ 2 ≤ (s.barrier b e).refs) → (s.barrier b e).err = false →
        (s.barrier b e).arrived + 1 < (s.barrier b e).expect → (s.barrier b e).balance + bytes ≤ 0xFFFFFFFF →
        -0xFFFFFFFF ≤ (s.barrier b e).balance + bytes →
          (t.barrier b e).arrived = (s.barrier b e).arrived + 1 ∧ (t.barrier b e).balance = (s.barrier b e).balance + bytes
      s.op c 2 q = some o → s.team c o.slot = some team →
      (∀ b was, o.kind = .mma b was none → s.Answers (.mmaOperandRead c seq) fun t => t.mem = s.mem ∧
        ∃ o' ra rb, t.op c 2 q = some o' ∧ o'.kind = .mma b was (some (ra, rb)) ∧
          ∀ i < 64, ∀ k < shapeRegs b.shape,
            let value := fun (g r : Nat) => match team.lanes.find? (8 * g + i) with
              | none => 0#32
              | some a => if 8 * g + i = o.lane ∧ r + k = was.1 then was.2 else a.reg (r + k)
            (ra.getD i []).getD k 0#32 = value b.ga b.ra ∧ (rb.getD i []).getD k 0#32 = value b.gb b.rb) ∧
      (∀ b was ra rb, o.kind = .mma b was (some (ra, rb)) → o.phase = .running → s.tileTurn c o b.tile = true →
        s.Answers (.mmaComplete c seq) fun t => ends 0 t ∧ ∃ m, t.team c o.slot = some m ∧
          let step := fun (i j : Nat) => accStep b
            (if b.init then (if b.semi = 1 then 0x7F800000#32 else if b.semi = 2 then 0xFF800000#32 else 0#32)
              else team.acsWord b.tile i j) (ra.getD i []) (rb.getD j [])
          (∀ i < 64, ∀ j < 64, m.acsWord b.tile i j = (step i j).word ∧ ∀ k, k ≠ b.tile → m.acsWord k i j = team.acsWord k i j) ∧
          ∀ n, (m.flags b.tile).getLsbD n = true ↔
            ((team.flags b.tile).getLsbD n = true ∨ ∃ i < 64, ∃ j < 64, (step i j).flags.getLsbD n = true)) ∧
      (∀ b, o.kind = .acq b → o.phase = .running → s.tileTurn c o b.tile = true →
        let width := if b.dxb4 then 16 else 32
        let codes := b.nrows * (width * b.nb)
        let scales := 2 * (b.nrows * b.nb)
        let apart := fun (x n y m : Nat) => x + n ≤ y ∨ y + m ≤ x
        let value := fun (w : Word) => if b.acc = 0 then f32.unpack w.toNat
          else if b.acc = 1 then .fin (decide (w.toInt < 0)) w.toInt.natAbs 0 else bf16.unpack (w.extractLsb' 16 16).toNat
        let block := fun (i j : Nat) => quantBlock b.dxb4 b.rs b.d ((List.range 32).map fun k =>
          if 32 * j + k < b.extent then some (value (team.acsWord b.tile (b.row0 + i) (32 * j + k))) else none)
        let sat := (((List.range b.nrows).flatMap fun i => (List.range b.nb).map fun j => block i j).filter
          fun x => x.sat).length
        apart b.codes codes b.scales scales → (∀ a ∈ b.satAddr, apart a 4 b.codes codes ∧ apart a 4 b.scales scales) →
        s.Answers (.acqComplete c seq) fun t => ends (codes + scales) t ∧ ∃ m, t.team c o.slot = some m ∧
          let byte := fun (a : Nat) => NMap.get 0#8 m.tm a
          (∀ i < b.nrows, ∀ j < b.nb,
            let x := block i j
            (∀ k < width, byte (b.codes + width * (i * b.nb + j) + k) =
              BitVec.ofNat 8 (if b.dxb4 then x.codes.getD (2 * k) 0 + 16 * x.codes.getD (2 * k + 1) 0 else x.codes.getD k 0)) ∧
            byte (b.scales + 2 * (i * b.nb + j)) = BitVec.ofNat 8 x.sa ∧
            byte (b.scales + 2 * (i * b.nb + j) + 1) = BitVec.ofNat 8 x.sb) ∧
          ∀ a ∈ b.satAddr, ∀ k < 4, byte (a + k) = BitVec.ofNat 8 (sat / 256 ^ k))) ∧
  ∀ (b : MmaBlock) (acc : Word) (ra rb : List Word),
    let K := shapeK b.shape
    let p := fun k => (elemValue b.shape ra k).mul (elemValue b.shape rb k)
    let byte := fun (rs : List Word) (k : Nat) => ((rs.getD (k / 4) 0#32).extractLsb' (8 * (k % 4)) 8).toInt
    let bit := fun (rs : List Word) (k : Nat) => (rs.getD (k / 32) 0#32).getLsbD (k % 32)
    let n : Int := ((List.range K).map fun k => byte ra k * byte rb k).sum
    let ones : Int := ((List.range 256).countP fun k => bit ra k && bit rb k : Nat)
    let r := accStep b acc ra rb
    let A := f32.unpack acc.toNat
    let takesF32 := fun (S : FVal) =>
      r.word = BitVec.ofNat 32 (f32.pack .rn false (A.add .rn S)) ∧
      let v := f32.unpack r.word.toNat
      r.flags.getLsbD 1 = false ∧ (r.flags.getLsbD 2 = true ↔ v = .nan) ∧
      (r.flags.getLsbD 0 = true ↔ (v = .inf false ∨ v = .inf true) ∧ A.isFin ∧ S.isFin)
    let takesBf16 := fun (S : FVal) =>
      let R := bf16.pack .rn false ((bf16.unpack (acc.extractLsb' 16 16).toNat).add .rn S)
      (bf16.unpack R = .nan → r.word = 0x7FC00000#32 ∧ r.flags = 4#3) ∧
      (bf16.unpack R = .inf false → r.word = 0x7F7F0000#32 ∧ r.flags = 2#3) ∧
      (bf16.unpack R = .inf true → r.word = 0xFF7F0000#32 ∧ r.flags = 2#3) ∧
      (∀ i j e, bf16.unpack R = .fin i j e → r.word = BitVec.ofNat 32 (65536 * R) ∧ r.flags = 0#3)
    let takesInt := fun (S : Int) =>
      r.word = BitVec.ofInt 32 (max (-2 ^ 31) (min (2 ^ 31 - 1) (acc.toInt + S))) ∧
      r.flags = if -2 ^ 31 ≤ acc.toInt + S ∧ acc.toInt + S < 2 ^ 31 then 0#3 else 2#3
    (b.semi = 0 → b.shape = 0 ∨ b.shape = 1 ∨ b.shape = 3 ∨ b.shape = 4 → ∃ S : FVal,
      ((∃ k < K, p k = .nan) ∨ (∃ k < K, p k = .inf false) ∧ (∃ k < K, p k = .inf true) → S = .nan) ∧
      (∀ g, (∀ k < K, p k ≠ .nan ∧ p k ≠ .inf !g) → (∃ k < K, p k = .inf g) → S = .inf g) ∧
      ((∀ k < K, (p k).isFin) → S.isFin ∧ (S.exact = 0 → ∃ e, S = .fin false 0 e) ∧
        (b.shape ≤ 1 ∨ (∀ k < K, (p k).exact = 0) → S.exact = ((List.range K).map fun k => (p k).exact).sum) ∧
        (3 ≤ b.shape → ∀ e : Int, (∃ k < K, (2 : ℚ) ^ e ≤ |(p k).exact|) → (∀ k < K, |(p k).exact| < (2 : ℚ) ^ (e + 1)) →
          let unit := (2 : ℚ) ^ (e - 40)
          S.exact = ((List.range K).map fun k =>
            ((if 0 ≤ (p k).exact then ⌊(p k).exact / unit⌋ else ⌈(p k).exact / unit⌉ : Int) : ℚ) * unit).sum)) ∧
      if b.acc = 2 then takesBf16 S else takesF32 S) ∧
    (b.semi = 0 → b.shape = 2 →
      if b.acc = 1 then takesInt n else takesF32 (.fin (decide (n < 0)) n.natAbs 0)) ∧
    (b.semi = 1 ∨ b.semi = 2 →
      let x := fun k => if b.semi = 1 then (elemValue b.shape ra k).add .rn (elemValue b.shape rb k) else p k
      let t := fun k => f32.pack .rn false (x k)
      let w := (List.range K).foldl (fun w k => f32.lesser (b.semi == 2) w (t k)) acc.toNat
      r.word = BitVec.ofNat 32 w ∧ r.flags.getLsbD 1 = false ∧ (r.flags.getLsbD 2 = true ↔ f32.unpack w = .nan) ∧
      (r.flags.getLsbD 0 = true ↔ ∃ k < K, (x k).isFin ∧ (f32.unpack (t k) = .inf false ∨ f32.unpack (t k) = .inf true))) ∧
    (b.semi = 3 → takesInt ones)

/-- R69, R343, R344: where nothing comes between its slices, MOOR of a range of local memory moors every line of it until lease × 2^16 FCLK from now, or later
where it was moored for longer, and sets its predicate; where a line would be the fifth moored of its set, or where the
range meets an aperture or host memory, it moors none and clears it; UNMOOR ends the mooring of every line of the range
that lies in local memory and changes no other line. A length
outside 1 to 2^24 raises ENGARG. Memory and registers are as before. FCLK is twice CCLK (R26). -/
def Obligations.Mooring : Prop :=
  ∀ (s : State) (d : BitVec 8) (a : BitVec 7) (p : BitVec 3), s.kind = .team → s.netBusy = false →
    let at_ := s.pair (pn a)
    let n := (s.v (vn d)).toNat
    let lease := (s.ag.hints.imm20.getD 0#21).toNat
    let moor := fun P => s.Does (.moor d a p) { imm20 := true, needImm20 := true } [vn d, pn a + 1] P
    let unmoor := fun P => s.Does (.unmoor d a) {} [vn d, pn a + 1] P
    1 ≤ lease → lease < 65536 → at_.toNat < 2 ^ 56 →
    (n < 1 ∨ 2 ^ 24 < n → moor (fun t => t = s.takeTrap .engArg 0#64) ∧ unmoor fun t => t = s.takeTrap .engArg 0#64) ∧
    ∀ r ps, 1 ≤ n → n ≤ 2 ^ 24 → at_.toNat + n ≤ 2 ^ 56 →
      s.drain.pieces s.drain.who.asid .rd (n / 32 + 2) at_.toNat n = (r, .inr ps) →
      (∀ p ∈ ps, p.cls ≠ 3) → s.moors = [] → r.moors = [] → r.agenda = [] →
      ((∀ p ∈ ps, paRange p.pa ≠ .registers ∧ paRange p.pa ≠ .unassigned) → (∃ p ∈ ps, paRange p.pa ≠ .local_) →
        moor fun t => r.GoesOn t [] [(p, false)]) ∧
      ((∀ p ∈ ps, paRange p.pa ≠ .registers ∧ paRange p.pa ≠ .unassigned) →
        let names := fun (line : Nat) => ∃ p ∈ ps, paRange p.pa = .local_ ∧ p.pa / 128 = line
        unmoor fun t => r.GoesOn t [] [] ∧ (∀ line, names line → (t.l2Line line).moor = none) ∧
          ∀ line, ¬names line → t.l2Line line = r.l2Line line) ∧
      ((∀ p ∈ ps, paRange p.pa = .local_) →
        let names := fun (line : Nat) => ∃ p ∈ ps, p.pa / 128 = line
        let moored := fun (line : Nat) => (((NMap.get [] r.l2 (l2Key line)).filter fun (x : L2Line) =>
          x.moor.isSome).map fun (x : L2Line) => x.line) ++ ps.map fun p => p.pa / 128
        let ways := fun (line : Nat) => (((moored line).filter fun x => l2Key x = l2Key line).dedup).length
        ((∃ line, names line ∧ 4 < ways line) → moor fun t => r.GoesOn t [] [(p, false)] ∧ t.l2 = r.l2) ∧
        ((∀ line, names line → ways line ≤ 4) → moor fun t => r.GoesOn t [] [(p, true)] ∧
          ∀ line, names line → ∃ end_ by_, (t.l2Line line).moor = some (end_, by_) ∧
            end_ = max (r.cclk + lease * 2 ^ 15) (((r.l2Line line).moor.map Prod.fst).getD 0)))

/-! ### Work lists and the end of a tadpole -/

/-- R157 to R161, R351 to R353: the work-list words on descriptors that pass their checks. WOPEN makes the lane a
participant and PARTS rises by 1, or clears its predicate where the domain is quiescent; WAPP reserves position TAIL
for the 16 bytes of its registers, or counts a refusal where the list is full or its domain quiescent; WTAKE answers
with the item at HEAD, with 1 where the domain is quiescent, and parks where no item there is written: none reserved, or
the one reserved not yet written. Each waits at the word behind a lane of its bundle that waits, while an access of its
lane is out at a peer, and WAPP while one of a lane at the same word is (the model's reading of R159, log entry 96). An item's place that may not be accessed
raises ACCESS and a poisoned item MEMERR (R46, R80). A DOMAIN field that names no aligned address below 2^56 breaks the
list descriptor: WLDESC with its address; otherwise both descriptors are read, and then a list descriptor that breaks
R157, or whose index its domain has not, raises WLDESC with its address, a domain descriptor that breaks R158 WLDESC with
its own (R335). The need of RD alone in WOPEN's list and of RD and WR in the others, and the break of a misaligned DOMAIN
field, are log entry 48. R159, R160: a reserved item that is written stands in the ring and lowers INFLIGHT, where no
lane waits to take it; one that lies in an aperture stays reserved while its write is out at the peer (R47; log entry 97); a WTAKE
parked for 4,096 CCLK returns empty but not quiescent. -/
def Obligations.WorkLists : Prop :=
  (∀ (s : State) (d : BitVec 6) (a : BitVec 7) (p : BitVec 3), s.kind ≠ .keeper →
      let held := s.behind = true ∨ s.netBusy = true
      (held ∨ s.matesOut = true → s.Does (.wapp d a p) {} [qn d + 3, pn a + 1] s.WaitsPeer) ∧
      (s.kind = .team → held → s.Does (.wopen a p) {} [pn a + 1] s.WaitsPeer ∧
        s.Does (.wtake d a p) {} [qn d + 3, pn a + 1] s.WaitsPeer)) ∧
  (∀ (s r u : State) (d : BitVec 6) (a : BitVec 7) (p : BitVec 3) (list dom : Nat), s.netBusy = false →
      s.behind = false → s.matesOut = false → s.ag.netIds = [] → s.kind ≠ .keeper →
      let at_ := (s.pair (pn a)).toNat
      let wopen := fun P => s.Does (.wopen a p) {} [pn a + 1] P
      let wapp := fun P => s.Does (.wapp d a p) {} [qn d + 3, pn a + 1] P
      let wtake := fun P => s.Does (.wtake d a p) {} [qn d + 3, pn a + 1] P
      let lanes := s.kind = .team
      let domain := r.numAt (list + 16) 8
      let named := domain % 64 = 0 ∧ domain < 2 ^ 56
      let reads := fun (need : Need) => at_ < 2 ^ 56 ∧ at_ % 64 = 0 ∧ s.drain.descriptor need at_ = .ok r list
      let both := fun (need : Need) => reads need ∧ named ∧ r.descriptor .rw domain = .ok u dom
      let opens := fun (need : Need) => both need ∧ u.listOk list = true ∧ u.domainOk dom = true ∧
        u.numAt (list + 12) 4 < u.numAt dom 4 ∧ (list + 64 ≤ dom ∨ dom + 64 ≤ list)
      let broken := fun (need : Need) (addr : DWord) => (reads need ∧ ¬named ∧ addr = s.pair (pn a)) ∨
        (both need ∧ ((u.listOk list = false ∧ addr = s.pair (pn a)) ∨
          (u.listOk list = true ∧ u.domainOk dom = false ∧ addr = BitVec.ofNat 64 domain) ∨
          (u.listOk list = true ∧ u.domainOk dom = true ∧ u.numAt dom 4 ≤ u.numAt (list + 12) 4 ∧ addr = s.pair (pn a))))
      let quiesced := u.numAt (dom + 24) 4 / 2 % 2 = 1
      let base := u.numAt list 8
      let cap := u.numAt (list + 8) 4
      let head := u.numAt (list + 24) 8
      let tail := u.numAt (list + 32) 8
      let item := (List.range 4).map fun k => s.v (qn d + k)
      let place := fun (i : Nat) (write : Bool) => u.itemPlace u.who.asid base cap i write
      let parks := fun (v t : State) => t.mem = v.mem ∧ u.ag.Wrote t.ag [] [] ∧ t.ag.pc = u.ag.pc + 4#64 ∧
        ∃ w : TakeWait, t.ag.status = .parked (.take w) ∧ w.list = list ∧ w.domain = dom ∧ w.dest = qn d ∧ w.pred = p
      (∀ addr, broken .rw addr → wapp (fun t => t = s.takeTrap .wlDesc addr) ∧
        (lanes → wtake fun t => t = s.takeTrap .wlDesc addr)) ∧
      (∀ addr, broken .rd addr → lanes → wopen fun t => t = s.takeTrap .wlDesc addr) ∧
      (lanes → opens .rd →
        (quiesced → wopen fun t => u.GoesOn t [] [(p, false)]) ∧
        (¬ quiesced → u.ag.domain = some dom → wopen fun t => u.GoesOn t [] [(p, true)]) ∧
        (¬ quiesced → u.ag.domain = none → wopen fun t => u.ag.Wrote t.ag [] [(p, true)] ∧ t.ag.domain = some dom ∧
          t.ag.pc = u.ag.pc + 4#64 ∧ t.numAt (dom + 4) 4 = (u.numAt (dom + 4) 4 + 1) % 2 ^ 32)) ∧
      (opens .rw →
        (quiesced ∨ head + cap ≤ tail → wapp fun t => u.ag.Wrote t.ag [] [(p, false)] ∧ t.ag.pc = u.ag.pc + 4#64 ∧
          t.numAt (list + 40) 4 = min 0xFFFFFFFF (u.numAt (list + 40) 4 + 1) ∧ t.wlItems = u.wlItems) ∧
        (¬ quiesced → tail < head + cap →
          (∀ v x, place tail true = .ok v x → wapp fun t => u.ag.Wrote t.ag [] [(p, true)] ∧ t.ag.pc = u.ag.pc + 4#64 ∧
            t.numAt (list + 32) 8 = (v.numAt (list + 32) 8 + 1) % 2 ^ 64 ∧ ∃ n i, t.wlItems = u.wlItems.put n i ∧
              i.piece = x ∧ i.domain = dom ∧ i.bytes = leBytes 16 (wordsNat item)) ∧
          ∀ c x, place tail true = .trap c x → wapp fun t => t = s.takeTrap c x) ∧
        (lanes → quiesced → wtake fun t => u.GoesOn t [(qn d, 1#32)] [(p, false)]) ∧
        (lanes → ¬ quiesced → tail ≤ head → wtake (parks u)) ∧
        (lanes → ¬ quiesced → head < tail →
          (∀ c x, place head false = .trap c x → wtake fun t => t = s.takeTrap c x) ∧
          ∀ v x, place head false = .ok v x →
            let unwritten := ∃ e ∈ v.wlItems, e.2.piece.pa = x.pa
            (unwritten → wtake (parks v)) ∧
            (¬unwritten → paRange x.pa = .local_ → ∀ i, v.firstPoison x.pa 16 = some i →
              wtake fun t => t = (s.notePoison i).takeTrap .memErr (BitVec.ofNat 64 (x.va + (i - x.pa)))) ∧
            (¬unwritten → paRange x.pa = .local_ → v.firstPoison x.pa 16 = none → wtake fun t =>
              u.ag.Wrote t.ag ((List.range 4).map fun k => (qn d + k, BitVec.ofNat 32 (v.numAt (x.pa + 4 * k) 4))) [(p, true)] ∧
              t.ag.pc = u.ag.pc + 4#64 ∧ t.numAt (list + 24) 8 = (v.numAt (list + 24) 8 + 1) % 2 ^ 64)))) ∧
  (∀ (s : State) (n : Nat) (w : WlItem) (r : AgentRef) (a : Agent) (x : TakeWait),
      let at_ := w.piece.pa
      (s.wlItems.find? n = some w → s.takersOf w.domain = [] → (∀ line, (s.l2Line line).owner = none) →
        paRange at_ = .local_ → paRange w.domain = .local_ → w.domain % 64 = 0 → at_ % 16 = 0 → w.bytes.length = 16 →
        (at_ + 16 ≤ w.domain ∨ w.domain + 64 ≤ at_) → 1 ≤ s.numAt (w.domain + 16) 8 →
        s.Answers (.wappItemWritten n) fun t => t.wlItems.find? n = none ∧
          (∀ i < 16, t.byteAt (at_ + i) = w.bytes.getD i 0#8) ∧
          t.numAt (w.domain + 16) 8 = s.numAt (w.domain + 16) 8 - 1 ∧
          ∀ b, (b < at_ ∨ at_ + 16 ≤ b) → (b < w.domain + 8 ∨ w.domain + 28 ≤ b) → t.byteAt b = s.byteAt b) ∧
      (s.wlItems.find? n = some w → w.piece.aperture?.isSome = true → (∀ e ∈ s.net, e.2.item? ≠ some n) →
        s.Answers (.wappItemWritten n) fun t => t.mem = s.mem ∧ t.wlItems = s.wlItems ∧
          ∃ k c, t.net.find? k = some c ∧ c.item? = some n ∧ c.out = true ∧ c.kind = .store w.bytes) ∧
      (s.wlItems.find? n = none → s.Answers (.wappItemWritten n) (· = s)) ∧
      (s.agentAt r = some a → a.status = .parked (.take x) → a.parkedAt + 4096 ≤ s.cclk →
        s.Answers (.wtakeEmpty r) fun t => ∃ b, t.agentAt r = some b ∧ b.status = .ready ∧ b.pc = a.pc ∧
          a.Wrote b [(x.dest, 0#32)] [(x.pred, false)]))

/-! ### Clutches -/

/-- R8, R91, R92: the gap code and the element stream decode to what they encode: a gap below 2^62 wherever its shortest
code stands in a payload, and any run of elements in key order from the fence, keys below 2^62 and fields within their
widths, whose stream fits in 1,920 bits. The 62-bit form of any gap decodes to it as well. R97 to R103, R356 to R358:
the clutch words on a descriptor that passes its checks. CLCNT and CLSTAT read its fields; CLGROW answers 7 past the
index's capacity, raises ENGARG outside 1 to 65,536 and otherwise links the new blocks; CLINS and CLREM answer WIDTH
(6), NOTFOUND (3) and insert after the last equal element or remove the last; a block whose stream would not fit splits
at the point R98 names, its index entry behind the old block's, or answers KEYFULL (5), or POOLEMPTY (4), which is
counted; a block that a remove empties returns to the pool and is unlinked; CLNEXT answers with the first element after the cursor, END (1) or MORE (2). Status and GEN go to D + 6 and D +
7, the predicate says DONE. A descriptor that breaks R87 raises CLDESC. -/
def Obligations.Clutches : Prop :=
  ((∀ p pos g, g < 2 ^ 62 →
      (pos + (gapCode g).len ≤ 1920 → takeBits p pos (gapCode g).len = (gapCode g).val →
        decodeGap p pos = (g, pos + (gapCode g).len)) ∧
      (pos + 67 ≤ 1920 → takeBits p pos 67 = 0b11111 * 2 ^ 62 + g → decodeGap p pos = (g, pos + 67))) ∧
    ∀ (w ab fence : Nat) (es : List Elem),
      (fence :: es.map Elem.key).Pairwise (· ≤ ·) → (∀ e ∈ es, e.key < 2 ^ 62 ∧ e.ot < 2 ^ w ∧ e.attr.length = ab) →
      let b := encodeElems w ab fence es
      b.len ≤ 1920 → b.val < 2 ^ b.len ∧
        decodeElems (b.val * 2 ^ (1920 - b.len)) b.len w ab es.length 0 fence = some es) ∧
  (∀ (s : State) (d : BitVec 8) (a e7 : BitVec 7) (e6 : BitVec 6) (p : BitVec 3) (need : Need) (y : State) (x : Tx) (pa : Nat),
      s.netBusy = false → s.behind = false → s.kind ≠ .keeper →
      let at_ := s.pair (pn a)
      let D := vn d
      let H := (s.ag.hints.c4.getD 0#8).toNat
      let word := fun (n : Nat) => BitVec.ofNat 32 n
      let key := (s.v D).toNat + 2 ^ 32 * ((s.v (D + 1)).toNat % 2 ^ 30)
      let ot := (s.v (D + 2)).toNat
      let clins := fun P => s.Does (.clins d a p) {} [D + 7, pn a + 1] P
      let clrem := fun P => s.Does (.clrem d a p) {} [D + 7, pn a + 1] P
      let clnext := fun P => s.Does (.clnext d a p) { c4 := true, needC4 := true } [D + 7, pn a + 1, H + 1] P
      let clgrow := fun P => s.Does (.clgrow d a p) {} [D, pn a + 1] P
      at_.toNat < 2 ^ 56 → at_.toNat % 64 = 0 → s.drain.begin.read need at_.toNat 64 = .ok y (x, pa) →
      let c := x.s.clutchAt pa
      let fields := fun (c : Clutch) => (pa + 16, c.unitFields)
      let ends := fun (gen : Nat) (r t : State) (n : Nat) (extra : List (Nat × Word)) =>
        r.GoesOn t ([(D + 6, word n), (D + 7, word gen)] ++ extra) [(p, n == 0)]
      let status := ends c.gen
      let gen' := (c.gen + 1) % 2 ^ 32
      let short := fields { c with empty := min 0xFFFFFFFF (c.empty + 1) }
      let entry := fun (fence block : Nat) => leBytes 8 fence ++ leBytes 4 block ++ leBytes 4 0
      (x.s.clutchOk c = false →
        (need = .rd → s.Does (.clcnt e7 a) {} [pn e7 + 1, pn a + 1] fun t => t = s.takeTrap .clDesc at_) ∧
        (need = .rw → clins fun t => t = s.takeTrap .clDesc at_)) ∧
      (x.s.clutchOk c = true → need = .rd →
        s.Does (.clcnt e7 a) {} [pn e7 + 1, pn a + 1] (fun t =>
          (x.commit []).GoesOn t (pairOf (pn e7) (BitVec.ofNat 64 c.elems)) []) ∧
        s.Does (.clstat e6 a) {} [qn e6 + 3, pn a + 1] (fun t => (x.commit []).GoesOn t
          [(qn e6, word c.live), (qn e6 + 1, word c.count), (qn e6 + 2, word c.gen), (qn e6 + 3, word c.empty)] []) ∧
        (H % 2 = 0 → c.live = 0 → clnext fun t => status (x.commit []) t 1 []) ∧
        ∀ y1 x1 i y2 x2 e y3 x3 after y4 x4 b, H % 2 = 0 → c.live ≠ 0 → x.lookup c .rd key 33 0 c.live = .ok y1 (x1, i) →
          x1.entry c .rd i = .ok y2 (x2, e) → x2.entries c .rd (min 1 (c.live - (i + 1))) (i + 1) = .ok y3 (x3, after) →
          x3.block c .rd e = .ok y4 (x4, b) →
            let ord := (s.v (D + 3)).toNat
            let hi := (s.pair H).toNat
            let above := fun (z : Elem × Nat) => key < z.1.key ∨ (z.1.key = key ∧ (ot < z.1.ot ∨ (z.1.ot = ot ∧ ord < z.2)))
            let all := ordinals b.elems none 0
            (∀ before z rest, all = before ++ z :: rest → (∀ q ∈ before, ¬ above q) → above z →
              (z.1.key ≤ hi → clnext fun t => status (x4.commit []) t 0 [(D, word z.1.key), (D + 1, word (z.1.key / 2 ^ 32)),
                (D + 2, word z.1.ot), (D + 3, word z.2), (D + 4, word (leNat (z.1.attr.take 4))),
                (D + 5, word (leNat (z.1.attr.drop 4)))]) ∧
              (hi < z.1.key → clnext fun t => status (x4.commit []) t 1 [])) ∧
            ((∀ q ∈ all, ¬ above q) →
              (after = [] ∨ (∃ n rest, after = n :: rest ∧ hi < n.fence) → clnext fun t => status (x4.commit []) t 1 []) ∧
              ∀ n rest, after = n :: rest → n.fence ≤ hi → clnext fun t => status (x4.commit []) t 2
                [(D, word n.fence), (D + 1, word (n.fence / 2 ^ 32)), (D + 2, 0#32), (D + 3, 0#32)])) ∧
      (x.s.clutchOk c = true → need = .rw →
        let n := (s.v D).toNat
        (n < 1 ∨ 65536 < n → clgrow fun t => t = s.takeTrap .engArg 0#64) ∧
        (1 ≤ n → n ≤ 65536 → c.cap < c.count + n ∨ 0xFFFFFFFE < c.count + n →
          clgrow fun t => (x.commit []).GoesOn t [(D, 7#32)] [(p, false)]) ∧
        (∀ y1 x1 pas, 1 ≤ n → n ≤ 65536 → c.count + n ≤ c.cap → c.count + n ≤ 0xFFFFFFFE →
          x.newBlocks c n c.count = .ok y1 (x1, pas) →
          let blocks := ((List.range n).zip pas).map fun z =>
            (z.2, c.blockBytes 0 (if z.1 + 1 = n then c.free else c.count + z.1 + 1) [])
          clgrow fun t => (x1.commit (blocks ++ [fields { c with count := c.count + n, free := c.count }])).GoesOn t
            [(D, 0#32)] [(p, true)]) ∧
        let tooWide := 2 ^ 30 ≤ (s.v (D + 1)).toNat ∨ 2 ^ c.kw ≤ key ∨ (c.ow + c.tw < 32 ∧ 2 ^ (c.ow + c.tw) ≤ ot)
        (tooWide → clins (fun t => status (x.commit []) t 6 []) ∧ clrem fun t => status (x.commit []) t 6 []) ∧
        (¬ tooWide → c.live = 0 → clrem (fun t => status (x.commit []) t 3 []) ∧
          (c.free = 0xFFFFFFFF → clins fun t => status (x.commit [short]) t 4 []) ∧
          ∀ y1 x1 slot y2 x2 at_ next, c.free ≠ 0xFFFFFFFF → x.slot c 0 = .ok y1 (x1, slot) →
            x1.freeBlock c = .ok y2 (x2, at_, next) →
            let es : List Elem := [{ key := key, ot := ot, attr := s.clAttr D c.ab }]
            clins fun t => status (x2.commit [(at_, c.blockBytes 0 0xFFFFFFFF es), (slot, entry 0 c.free),
              fields { c with free := next, live := 1, elems := c.elems + 1 }]) t 0 [(D + 3, 1#32)]) ∧
        ∀ y1 x1 i y2 x2 e y3 x3 after y4 x4 b, ¬ tooWide → c.live ≠ 0 → x.lookup c .rw key 33 0 c.live = .ok y1 (x1, i) →
          x1.entry c .rw i = .ok y2 (x2, e) → x2.entries c .rw (min 1 (c.live - (i + 1))) (i + 1) = .ok y3 (x3, after) →
          x3.block c .rw e = .ok y4 (x4, b) →
            let same := fun (z : Elem) => z.key = key ∧ z.ot = ot
            let run := (b.elems.filter fun z => decide (same z)).length
            let written := fun (es : List Elem) (m : Nat) =>
              x4.commit [(b.pa, c.blockBytes b.fence b.next es), fields { c with elems := m }]
            -- what a block's new elements come to
            let rewrites := fun (run : (State → Prop) → Prop) (es : List Elem) (m : Nat) (extra : List (Nat × Word)) =>
              let k := fun (j : Nat) => (es.getD j ⟨0, 0, []⟩).key
              let cut := fun (j : Nat) => 1 ≤ j ∧ j < es.length ∧ k j ≠ k (j - 1)
              let half := es.length / 2
              let point := fun (j : Nat) => cut j ∧ ((half ≤ j ∧ ∀ n, half ≤ n → n < j → ¬ cut n) ∨
                (j < half ∧ ∀ n, j < n → ¬ cut n))
              let fits := fun (j : Nat) => c.fits b.fence (es.take j) = true ∧ c.fits (k j) (es.drop j) = true
              (c.fits b.fence es = true → run fun t => status (written es m) t 0 extra) ∧
              (c.fits b.fence es = false →
                ((∀ j, point j → ¬ fits j) → run fun t => status (x4.commit []) t 5 []) ∧
                ∀ j, point j → fits j →
                  (c.free = 0xFFFFFFFF → run fun t => status (x4.commit [short]) t 4 []) ∧
                  ∀ y5 x5 later y6 x6 slots y7 x7 at_ next, c.free ≠ 0xFFFFFFFF →
                    x4.entries c .rw (c.live - (i + 1)) (i + 1) = .ok y5 (x5, later) →
                    x5.slots c (min (c.live - i) (c.cap - (i + 1))) (i + 1) = .ok y6 (x6, slots) →
                    x6.freeBlock c = .ok y7 (x7, at_, next) →
                      run fun t => ends gen' (x7.commit ([(b.pa, c.blockBytes b.fence c.free (es.take j)),
                        (at_, c.blockBytes (k j) b.next (es.drop j))]
                        ++ (slots.zip ((k j, c.free) :: later.map fun z => (z.fence, z.block))).map (fun z =>
                          (z.1, entry z.2.1 z.2.2))
                        ++ [fields { c with elems := m, free := next, live := c.live + 1, gen := gen' }])) t 0 extra)
            (∀ before rest, b.elems = before ++ rest → (∀ z ∈ before, z.key < key ∨ (z.key = key ∧ z.ot ≤ ot)) →
              (∀ z ∈ rest.head?, ¬ (z.key < key ∨ (z.key = key ∧ z.ot ≤ ot))) →
              let es := before ++ { key := key, ot := ot, attr := s.clAttr D c.ab } :: rest
              rewrites clins es (c.elems + 1) [(D + 3, word (run + 1))]) ∧
            ((∀ z ∈ b.elems, ¬ same z) → clrem fun t => status (x4.commit []) t 3 []) ∧
            (∀ before z rest, b.elems = before ++ z :: rest → same z → (∀ q ∈ rest, ¬ same q) →
              let extra := [(D + 3, word run), (D + 4, word (leNat (z.attr.take 4))), (D + 5, word (leNat (z.attr.drop 4)))]
              let freed := (b.pa, c.blockBytes 0 c.free [])
              let back := fields { c with elems := c.elems - 1, free := e.block, live := c.live - 1, gen := gen' }
              (before ++ rest ≠ [] ∨ (i = 0 ∧ c.live ≠ 1) → rewrites clrem (before ++ rest) (c.elems - 1) extra) ∧
              (before ++ rest = [] → i = 0 → c.live = 1 → clrem fun t => ends gen' (x4.commit [freed, back]) t 0 extra) ∧
              ∀ y5 x5 f y6 x6 pred y7 x7 later y8 x8 slots, before ++ rest = [] → i ≠ 0 →
                x4.entry c .rw (i - 1) = .ok y5 (x5, f) → x5.block c .rw f = .ok y6 (x6, pred) →
                x6.entries c .rw (c.live - (i + 1)) (i + 1) = .ok y7 (x7, later) →
                x7.slots c (c.live - (i + 1)) i = .ok y8 (x8, slots) →
                  clrem fun t => ends gen' (x8.commit ([freed, (pred.pa + 12, leBytes 4 b.next)]
                    ++ ((slots.zip later).map fun z => (z.1, entry z.2.fence z.2.block)) ++ [back])) t 0 extra)))

/-! ### Layered targets and visibility -/

/-- R115, R116, R123: what a pixel's list becomes. A fragment enters after the last node whose depth is below its own, or
equal to it, in an ordered target where that node's sequence number is at most its own; where the depths rise they
rise after it; the merge at the bound leaves one fragment fewer and takes the nearest of the pairs with the smallest
difference. R119: the pair becomes its front member under NEAR, the two blended or added channel by channel, rounded to
FP32 and saturated to FP16, under OVER and ADD, with the front's depth and the later sequence number. R123: a list resolves
to its layers blended front to back, the background last; an empty list to the background. In a list whose depths do not
rise the place is the last node's that the rule names (log entry 34). R111, R113, R115 to R118, R120, R123, R359 to R361:
the layer words on a
descriptor that passes its checks. FRAG of a NaN depth or one beyond CLEAR answers 4 and the pixel's count; below the
bound with a free node it places the fragment (0); at the bound it merges (1); with no free node it raises LAYERPOOL
with the head word's address where the policy is FAULT, and under MERGE it merges (2), or drops the fragment at a pixel
that holds none (3). FRRD reads fragment k or the background, RSLV composites,
FRCLR frees a pixel's list, POOLADD adds pages, whose nodes it writes and chains before the free list, or answers 5, POOLST reads the pool and its counters. A pixel outside
raises LAYERXY, a broken descriptor LTDESC. -/
def Obligations.Layers : Prop :=
  (∀ (ordered : Bool) (f : Frag) (fs : List Frag) (t : Target) (rg ba : Word),
      let i := insertionPoint ordered f fs
      let after := fun (n : Frag) => (depthOf n.depth).lt (depthOf f.depth) = true ∨
        ((depthOf n.depth).eqv (depthOf f.depth) = true ∧ (ordered = true → n.seq.toNat ≤ f.seq.toNat))
      let rises := fun (xs : List Frag) => (xs.map fun n => n.depth).Pairwise fun x y => (depthOf y).lt (depthOf x) = false
      i ≤ fs.length ∧ (0 < i → ∃ n, fs[i - 1]? = some n ∧ after n) ∧ (∀ n ∈ fs.drop i, ¬ after n) ∧
      ((depthOf f.depth).isNan = false → (∀ n ∈ fs, (depthOf n.depth).isNan = false) → rises fs →
        rises (fs.take i ++ f :: fs.drop i)) ∧
      (2 ≤ fs.length → (t.mergeList fs).length + 1 = fs.length ∧ mergePlace fs + 1 < fs.length ∧
        ∀ k, k + 1 < fs.length →
          let least := (gaps fs).getD (mergePlace fs) .nan
          let gap := (gaps fs).getD k .nan
          gapLess gap least = false ∧ (k < mergePlace fs → gapLess least gap = true)) ∧
      -- R119, R123: `channel` is one of the four FP16 channels, `left` what a colour leaves of what lies behind it
      let channel := fun (rg ba : Word) (k : Nat) => f16.unpack (((if k < 2 then rg else ba).toNat / 2 ^ (16 * (k % 2))) % 2 ^ 16)
      let toF32 := fun (x : FVal) => f32.unpack (f32.pack .rn false x)
      let left := fun (alpha : FVal) => toF32 (FVal.add .rn (.fin false 1 0) alpha.neg)
      (∀ b : Frag, t.rule = 1 → t.merge f b = f) ∧
      (∀ b : Frag, t.rule = 0 ∨ t.rule = 2 →
        let m := t.merge f b
        m.depth = f.depth ∧ m.seq.toNat = max f.seq.toNat b.seq.toNat ∧ ∀ k < 4,
          let behind := if t.rule = 0 then (left (channel f.rg f.ba 3)).mul (channel b.rg b.ba k) else channel b.rg b.ba k
          let x := toF32 (FVal.add .rn (channel f.rg f.ba k) behind)
          let h := f16.pack .rn false x
          (if k < 2 then m.rg else m.ba).toNat / 2 ^ (16 * (k % 2)) % 2 ^ 16 =
            if x.isNan = true then f16.nan else h / 2 ^ 15 * 2 ^ 15 + min (h % 2 ^ 15) 0x7BFF) ∧
      (let blend := fun (acc c : Nat → FVal) (k : Nat) => toF32 (FVal.add .rn (acc k) ((left (acc 3)).mul (c k)))
       let layers := (fs.map fun n => channel n.rg n.ba) ++ [channel rg ba]
       resolve fs rg ba = (List.range 4).map fun k => BitVec.ofNat 32 (f32.pack .rn false
        (if fs = [] then channel rg ba k else layers.foldl blend (fun _ => .fin false 0 0) k)))) ∧
  (∀ (s : State) (d : BitVec 8) (e6 : BitVec 6) (a : BitVec 7) (p : BitVec 3) (need : Need) (y : State) (x : Tx) (pa : Nat),
      s.netBusy = false → s.behind = false → s.kind ≠ .keeper →
      let at_ := s.pair (pn a)
      let D := vn d
      let word := fun (n : Nat) => BitVec.ofNat 32 n
      let frag := fun P => s.Does (.frag d a p) {} [D + 6, pn a + 1] P
      let frrd := fun P => s.Does (.frrd d a) {} [D + 6, pn a + 1] P
      let rslv := fun (f : BitVec 1) P => s.Does (.rslv e6 a f) {} [qn e6 + 3, pn a + 1] P
      let frclr := fun P => s.Does (.frclr d a) {} [D, pn a + 1] P
      let pooladd := fun P => s.Does (.pooladd d a p) {} [D, pn a + 1] P
      let poolst := fun P => s.Does (.poolst d a) {} [D + 5, pn a + 1] P
      let trapped := fun (c : Cause) (z : DWord) (t : State) => t = s.takeTrap c z
      at_.toNat < 2 ^ 56 → at_.toNat % 64 = 0 → s.drain.begin.read need at_.toNat 64 = .ok y (x, pa) →
      let t := x.s.targetAt at_.toNat pa
      let ok := x.s.targetOk t
      let outside := fun (xy : Word) => t.width ≤ xy.toNat % 2 ^ 16 ∨ t.height ≤ xy.toNat / 2 ^ 16
      (ok = false → (need = .rw → frag (trapped .ltDesc at_)) ∧ (need = .rd → frrd (trapped .ltDesc at_))) ∧
      (ok = true → need = .rw → (outside (s.v D) → frag (trapped .layerXY at_) ∧ frclr (trapped .layerXY at_)) ∧
        (∀ y1 x1 q, x.pixel t .rw (s.v D) = .ok y1 (x1, q) →
          let f : Frag := { depth := s.v (D + 1), rg := s.v (D + 2), ba := s.v (D + 3), seq := s.v (D + 4) }
          let far := (depthOf f.depth).isNan = true ∨ (depthOf t.clear).lt (depthOf f.depth) = true
          let n := q.list.length
          let i := insertionPoint t.ordered f q.list
          let late := if t.ordered = true ∧ ∃ z ∈ q.list, f.seq.toNat ≤ z.seq.toNat then [3] else []
          let answers := fun (r u : State) (status count : Nat) =>
            r.GoesOn u [(D + 5, word status), (D + 6, word count)] [(p, decide (status < 3))]
          frclr (fun u => (x1.freeList t q).GoesOn u [] []) ∧
          (far → frag fun u => answers (x1.commit []) u 4 n) ∧
          (¬ far → n < t.lbound → t.freeHead = 0 → t.mergePolicy = false → frag (trapped .layerPool (BitVec.ofNat 64 q.headVa))) ∧
          (∀ y2 x2 cw, ¬ far → n = 0 → 0 < t.lbound → t.freeHead = 0 → t.mergePolicy = true → x1.counters t [2] = .ok y2 (x2, cw) →
            frag fun u => answers (x2.commit cw) u 3 0) ∧
          (∀ y2 x2 cw, ¬ far → n ≠ 0 → n < t.lbound → t.freeHead = 0 → t.mergePolicy = true →
            x1.counters t (1 :: late) = .ok y2 (x2, cw) →
            let fs := t.mergeList (q.list.take i ++ f :: q.list.drop i)
            frag fun u => answers (x2.commit (listWrites fs ++ [(q.headPa, headBytes fs)] ++ cw)) u 2 fs.length) ∧
          (∀ y2 x2 g next y3 x3 cw, ¬ far → n ≠ t.lbound → t.freeHead ≠ 0 → x1.freeNode t f = .ok y2 (x2, g, next) →
            x2.counters t late = .ok y3 (x3, cw) →
            let fs := q.list.take i ++ g :: q.list.drop i
            let t' := { t with freeHead := next, freeCount := (t.freeCount + 2 ^ 32 - 1) % 2 ^ 32 }
            frag fun u => answers (x3.commit (listWrites fs ++ [(q.headPa, headBytes fs), (pa + 48, t'.unitFields)] ++ cw)) u
              0 (n + 1)) ∧
          ∀ y2 x2 cw, ¬ far → n = t.lbound → x1.counters t (0 :: late) = .ok y2 (x2, cw) →
            let fs := t.mergeList (q.list.take i ++ f :: q.list.drop i)
            frag fun u => answers (x2.commit (listWrites fs ++ [(q.headPa, headBytes fs)] ++ cw)) u 1 fs.length) ∧
        (∀ y1 x1 q, x.pixel t .rw (s.v (qn e6)) = .ok y1 (x1, q) → rslv 1#1 fun u => (x1.freeList t q).GoesOn u
          ((resolve q.list t.bgRG t.bgBA).zipIdx.map fun z => (qn e6 + z.2, z.1)) []) ∧
        let m := (s.v D).toNat
        (m < 1 ∨ 65536 < m → pooladd (trapped .engArg 0#64)) ∧
        (1 ≤ m → m ≤ 65536 → t.pageCap < t.pages + m → pooladd fun u => (x.commit []).GoesOn u [(D, 5#32)] [(p, false)]) ∧
        ∀ y1 x1 pas, 1 ≤ m → m ≤ 65536 → t.pages + m ≤ t.pageCap → x.newPages t (2 * m) (2 * t.pages) = .ok y1 (x1, pas) →
          let last := 16 * (t.pages + m) - 1
          let next := fun (n : Nat) => if n = 0 then 0 else if n = last then t.freeHead else n + 1
          let zero := leBytes 4 0
          let half := fun (h : Nat) => (List.range 8).flatMap fun k => zero ++ zero ++ zero ++ leBytes 4 (next (8 * h + k) % 2 ^ 27)
          let nodes := ((List.range (2 * m)).zip pas).map fun z => (z.2, half (2 * t.pages + z.1))
          pooladd fun u => (x1.commit (nodes ++ [(pa + 48, leBytes 4 (t.pages + m) ++ leBytes 4 (max (16 * t.pages) 1) ++
            leBytes 4 ((t.freeCount + (16 * m - if t.pages = 0 then 1 else 0)) % 2 ^ 32))])).GoesOn u [(D, 0#32)] [(p, true)]) ∧
      (ok = true → need = .rd →
        (∀ y1 x1 q, x.pixel t .rd (s.v D) = .ok y1 (x1, q) →
          let k := (s.v (D + 4)).toNat
          let read := fun (z : Frag) (u : State) => (x1.commit []).GoesOn u [(D + 6, word q.list.length), (D + 1, z.depth),
            (D + 2, z.rg), (D + 3, z.ba), (D + 4, z.seq)] []
          (∀ z, q.list[k]? = some z → frrd (read z)) ∧
          (q.list.length ≤ k → frrd (read { depth := t.clear, rg := t.bgRG, ba := t.bgBA, seq := 0#32 }))) ∧
        (∀ y1 x1 q, x.pixel t .rd (s.v (qn e6)) = .ok y1 (x1, q) → rslv 0#1 fun u => (x1.commit []).GoesOn u
          ((resolve q.list t.bgRG t.bgBA).zipIdx.map fun z => (qn e6 + z.2, z.1)) []) ∧
        (t.pages = 0 → poolst fun u => (x.commit []).GoesOn u [(D, 0#32), (D + 1, word t.freeCount), (D + 2, 0#32),
          (D + 3, 0#32), (D + 4, 0#32), (D + 5, 0#32)] []) ∧
        ∀ y1 x1 z, t.pages ≠ 0 → x.read .rd t.pool 16 = .ok y1 (x1, z) → poolst fun u => (x1.commit []).GoesOn u
          ([(D, word t.pages), (D + 1, word t.freeCount)] ++
            (List.range 4).map fun k => (D + 2 + k, word (x1.s.numAt (z + 4 * k) 4))) []))

/-- R87 to R89, R95 to R97, R99 to R103, R108 to R111, R113, R116, R120, R122, R123, R356 to R361: where the descriptor,
the index, the block, the head word, the list and whatever else a word needs lie in coherent local pages with cached
translations, unpoisoned, and are sound, the word completes. CLCNT and CLSTAT read the descriptor, CLGROW links its new
blocks before the free list, CLINS inserts its element after the last equal one, alone in a first block where LIVE is 0,
CLREM removes the last equal element and returns a block it empties, CLNEXT answers with the next element, END or MORE;
FRAG places its fragment in the node at FREE_HEAD, FRRD reads one, RSLV composites the list and with .free frees it,
FRCLR frees it, POOLADD writes and chains its new pages, POOLST reads the counters. Memory takes the named bytes and no
other changes. R354: the lanes of a bundle perform such a word in ascending order, each once its earlier accesses have
completed: behind a lane that waits, or with an access of its own out at a peer, a lane waits at the word (the model's reading, log
entry 96). -/
def Obligations.UnitWordsComplete : Prop :=
  (∀ (s : State) (d : BitVec 8) (a e7 : BitVec 7) (e6 : BitVec 6) (m : BitVec 1) (p : BitVec 3), s.kind ≠ .keeper →
    s.behind = true ∨ s.netBusy = true →
    let D := vn d
    let H := (s.ag.hints.c4.getD 0#8).toNat
    (∀ w ∈ [(Instr.clcnt e7 a, pn e7 + 1), (.clstat e6 a, qn e6 + 3), (.clins d a p, D + 7), (.clrem d a p, D + 7),
        (.clgrow d a p, D), (.frag d a p, D + 6), (.frrd d a, D + 6), (.rslv e6 a m, qn e6 + 3), (.frclr d a, D),
        (.pooladd d a p, D), (.poolst d a, D + 5)], s.Does w.1 {} [w.2, pn a + 1] s.WaitsPeer) ∧
    (H % 2 = 0 → s.Does (.clnext d a p) { c4 := true, needC4 := true } [D + 7, pn a + 1, H + 1] s.WaitsPeer)) ∧
  ∀ (s : State) (d : BitVec 8) (a e7 : BitVec 7) (e6 : BitVec 6) (p : BitVec 3) (need : Need),
    s.netBusy = false → s.behind = false → s.kind ≠ .keeper →
    let D := vn d
    let H := (s.ag.hints.c4.getD 0#8).toNat
    let va := (s.pair (pn a)).toNat
    let word := fun (n : Nat) => BitVec.ofNat 32 n
    va % 64 = 0 → s.Shared need va 64 →
    let pa := s.paOf va
    -- the word `i` completes, having written `ws` to memory, `vs` and `ps`
    let gives := fun (i : Instr) (u : HintUse) (regs : List Nat) ws vs ps => s.Does i u ((pn a + 1) :: regs) fun r =>
      (s.after ws).GoesOn r vs ps
    -- clutches
    (let c := s.clutchAt pa
     let key := (s.v D).toNat + 2 ^ 32 * ((s.v (D + 1)).toNat % 2 ^ 30)
     let ot := (s.v (D + 2)).toNat
     let narrow := (s.v (D + 1)).toNat < 2 ^ 30 ∧ key < 2 ^ c.kw ∧ (c.ow + c.tw < 32 → ot < 2 ^ (c.ow + c.tw))
     let fields := fun (c : Clutch) => (pa + 16, c.unitFields)
     let ends := fun (status gen : Nat) (more : List (Nat × Word)) => [(D + 6, word status), (D + 7, word gen)] ++ more
     let clins := fun ws more => gives (.clins d a p) {} [D + 7] ws (ends 0 c.gen more) [(p, true)]
     let clrem := fun ws gen more => gives (.clrem d a p) {} [D + 7] ws (ends 0 gen more) [(p, true)]
     let clnext := fun status more => gives (.clnext d a p) { c4 := true, needC4 := true } [D + 7, H + 1] []
       (ends status c.gen more) [(p, status == 0)]
     let attr := fun (bs : List Byte) => [(D + 4, word (leNat (bs.take 4))), (D + 5, word (leNat (bs.drop 4)))]
     let blockAt := fun (n : Nat) => c.pool + 256 * n
     s.clutchOk c = true →
      -- the descriptor's fields; new blocks
      (need = .rd → gives (.clcnt e7 a) {} [pn e7 + 1] [] (pairOf (pn e7) (BitVec.ofNat 64 c.elems)) [] ∧
        gives (.clstat e6 a) {} [qn e6 + 3] []
          [(qn e6, word c.live), (qn e6 + 1, word c.count), (qn e6 + 2, word c.gen), (qn e6 + 3, word c.empty)] []) ∧
      (let n := (s.v D).toNat
       need = .rw → 1 ≤ n → n ≤ 65536 → c.count + n ≤ c.cap → c.count + n ≤ 0xFFFFFFFE →
        s.Shared .rw (blockAt c.count) (256 * n) →
        gives (.clgrow d a p) {} [D]
          (((List.range n).map fun i => (s.paOf (blockAt (c.count + i)),
              c.blockBytes 0 (if i + 1 = n then c.free else c.count + i + 1) []))
            ++ [fields { c with count := c.count + n, free := c.count }]) [(D, 0#32)] [(p, true)]) ∧
      -- a clutch with no element
      (let at_ := s.paOf (blockAt c.free)
       let next := s.numAt (at_ + 12) 4
       need = .rw → narrow → c.live = 0 → c.free ≠ 0xFFFFFFFF → s.Shared .rw c.index 16 → s.Shared .rw (blockAt c.free) 256 →
        next = 0xFFFFFFFF ∨ next < c.count →
        clins [(at_, c.blockBytes 0 0xFFFFFFFF [{ key := key, ot := ot, attr := s.clAttr D c.ab }]),
            (s.paOf c.index, leBytes 8 0 ++ leBytes 4 c.free ++ leBytes 4 0),
            fields { c with free := next, live := 1, elems := c.elems + 1 }] [(D + 3, 1#32)]) ∧
      (need = .rd → H % 2 = 0 → c.live = 0 → clnext 1 []) ∧
      -- the block of the key
      ∀ i next es, s.IndexSound c need → s.EntryOfKey c key i → s.BlockHolds c need (s.indexEntry c i) next es →
        let e := s.indexEntry c i
        let at_ := s.paOf (blockAt e.block)
        let run := (es.filter fun z => decide (z.key = key ∧ z.ot = ot)).length
        let block := fun (es : List Elem) => (at_, c.blockBytes e.fence next es)
        (∀ lo hi, need = .rw → narrow → es = lo ++ hi → (∀ z ∈ lo, z.key < key ∨ (z.key = key ∧ z.ot ≤ ot)) →
          (∀ z, hi.head? = some z → key < z.key ∨ (z.key = key ∧ ot < z.ot)) →
          let es' := lo ++ { key := key, ot := ot, attr := s.clAttr D c.ab } :: hi
          c.fits e.fence es' = true →
            clins [block es', fields { c with elems := c.elems + 1 }] [(D + 3, word (run + 1))]) ∧
        (∀ lo z hi, need = .rw → narrow → es = lo ++ z :: hi → z.key = key → z.ot = ot →
          (∀ y ∈ hi, ¬(y.key = key ∧ y.ot = ot)) →
          (lo ++ hi ≠ [] ∨ (i = 0 ∧ 1 < c.live) → c.fits e.fence (lo ++ hi) = true →
            clrem [block (lo ++ hi), fields { c with elems := c.elems - 1 }] c.gen ([(D + 3, word run)] ++ attr z.attr)) ∧
          (lo ++ hi = [] → c.live = 1 →
            let gen := (c.gen + 1) % 2 ^ 32
            clrem [(at_, c.blockBytes 0 c.free []), fields { c with elems := c.elems - 1, free := e.block, live := 0, gen := gen }]
              gen ([(D + 3, word run)] ++ attr z.attr))) ∧
        (need = .rd → H % 2 = 0 →
          let ord := (s.v (D + 3)).toNat
          let hi := (s.pair H).toNat
          let above := fun (z : Elem × Nat) => key < z.1.key ∨ (z.1.key = key ∧ (ot < z.1.ot ∨ (z.1.ot = ot ∧ ord < z.2)))
          let after := (s.indexEntry c (i + 1)).fence
          (∀ before z rest, ordinals es none 0 = before ++ z :: rest → (∀ q ∈ before, ¬above q) → above z →
            (z.1.key ≤ hi → clnext 0 ([(D, word z.1.key), (D + 1, word (z.1.key / 2 ^ 32)), (D + 2, word z.1.ot),
              (D + 3, word z.2)] ++ attr z.1.attr)) ∧
            (hi < z.1.key → clnext 1 [])) ∧
          ((∀ q ∈ ordinals es none 0, ¬above q) → (i + 1 = c.live ∨ hi < after → clnext 1 []) ∧
            (i + 1 < c.live → after ≤ hi →
              clnext 2 [(D, word after), (D + 1, word (after / 2 ^ 32)), (D + 2, 0#32), (D + 3, 0#32)])))) ∧
    -- layered targets
    (let t := s.targetAt va pa
     let fields := fun (t : Target) => (pa + 48, leBytes 4 t.pages ++ leBytes 4 t.freeHead ++ leBytes 4 t.freeCount)
     s.targetOk t = true →
      (∀ idx, s.PixelHolds t need (s.v D) idx →
        let list := idx.map (s.nodeAt t)
        let head := s.paOf (t.headOf (s.v D))
        (let f : Frag := { depth := s.v (D + 1), rg := s.v (D + 2), ba := s.v (D + 3), seq := s.v (D + 4) }
         let node := s.paOf (t.pool + 16 * t.freeHead)
         let g := { f with idx := t.freeHead, at_ := node,
                           seqAt := if t.ordered then some (s.paOf (t.seqBase + 4 * t.freeHead)) else none }
         let i := insertionPoint t.ordered f list
         let fs := list.take i ++ g :: list.drop i
         let late := t.ordered = true ∧ ∃ z ∈ list, f.seq.toNat ≤ z.seq.toNat
         let counter := s.paOf (t.pool + 12)
         let ws := listWrites fs ++ [(head, leBytes 4 (fs.length * 2 ^ 27 + (fs.head?.map Frag.idx).getD 0)),
           fields { t with freeHead := s.numAt (node + 12) 4 % 2 ^ 27, freeCount := (t.freeCount + 2 ^ 32 - 1) % 2 ^ 32 }]
         let frag := fun ws => gives (.frag d a p) {} [D + 6] ws [(D + 5, 0#32), (D + 6, word (idx.length + 1))] [(p, true)]
         need = .rw → (depthOf f.depth).isNan = false → (depthOf t.clear).lt (depthOf f.depth) = false →
          idx.length < t.lbound → t.freeHead ≠ 0 → s.NodeUsable t .rw t.freeHead →
          (¬late → frag ws) ∧
          (late → s.Shared .rw (t.pool + 12) 4 →
            frag (ws ++ [(counter, leBytes 4 (min (2 ^ 32 - 1) (s.numAt counter 4 + 1)))]))) ∧
        (need = .rd →
          let z := list.getD (s.v (D + 4)).toNat { depth := t.clear, rg := t.bgRG, ba := t.bgBA, seq := 0#32 }
          gives (.frrd d a) {} [D + 6] []
            [(D + 6, word idx.length), (D + 1, z.depth), (D + 2, z.rg), (D + 3, z.ba), (D + 4, z.seq)] []) ∧
        -- every node of the list freed, nearest first
        (let ws := ((list.zip (t.freeHead :: idx)).map fun z =>
            (z.1.at_, leBytes 4 0 ++ leBytes 4 0 ++ leBytes 4 0 ++ leBytes 4 (z.2 % 2 ^ 27)))
          ++ [(head, leBytes 4 0),
            fields { t with freeHead := idx.getLastD t.freeHead, freeCount := (t.freeCount + idx.length) % 2 ^ 32 }]
         let colours := (resolve list t.bgRG t.bgBA).zipIdx.map fun z => (qn e6 + z.2, z.1)
         (need = .rw → gives (.frclr d a) {} [D] ws [] []) ∧
         (qn e6 = D → (need = .rd → gives (.rslv e6 a 0#1) {} [qn e6 + 3] [] colours []) ∧
          (need = .rw → gives (.rslv e6 a 1#1) {} [qn e6 + 3] ws colours [])))) ∧
      (let n := (s.v D).toNat
       let last := 16 * (t.pages + n) - 1
       let line := fun (h : Nat) => s.paOf (t.pool + 128 * h)
       need = .rw → 1 ≤ n → n ≤ 65536 → t.pages + n ≤ t.pageCap → s.Shared .rw (t.pool + 256 * t.pages) (256 * n) →
        gives (.pooladd d a p) {} [D]
          (((List.range (2 * n)).map fun h => (line (2 * t.pages + h), newNodes (2 * t.pages + h) last t.freeHead))
            ++ [fields { t with pages := t.pages + n, freeHead := max (16 * t.pages) 1,
                                freeCount := (t.freeCount + (16 * n - if t.pages = 0 then 1 else 0)) % 2 ^ 32 }])
          [(D, 0#32)] [(p, true)]) ∧
      (let counters := fun (k : Nat) => if t.pages = 0 then 0#32 else word (s.numAt (s.paOf t.pool + 4 * k) 4)
       need = .rd → t.pages = 0 ∨ s.Shared .rd t.pool 16 →
        gives (.poolst d a) {} [D + 5] []
          ([(D, word t.pages), (D + 1, word t.freeCount)] ++ (List.range 4).map fun k => (D + 2 + k, counters k)) []))

/-- R219, R220, R225 to R227, R229 to R233, R362 to R364: ISECT reads its record and begins a traversal at the start
reference, ISNEXT goes on with it; both perform one step and write its status, its result and the stack to the ray
block, entries above DEPTH as 0; ISNEXT on a block with DEPTH above 8 or a reserved bit writes END alone. TCOV writes the
mask, ZN and the status of its tile. Operands out of their limits raise ACCESS, RECORD, ENGARG; that a misaligned BVH
record raises RECORD is the model's reading (log entry 35). -/
def Obligations.VisibilityWords : Prop :=
  ∀ (s : State) (d : BitVec 8) (a : BitVec 7), s.kind ≠ .keeper →
    let at_ := s.pair (pn a)
    let D := vn d
    let word := fun (n : Nat) => BitVec.ofNat 32 n
    let st := s.v (D + 9)
    let isect := fun P => s.Does (.isect d a) {} [D + 31, pn a + 1] P
    let isnext := fun P => s.Does (.isnext d) {} [D + 31] P
    let tcov := fun P => s.Does (.tcov d) {} [D + 13] P
    let ray := fun (n : Word) (nodes : DWord) (stack : List RayEntry) => Ray.mk (s.vs D 3) (s.vs (D + 3) 3) (s.v (D + 6))
      (s.v (D + 7)) n nodes stack
    -- what a step writes
    let stepped := fun (r : Ray) (res : RayResult) =>
      let up := r.stack.reverse
      let leaves := ((List.range 8).map fun i => if (up[i]?.map RayEntry.leaf) = some true then 2 ^ (8 + i) else 0).sum
      let result := match res.entry with
        | some e => e.leaf
        | none => st.getLsbD 20
      [(D + 9, word (up.length + leaves + 2 ^ 16 * res.status + if result then 2 ^ 20 else 0))] ++
        (match res.entry with
          | some e => [(D + 10, e.ref), (D + 11, e.t)]
          | none => []) ++
        ((List.range 8).map fun i => (D + 16 + i, (up[i]?.map RayEntry.ref).getD 0#32)) ++
        (List.range 8).map fun i => (D + 24 + i, (up[i]?.map RayEntry.t).getD 0#32)
    -- ISECT
    (2 ^ 56 ≤ at_.toNat → isect fun t => t = s.takeTrap .access at_) ∧
    (at_.toNat < 2 ^ 56 → at_.toNat % 32 ≠ 0 → isect fun t => t = s.takeTrap .record at_) ∧
    (∀ r bs, at_.toNat < 2 ^ 56 → at_.toNat % 32 = 0 → s.drain.loadVA s.who 2#2 none at_.toNat 32 = .ok r bs →
      let nodes := leNat (bs.take 8)
      let n := wordIn bs 8
      let sound := nodes % 128 = 0 ∧ nodes < 2 ^ 56 ∧ 1 ≤ n.toNat ∧ n.toNat ≤ 2 ^ 31 ∧ ∀ b ∈ bs.drop 12, b = 0#8
      let record := [(D + 8, n)] ++ pairOf (D + 12) at_ ++ pairOf (D + 14) (BitVec.ofNat 64 nodes)
      (¬ sound → isect fun t => t = s.takeTrap .record at_) ∧
      (∀ u x, sound →
        r.rayRun (ray n (BitVec.ofNat 64 nodes) [{ ref := s.v (D + 10), t := s.v (D + 6), leaf := st.getLsbD 20 }]) = .ok u x →
          isect fun t => t = { u with ag := t.ag } ∧ (∀ q, t.v q = written (stepped x.1 x.2 ++ record) q (s.v q)) ∧
            t.ag.p = s.ag.p ∧ t.ag.pc = s.ag.pc + 4#64)) ∧
    -- ISNEXT
    (let depth := st.toNat % 16
     let reserved := st &&& 0xFFEC00F0#32 ≠ 0#32
     let stack := (List.range depth).reverse.map fun i =>
       ({ ref := s.v (D + 16 + i), t := s.v (D + 24 + i), leaf := st.getLsbD (8 + i) } : RayEntry)
     (8 < depth ∨ reserved → s.Gives (.isnext d) {} [D + 31] [(D + 9, (st &&& 0xFFFCFFFF#32) ||| 0x10000#32)] []) ∧
     ∀ u x, depth ≤ 8 → ¬ reserved → s.rayRun (ray (s.v (D + 8)) (s.pair (D + 14)) stack) = .ok u x →
       isnext fun t => t = { u with ag := t.ag } ∧ (∀ q, t.v q = written (stepped x.1 x.2) q (s.v q)) ∧
         t.ag.p = s.ag.p ∧ t.ag.pc = s.ag.pc + 4#64) ∧
    -- TCOV
    (let X := fun (i : Nat) => (s.v (D + 2 * i)).toInt
     let Y := fun (i : Nat) => (s.v (D + 2 * i + 1)).toInt
     let Z := fun (i : Nat) => s.v (D + 6 + i)
     let px := (s.v (D + 9)).toNat % 2 ^ 16
     let py := (s.v (D + 9)).toNat / 2 ^ 16
     let w := (s.v (D + 10)).toNat
     let fits := (∀ i < 3, -(2 ^ 23) ≤ X i ∧ X i < 2 ^ 23 ∧ -(2 ^ 23) ≤ Y i ∧ Y i < 2 ^ 23) ∧ (w = 4 ∨ w = 32 ∨ w = 256) ∧
       px % w = 0 ∧ py % w = 0 ∧ px < 32768 ∧ py < 32768
     let area := (X 1 - X 0) * (Y 2 - Y 0) - (Y 1 - Y 0) * (X 2 - X 0)
     let order := if area < 0 then [0, 2, 1] else [0, 1, 2]
     let vs := order.map fun i => (X i, Y i)
     let mask := if area = 0 then 0 else tileMask (edgesOf vs) w px py
     let owner := if w = 256 then px / 256 % 2 + 2 * (py / 256 % 2) else 0
     (¬ fits → tcov fun t => t = s.takeTrap .engArg 0#64) ∧
     (fits → s.Gives (.tcov d) {} [D + 13] [(D + 10, word mask), (D + 11, word (mask / 2 ^ 32)),
       (D + 12, tileDepth vs (order.map Z) |area| w px py mask),
       (D + 13, word ((if area < 0 then 1 else 0) + (if mask = 0 then 2 else 0) + 4 * owner))] []))

/-- R226: the box test misses no box that the exact ray meets: where a point of the ray at a distance from TMIN to TMAX
lies in a box of finite coordinates, the test answers a hit. R230 to R232: at level 4 a mask bit says exactly that its
pixel's sample is inside every edge; at levels 32 and 256 a subtile with a sample inside every edge has its bit set;
of an edge and its reverse exactly one counts a point inside; and ZN of a triangle with finite depths is at most the
depth of its plane at every sample of the tile inside it. -/
def Obligations.BoxesAndCoverage : Prop :=
  (∀ (r : Ray) (box : List Word) (x : ℚ), r.o.length = 3 → r.d.length = 3 → box.length = 6 →
      (∀ y ∈ r.tmin :: r.tmax :: r.o ++ r.d ++ box, (fval y).isFin) →
      let val := fun (ys : List Word) (i : Nat) => (fval (ys.getD i 0#32)).exact
      (fval r.tmin).exact ≤ x → x ≤ (fval r.tmax).exact →
      (∀ i < 3, val box i ≤ val r.o i + x * val r.d i ∧ val r.o i + x * val r.d i ≤ val box (3 + i)) →
        (slab r box).isSome = true) ∧
  ((∀ (es : List Edge) (px py u v : Nat), u < 4 → v < 4 →
      ((tileMask es 4 px py).testBit (4 * v + u) = true ↔
        ∀ e ∈ es, e.inside (e.at (256 * (px + u) + 128) (256 * (py + v) + 128)) = true)) ∧
    (∀ (es : List Edge) (w px py u v i j : Nat), w = 32 ∨ w = 256 → u < 8 → v < 8 → i < w / 8 → j < w / 8 →
      (∀ e ∈ es, e.inside (e.at (256 * (px + w / 8 * u + i) + 128) (256 * (py + w / 8 * v + j) + 128)) = true) →
        (tileMask es w px py).testBit (8 * v + u) = true) ∧
    (∀ (e : Edge) (x y : Int), (e.dx, e.dy) ≠ (0, 0) →
      let back : Edge := { x := e.x + e.dx, y := e.y + e.dy, dx := -e.dx, dy := -e.dy }
      (e.inside (e.at x y) = true ↔ ¬ back.inside (back.at x y) = true)) ∧
    ∀ (x0 y0 x1 y1 x2 y2 : Int) (z0 z1 z2 : Word) (w px py mask i j : Nat), mask ≠ 0 → i < w → j < w →
      let vs := [(x0, y0), (x1, y1), (x2, y2)]
      let area := (x1 - x0) * (y2 - y0) - (y1 - y0) * (x2 - x0)
      let at_ := fun (e : Edge) => e.at (256 * (px + i) + 128) (256 * (py + j) + 128)
      let e := fun (k : Nat) => at_ ((edgesOf vs).getD k ⟨0, 0, 0, 0⟩)
      let z := fun (x : Word) => (fval x).exact
      0 < area → (∀ y ∈ [z0, z1, z2], (fval y).isFin) → (∀ k < 3, 0 ≤ e k) →
        (fval (tileDepth vs [z0, z1, z2] area w px py mask)).isFin ∧
        (fval (tileDepth vs [z0, z1, z2] area w px py mask)).exact * area ≤ z z0 * e 1 + z z1 * e 2 + z z2 * e 0)

/-! ### The keeper core, hints and guards -/

/-- R179, R180, R365, R372 to R374: the words of the keeper core. EVPOP and EVPEEK write the oldest record the context may
take to four registers and set the predicate, EVPOP taking it; with none they clear it. IDLE goes on where a record is
there and parks otherwise. TREL releases the held team of its slot that its context reaches, its stopped lanes ending, and TKILL ends every
lane of a team it reaches; otherwise they clear the predicate and do nothing. In a lane or a tadpole each raises
ILLEGAL. -/
def Obligations.KeeperWords : Prop :=
  ∀ (s : State) (c n : Nat) (x : KeeperCtx) (d : BitVec 6) (a : BitVec 8) (p : BitVec 3), s.cur = .keeper c n →
    (s.core c).contexts.find? n = some x →
    let records := if x.launch = none then (s.core c).eq else x.records.take 64
    let evpop := fun P => s.Does (.evpop d p) {} [qn d + 3] P
    let evpeek := s.Gives (.evpeek d p) {} [qn d + 3]
    let word := fun (n : Nat) => BitVec.ofNat 32 n
    let shown := fun (r : EventRec) => [
      (qn d, word (r.kind % 256 + 256 * (r.ltag % 256) + 65536 * ((r.slot * 1024 + r.lane.getD 0) % 65536))),
      (qn d + 1, word ((r.src * 4096 + (if r.lane.isSome then 2048 else 0) + (if r.bar.isSome then 1024 else 0)
        + r.bar.getD 0) % 65536 + 65536 * r.status.toNat)),
      (qn d + 2, word (r.addr.toNat % 2 ^ 32)), (qn d + 3, word (r.addr.toNat / 2 ^ 32 % 2 ^ 24))]
    -- the teams of the slot the register names, by their places in the core's table
    let reached := fun (k : Nat) (t : Team) => k % 64 = (s.v (vn a)).toNat % 64 ∧ s.team c k = some t ∧ t.phase ≠ .retired ∧
      (x.launch = none ∨ x.launch = some t.launch)
    (records = [] → s.Gives (.evpop d p) {} [qn d + 3] [] [(p, false)] ∧ evpeek [] [(p, false)] ∧
      s.Does .idle {} [] fun t => t.mem = s.mem ∧ s.ag.Wrote t.ag [] [] ∧ t.ag.pc = s.ag.pc + 4#64 ∧
        t.ag.status = .parked .idle) ∧
    (∀ r rest, records = r :: rest → evpeek (shown r) [(p, true)] ∧ s.Gives .idle {} [] [] [] ∧
      evpop fun t => s.GoesOn t (shown r) [(p, true)] ∧
        (x.launch = none → (t.core c).eq = rest) ∧
        (x.launch ≠ none → (t.core c).contexts.find? n = some { x with records := x.records.drop 1 })) ∧
    ((∀ k t, ¬ reached k t) → s.Gives (.trel a p) {} [vn a] [] [(p, false)] ∧ s.Gives (.tkill a p) {} [vn a] [] [(p, false)]) ∧
    (∀ before slot others t, (s.core c).teams.map Prod.fst = before ++ slot :: others → reached slot t →
      (∀ k ∈ before, ∀ t', ¬ reached k t') →
      (t.held = false → s.Gives (.trel a p) {} [vn a] [] [(p, false)]) ∧
      (t.held = true → s.Does (.trel a p) {} [vn a] fun u => s.ag.Wrote u.ag [] [(p, true)] ∧ u.ag.pc = s.ag.pc + 4#64 ∧
        (u.team c slot).map Team.held = some false ∧
        ∀ l y, t.lanes.find? l = some y → y.status = .stopped → (u.agentAt (.lane c slot l)).map Agent.status = some .ended) ∧
      s.Does (.tkill a p) {} [vn a] fun u => s.ag.Wrote u.ag [] [(p, true)] ∧ u.ag.pc = s.ag.pc + 4#64 ∧
        ∀ l y, t.lanes.find? l = some y → (u.agentAt (.lane c slot l)).map Agent.status = some .ended) ∧
    ∀ s' : State, s'.cur ≠ .none → s'.kind ≠ .keeper → ∀ i ∈ [.evpop d p, .evpeek d p, .trel a p, .tkill a p, .idle],
      exec i s' = .next (s'.takeTrap .illegal ((encode i).setWidth 64))

/-! ### Bring-up and the throttle -/

/-- R32, R39, R42, R74: power-on leads to the self-test with no die staged and nothing on the dies; each row started, its
sixteen cores clocked at BTS, is counted, the tenth row of a die with trained stacks stages the die, the fourth die
leads to fetch; a die without its power fails with
0x05, stacks that do not train with 0x06. R37 to R42, R44, R50: in the fetch phase a failed attempt is
counted, the third one moves to the other source, and a second failed source ends in FAILED 0x04; records that verify
are measured, their caps clamped, and open the device, and others fail with the code of their check; GO counts for the
host source alone. A restart in OPEN stops every launch and returns to fetch; in FAILED it runs bring-up again unless
a trip is still hot; elsewhere it is discarded. The model's choices and readings: the order of a record's checks and the
digest over the whole of it (log entry 57); ROWS, a row without power and when GO acts (58); that power-on keeps host
memory (59); that a refused firmware record leaves the caps as they were (81); what a restart keeps (82). -/
def Obligations.BringUp : Prop :=
  (∀ s : State,
      let c := s.smc
      let staged := fun (rows : Nat) (trained : Bool) (t : State) =>
        if rows = 10 ∧ trained = true then
          t.smc.dieSup = c.dieSup ||| (1#4 <<< c.stagingDie) ∧ t.smc.stagingDie = c.stagingDie + 1 ∧ t.smc.trained = false ∧
            (c.stagingDie < 3 → t.smc.phase = 2#4 ∧ t.smc.rows = 0#8) ∧
            (3 ≤ c.stagingDie → t.smc.phase = 3#4 ∧ t.smc.rows = 10#8)
        else t.smc.phase = 2#4 ∧ t.smc.rows = BitVec.ofNat 8 rows ∧ t.smc.trained = trained ∧ t.smc.dieSup = c.dieSup
      s.Answers .powerOn (fun t => t.smc.phase = 1#4 ∧ t.smc.fail = 0#8 ∧ t.smc.dieSup = 0#4 ∧ t.smc.rows = 0#8 ∧
        t.smc.hostSource = Config.bootselHost ∧ t.cores = [] ∧ t.launches = [] ∧ t.queues = [] ∧ t.bts = 0#64 ∧
        ∀ a, paRange a = .host → t.byteAt a = s.byteAt a) ∧
      (c.phase = 1#4 ∨ c.phase = 2#4 → c.rows.toNat < 10 →
        s.Answers .rowStart fun t => staged (c.rows.toNat + 1) c.trained t ∧ t.mem = s.mem ∧
          ∀ k, if k / 16 = 10 * c.stagingDie + c.rows.toNat then (t.core k).started = true ∧ (t.core k).pts = s.bts
            else t.core k = s.core k) ∧
      (c.phase = 1#4 ∨ c.phase = 2#4 → c.rows.toNat ≤ 10 →
        s.Answers (.hbmTrained .trained) (fun t => staged c.rows.toNat true t ∧ t.mem = s.mem ∧ t.cores = s.cores) ∧
        s.Answers (.hbmTrained .untrained) (fun t => t.smc.phase = 15#4 ∧ t.smc.fail = 6#8 ∧ t.mem = s.mem) ∧
        s.Answers (.hbmTrained .unpowered) fun t => t.smc.phase = 15#4 ∧ t.smc.fail = 5#8 ∧ t.mem = s.mem ∧ t.cores = s.cores) ∧
      (c.phase ≠ 1#4 → c.phase ≠ 2#4 → s.Answers .rowStart (· = s) ∧ ∀ r, s.Answers (.hbmTrained r) (· = s))) ∧
  (∀ (s : State) (cfg fw : List Byte) (firmware : Bool) (off : Nat) (bytes : List Byte),
      let c := s.smc
      let body := recBody cfg
      let code := if recVerdict 2 body cfg ≠ 0#8 then recVerdict 2 body cfg else recVerdict 1 body fw
      let boots := fun (cfg fw : List Byte) (code : BitVec 8) (body : List Byte) (t : State) =>
        (code ≠ 0#8 → t.smc.phase = 15#4 ∧ t.smc.fail = code) ∧
        (code = 0#8 → t.smc.phase = 6#4 ∧ t.smc.measConfig = digest cfg ∧ t.smc.measFirmware = digest fw ∧
          t.smc.capHost.toNat = min 2800 (max 1200 (leNat ((body.drop 8).take 2))) ∧ t.smc.capMgmt = t.smc.capHost ∧
          t.smc.deepEn = Nat.testBit (leNat ((body.drop 4).take 4)) 0)
      (c.phase = 3#4 →
        (s.Answers (.bootRecordFetched firmware none) fun t => t.mem = s.mem ∧
          (c.fetchFails < 2 → t.smc.fetchFails = c.fetchFails + 1 ∧ t.smc.hostSource = c.hostSource ∧ t.smc.phase = 3#4) ∧
          (2 ≤ c.fetchFails → t.smc.hostSource = !c.hostSource ∧ t.smc.sourcesFailed = c.sourcesFailed + 1 ∧
            (c.sourcesFailed = 0 → t.smc.phase = 3#4 ∧ t.smc.fetchFails = 0) ∧
            (0 < c.sourcesFailed → t.smc.phase = 15#4 ∧ t.smc.fail = 4#8))) ∧
        (c.hostSource = false →
          s.Answers (.bootRecordFetched false (some cfg)) (fun t => t = { s with smc := { c with fetched := some cfg } }) ∧
          (c.fetched = some cfg →
            s.Answers (.bootRecordFetched true (some fw)) fun t => boots cfg fw code body t ∧ t.mem = s.mem)) ∧
        (c.hostSource = true →
          s.Answers (.bootRecordFetched firmware (some cfg)) (· = s) ∧
          (cfg = windowRecord s.cfgWin 4096 → fw = windowRecord s.fwWin (2 ^ 27) →
            s.Answers .bootctlGo fun t => boots cfg fw code body t ∧ t.mem = s.mem))) ∧
      ((c.phase ≠ 3#4 ∨ c.hostSource = false) → s.Answers .bootctlGo (· = s)) ∧
      (c.phase = 6#4 → s.Answers .bootctlRestart fun t => t.smc.phase = 3#4 ∧ t.smc.fail = c.fail ∧
        t.smc.dieSup = c.dieSup ∧ t.smc.spdm = [] ∧ ∀ n l, t.launch n = some l → l.stopped = true) ∧
      (c.phase = 15#4 →
        (c.fail = 7#8 → 95 ≤ c.tMax.toNat → s.Answers .bootctlRestart (· = s)) ∧
        (c.fail ≠ 7#8 ∨ c.tMax.toNat < 95 → s.Answers .bootctlRestart fun t => t.smc.phase = 1#4 ∧ t.smc.fail = 0#8 ∧
          t.smc.dieSup = 0#4 ∧ t.cores = [])) ∧
      (c.phase ≠ 6#4 → c.phase ≠ 15#4 → s.Answers .bootctlRestart (· = s)) ∧
      (c.phase.toNat ≤ 3 → c.hostSource = true → s.Answers (.bootStagingWrite firmware off bytes) fun t => t.mem = s.mem ∧
        (firmware = true → t.cfgWin = s.cfgWin) ∧ (firmware = false → t.fwWin = s.fwWin) ∧
        ∀ x, NMap.get 0#8 (if firmware then t.fwWin else t.cfgWin) x =
          if off ≤ x ∧ x < off + bytes.length ∧ x < (if firmware then 2 ^ 27 else 4096) then bytes.getD (x - off) 0#8
          else NMap.get 0#8 (if firmware then s.fwWin else s.cfgWin) x) ∧
      (3 < c.phase.toNat ∨ c.hostSource = false → s.Answers (.bootStagingWrite firmware off bytes) (· = s)))

/-- R27 to R30, R42: the effective step is the largest of TSTEP, PSTEP and FLOOR, and a change takes effect as one; TSTEP
rises to the step a temperature reaches and falls by one 3 °C below the threshold of the step; the trip ends in FAILED 0x07
with the dies off; a window above the smaller cap raises PSTEP, ten in a row below 95 % of it lower PSTEP; a cap is
clamped to 1,200 to 2,800 W, a floor above 4 is 4. Two clauses are the model's: the clamp is that of the whole word (log
entry 84), and PWR_NOW is the average rounded down to whole watts (log entry 83). -/
def Obligations.ThrottleSteps : Prop :=
  ∀ (s : State) (hot tMax hbm : BitVec 8) (mw : Nat) (mgmt : Bool) (v : Word),
    let c := s.smc
    let off := min 20 (leNat ((c.config.drop 10).take 2))
    let t := tMax.toNat + off
    let reached := (if 95 ≤ t then 1 else 0) + (if 98 ≤ t then 1 else 0) + (if 101 ≤ t then 1 else 0) +
      (if 104 ≤ t then 1 else 0)
    let now := c.tStep.toNat
    let cap := min c.capHost.toNat c.capMgmt.toNat
    s.Answers .stepRecompute (fun u => u = { s with smc := { c with nextStep := u.smc.nextStep } } ∧
      u.smc.nextStep.toNat = max c.tStep.toNat (max c.pStep.toNat c.floor.toNat)) ∧
    s.Answers .stepChange (fun u => u.smc = { c with step := c.nextStep } ∧ u.mem = s.mem ∧ u.cores = s.cores ∧
      (c.nextStep ≠ c.step → u.cmd.intStat.getLsbD 5 = true) ∧ (c.nextStep = c.step → u = s)) ∧
    (now ≤ 4 → s.Answers (.thermalSample hot tMax hbm) fun u =>
      u.smc.hotDie = hot ∧ u.smc.tMax = tMax ∧ u.smc.hbmMax = hbm ∧
      u.smc.tStep.toNat = (if now < reached then reached
        else if 1 ≤ now ∧ t + 3 ≤ 92 + 3 * now then now - 1 else now) ∧
      (110 ≤ t → (c.phase ≠ 15#4 ∨ c.fail ≠ 7#8) → u.smc.phase = 15#4 ∧ u.smc.fail = 7#8 ∧ u.smc.dieSup = 0#4 ∧
        u.cores = [] ∧ ∀ e ∈ u.launches, e.2.stopped = true) ∧
      (t < 110 → u.smc.phase = c.phase ∧ u.cores = s.cores ∧ u.launches = s.launches ∧ u.mem = s.mem)) ∧
    (c.pStep.toNat ≤ 4 → s.Answers (.powerWindowEnd mw) fun u => u = { s with smc := u.smc } ∧
      u.smc.pwrNow = BitVec.ofNat 32 (mw / 1000) ∧
      (cap * 1000 < mw → u.smc.pStep.toNat = min 4 (c.pStep.toNat + 1) ∧ u.smc.below = 0) ∧
      (mw * 100 < 95 * (cap * 1000) →
        (c.below < 9 → u.smc.pStep = c.pStep ∧ u.smc.below = c.below + 1) ∧
        (9 ≤ c.below → u.smc.pStep.toNat = c.pStep.toNat - 1 ∧ u.smc.below = 0)) ∧
      (mw ≤ cap * 1000 → 95 * (cap * 1000) ≤ mw * 100 → u.smc.pStep = c.pStep ∧ u.smc.below = 0)) ∧
    (c.phase = 6#4 →
      s.Answers (.pwrCapWrite mgmt v) (fun u => u = { s with smc := u.smc } ∧
        (if mgmt then u.smc = { c with capMgmt := u.smc.capMgmt } else u.smc = { c with capHost := u.smc.capHost }) ∧
        (if mgmt then u.smc.capMgmt else u.smc.capHost).toNat = min 2800 (max 1200 v.toNat)) ∧
      s.Answers (.floorWrite v) fun u => u = { s with smc := { c with floor := u.smc.floor } } ∧
        u.smc.floor.toNat = min 4 (v.toNat / 16 % 16)) ∧
    (c.phase ≠ 6#4 → s.Answers (.pwrCapWrite mgmt v) (· = s) ∧ s.Answers (.floorWrite v) (· = s))

/-! ### Management, registers, host and peers -/

/-- R35, R42 to R44: IDENT and STATUS answer in every phase with the registers R43 lists; REGRD and REGWR answer LOCKED
where R40 and R44 forbid them, REGRD of a register that R42 marks with a dash outside the owner's session among these,
and CODE 2 for an offset that is no multiple of 4 or lies beyond the block; an aligned offset of the block without a register
reads 0 (log entry 60). A payload of another length and a TYPE that R43 does not list answer 1, before anything else is
looked at (log entry 43). The ten SPDM requests are each answered along the
path they came by, on the management port in datagrams of TYPE 5 with the SEQ of the request; KEY_EXCHANGE and FINISH
move the session on in phase OPEN alone, the requester being the owner where the key it has proved hashes to OWNER_HASH;
the algorithms, the leaf, the measurements of the indices asked for and what is not supported are shown by the answer,
whose other bytes are the model's free value (log entries 4, 43). -/
def Obligations.ManagementPort : Prop :=
  ∀ (s : State) (seq : Nat) (other : Option (Fin 251)) (path : MctpPath) (q : List Byte),
    let c := s.smc
    let type := match other with
      | none => 1
      | some n => if n.val = 0 then 0 else n.val + 5
    let word := fun (w : Nat) => leBytes 4 w
    let datagram := fun (type seq code : Nat) (payload : List Byte) =>
      leBytes 1 type ++ [1#8] ++ leBytes 2 seq ++ leBytes 2 code ++ leBytes 2 payload.length ++ payload
    let answered := fun (u : State) (type code : Nat) (payload : List Byte) =>
      { u with mgmtOut := u.mgmtOut ++ [{ port := 0, seq := seq, body := datagram type seq code payload }] }
    let bringup := c.fail.toNat * 2 ^ 24 + c.dieSup.toNat * 2 ^ 16 + c.rows.toNat * 2 ^ 8 + c.phase.toNat
    let therm := c.hotDie.toNat * 2 ^ 24 + c.tMax.toNat * 2 ^ 8 + c.hbmMax.toNat
    let throttle := c.pStep.toNat * 4096 + c.tStep.toNat * 256 + c.floor.toNat * 16 + c.step.toNat
    let serials := (List.range 5).flatMap fun n => (digest (Config.pufOutput n)).take 16
    let dik := (List.range 96).map Config.dikPub
    let meas := (List.range 48).map Config.measRom ++ c.measConfig ++ c.measFirmware
    let ownerHash := (c.config.drop 276).take 48
    let owner := c.phase = 6#4 ∧ (∃ b ∈ ownerHash, b ≠ 0#8) ∧ (s.spdm 0).session = 2 ∧ (s.spdm 0).owner = true
    let closed := fun (off : Nat) => off = 0x014 ∨ off = 0x018 ∨ off = 0x020
    let good := fun (off : Nat) => off % 4 = 0 ∧ off < 4096
    let off := leNat q
    let dst := leNat (q.take 4)
    let value := BitVec.ofNat 32 (leNat (q.drop 4))
    let regwr := fun (t : State) => ∀ offset value, offset ++ value = q → exec (.regwr seq offset value) s = .next t
    (q = [] → exec (.ident { seq := seq, payload := q }) s = .next (answered s 1 0
        (word 0x4480 ++ word (Config.identRev.toNat % 256) ++ serials ++ dik ++ meas)) ∧
      exec (.status { seq := seq, payload := q }) s = .next (answered s 2 0 (word bringup ++ word therm ++ word throttle ++ word c.pwrNow.toNat))) ∧
    (q ≠ [] ∨ other ≠ none →
      exec (.ident { other := other, seq := seq, payload := q }) s = .next (answered s type 1 [])) ∧
    (q ≠ [] → exec (.status { seq := seq, payload := q }) s = .next (answered s 2 1 [])) ∧
    (q.length ≠ 4 → exec (.regrd seq q) s = .next (answered s 3 1 [])) ∧
    (q.length = 4 → c.phase ≠ 6#4 ∨ (closed off ∧ ¬owner) → exec (.regrd seq q) s = .next (answered s 3 3 [])) ∧
    (q.length = 4 → c.phase = 6#4 → (¬closed off ∨ owner) →
      (¬good off → exec (.regrd seq q) s = .next (answered s 3 2 [])) ∧
      (good off → exec (.regrd seq q) s = .next (answered s 3 0 (word (s.smcRead off).toNat)))) ∧
    (q.length ≠ 8 → regwr (answered s 4 1 [])) ∧
    (q.length = 8 → ¬owner → regwr (answered s 4 3 [])) ∧
    (q.length = 8 → owner → ¬good dst → regwr (answered s 4 2 [])) ∧
    (q.length = 8 → owner → good dst → regwr (answered (s.smcWrite dst value) 4 0 [])) ∧
    -- SPDM
    let port := match path with
      | .host => 1
      | .mgmt _ => 0
    let p := s.spdm port
    let is_open := c.phase = 6#4
    let sent := fun (bytes : List Byte) (shows : List SpdmFact) (out : List MgmtAnswer) =>
      match path with
      | .host => out = [{ port := 1, seq := 0, body := bytes, shows := shows }]
      | .mgmt n => ∃ bs : List (List Byte), bs ≠ [] ∧ bs.flatten = bytes ∧ (∀ b ∈ bs, b.length ≤ 1024) ∧
          out = bs.map fun b => { port := 0, seq := n, body := datagram 5 n 0 b, shows := shows }
    let spdm := fun (i : Instr) (n : Nat) (x : Spdm) (shows : List SpdmFact) =>
      (∀ k, path = .mgmt k → 1024 < q.length → exec i s = .next
        { s with mgmtOut := s.mgmtOut ++ [{ port := 0, seq := k, body := datagram 5 k 1 [] }] }) ∧
      (path = .host ∨ q.length ≤ 1024 → s.Answers i fun t => ∃ out, sent (Config.spdmAnswer n s.free shows q) shows out ∧
        t = { s with smc := { c with spdm := c.spdm.put port { x with answered := p.answered + 1 } },
                     mgmtOut := s.mgmtOut ++ out, free := s.free + 1 })
    let measured := fun (i : Nat) => SpdmFact.measurement i ((meas.drop (48 * (i - 1))).take 48)
    let asked := (q.getD 3 0#8).toNat
    spdm (.getVersion path q) 0 { p with versionSent := true } [] ∧
    spdm (.getCapabilities path q) 1 { p with capabilitiesSent := true } [] ∧
    spdm (.negotiateAlgorithms path q) 2 { p with negotiated := true } [.algorithms Config.vendorId 1] ∧
    spdm (.getDigests path q) 3 p [.leaf dik] ∧ spdm (.getCertificate path q) 4 p [.leaf dik] ∧
    spdm (.challenge path q) 5 p [.signed dik] ∧
    spdm (.getMeasurements path q) 6 p (if asked = 0 then [.count 3] else if asked = 255 then [1, 2, 3].map measured
      else if asked ≤ 3 then [measured asked] else [.unsupported]) ∧
    (is_open → spdm (.keyExchange path q) 7 { p with session := 1, owner := false } [.leaf dik] ∧
      spdm (.finish path q) 8 (if p.session = 1 ∧ Config.spdmAuthentic s.free q = true then
        { p with session := 2, owner := digest (Config.requesterKey s.free q) == ownerHash } else p) [] ∧
      spdm (.securedMessage path q) 9 p (if p.session = 2 then [] else [.unsupported])) ∧
    (¬is_open → spdm (.keyExchange path q) 7 p [.unsupported] ∧ spdm (.finish path q) 8 p [.unsupported] ∧
      spdm (.securedMessage path q) 9 p [.unsupported])

/-- R9, R40, R42, R49 to R53, R83, R124, R140: what a write of a register of the BAR stores reads back through the bits the
register has, and no other register changes with it; writing 1 clears a bit of INT_STAT; read-only registers, offsets
outside every window and, before OPEN, all registers but BOOTCTL discard the write; BOOTCTL's two bits act in the phase in
which they are written, RESTART in OPEN or FAILED alone (R41). The model's choices: an offset that is no multiple of 4 reads
0 and takes no write (log entry 85); the boot staging windows are no registers, their bytes come by the host's own writes
(log entry 71). -/
def Obligations.RegisterFile : Prop :=
  ∀ (s : State) (n : Nat) (v : Word),
    let plain := fun (off : Nat) (mask : Word) => s.Answers (.registerWrite off v) fun t => t.mem = s.mem ∧
      t.readReg off = v &&& mask ∧ ∀ o, o ≠ off → t.readReg o = s.readReg o
    let discards := fun (off : Nat) => s.Answers (.registerWrite off v) (· = s)
    (s.smc.phase = 6#4 →
      plain 0x20 1#32 ∧ plain 0x102004 0xFFFFF#32 ∧ plain 0x102010 0xFFFFF001#32 ∧ plain 0x102020 0xFFFFF00E#32 ∧
      plain 0x103004 0x3F#32 ∧
      (n < 32 → plain (0x201000 + 4 * n) 0xFFFFFFFF#32) ∧
      (n < 64 → plain (0x101000 + 8 * n) 0xFFF00001#32 ∧ plain (0x101004 + 8 * n) 0xFFFFF#32 ∧
        ((s.aperture n).state = .off → plain (0x200008 + 0x40 * n) 0x03FF0FFF#32) ∧
        ((s.aperture n).state ≠ .off → discards (0x200008 + 0x40 * n)) ∧
        discards (0x100014 + 0x40 * n)) ∧
      (s.Answers (.registerWrite 0x103000 v) fun t => t.mem = s.mem ∧ t.readReg 0x103000 = s.readReg 0x103000 &&& ~~~v ∧
        ∀ o, o ≠ 0x103000 → t.readReg o = s.readReg o) ∧
      discards 0x000 ∧ discards 0x008 ∧ discards 0x102008 ∧ discards 0x102028) ∧
    (n % 4 ≠ 0 ∨ 0x10000000 ≤ n → discards n ∧ s.readReg n = 0#32) ∧
    (s.smc.phase ≠ 6#4 → n ≠ 0x24 → discards n) ∧
    (v.getLsbD 1 = true → s.smc.phase = 6#4 ∨ s.smc.phase = 15#4 →
      exec (.registerWrite 0x24 v) s = exec .bootctlRestart s) ∧
    (v.getLsbD 0 = true → s.smc.phase ≠ 6#4 → s.smc.phase ≠ 15#4 → exec (.registerWrite 0x24 v) s = exec .bootctlGo s) ∧
    (v.getLsbD 0 = false → v.getLsbD 1 = false ∨ (s.smc.phase ≠ 6#4 ∧ s.smc.phase ≠ 15#4) → discards 0x24)

/-- R45, R48, R52, R55: in phase OPEN the host reads and writes local memory through the memory BAR at HOST_WIN.BASE plus
the offset, through CXL.mem, where CXL is active on port 0, at the offset, and performs atomics through the BAR; a peer
that the bitmap admits does all three at its address, the operations that devices ship among its atomics. Beyond local
memory a read or atomic completes with an error and a write is discarded, reported through AER where it is the host's;
before OPEN reads give 0. An atomic that is misaligned or of another size completes with an error and stores nothing, a
peer's request beyond local memory completes with an error (both the model's choice, log entry 77). The model's choices too: the decoder of CXL.mem starts at address 0, an atomic that
reaches no memory is reported as a write, zeros answer CXL.mem before OPEN (log entry 78), and a read of poison completes
with an error (log entry 62). A peer not admitted
has an error completion and counts in IN_REJECT. Where no engine owns a line the bytes are those of memory, and exactly
the stored bytes change. -/
def Obligations.HostAndPeers : Prop :=
  ∀ (s : State) (path : HostPath) (pa off size tag accel : Nat) (bytes : List Byte) (a : HostAtomic),
    let wide := 2 ^ s.barLog2
    let throughBar := s.hostWin.toNat * 2 ^ 28 / wide * wide + off % wide
    let reached := match path with
      | .bar => throughBar
      | .cxlMem => off
    let addr : HostAddr := { path := path, offset := off }
    let there := path = .bar ∨ (NMap.get {} s.hostPorts 0 : HostPort).cxl = true
    let admitted := accel < 1024 ∧ (NMap.get 0#32 s.allow (accel / 32)).getLsbD (accel % 32) = true
    let free := ∀ line, (s.l2Line line).owner = none
    let old := s.numAt pa a.size
    let x := a.operand.toNat % 2 ^ (8 * a.size)
    let y := a.compare.toNat % 2 ^ (8 * a.size)
    let given := match a.kind with
      | .fetchAdd => (old + a.operand.toNat) % 2 ^ (8 * a.size)
      | .swap => x
      | .cas => if old = y then x else old
      | .shipped float op => atomValue float op a.size old x y % 2 ^ (8 * a.size)
    let offered := match a.kind with
      | .cas => a.size = 4 ∨ a.size = 8 ∨ a.size = 16
      | .shipped _ _ => False
      | _ => a.size = 4 ∨ a.size = 8
    let shipped := match a.kind with
      | .shipped _ op => a.size = 4 ∨ a.size = 8 ∨ (a.size = 16 ∧ op = 9) ∨ (a.size = 1 ∧ op = 14)
      | _ => False
    let placed := pa % a.size = 0 ∧ pa + a.size ≤ 2 ^ 39
    let stored := fun (t : State) (bs : List Byte) =>
      ∀ x, t.byteAt x = if pa ≤ x ∧ x < pa + bs.length then bs.getD (x - pa) 0#8 else s.byteAt x
    let host := fun (i : Instr) (error : Bool) (bs : List Byte) (P : State → Prop) => s.Answers i fun t =>
      t.hostOut = s.hostOut ++ [{ agent := 0, tag := tag, error := error, bytes := bs }] ∧ P t
    let peer := fun (q : PeerRequest) (error : Bool) (bs : List Byte) (P : State → Prop) =>
      s.Answers (.peerInbound accel q) fun t =>
        t.peerOut = s.peerOut ++ [{ agent := accel, tag := tag, error := error, bytes := bs }] ∧ P t
    let same := fun (t : State) => t.mem = s.mem ∧ t.aer = s.aer
    let reported := fun (write : Bool) (t : State) => t.mem = s.mem ∧ t.aer = s.aer ++ [{ write := write, addr := pa }]
    let bad := fun (n : Nat) => (s.firstPoison pa n).isSome
    (¬there → s.Answers (.hostMemRead addr size tag) (· = s) ∧ s.Answers (.hostMemWrite addr bytes) (· = s)) ∧
    (s.smc.phase ≠ 6#4 →
      (there → host (.hostMemRead addr size tag) false (List.replicate size 0#8) same) ∧
      host (.hostAtomicop a off tag) false (List.replicate a.size 0#8) same ∧
      s.Answers (.hostMemWrite addr bytes) (· = s)) ∧
    (s.smc.phase = 6#4 → there → pa = reached →
      (2 ^ 39 < pa + size → host (.hostMemRead addr size tag) true [] (reported false)) ∧
      (2 ^ 39 < pa + bytes.length →
        s.Answers (.hostMemWrite addr bytes) fun t => t = { s with aer := s.aer ++ [{ write := true, addr := pa }] }) ∧
      (free →
        (pa + size ≤ 2 ^ 39 → host (.hostMemRead addr size tag) (bad size) (s.bytesAt pa size) same) ∧
        (pa + bytes.length ≤ 2 ^ 39 → s.Answers (.hostMemWrite addr bytes) fun t => stored t bytes ∧ t.aer = s.aer))) ∧
    (s.smc.phase = 6#4 → pa = throughBar →
      (2 ^ 39 < pa + a.size → host (.hostAtomicop a off tag) true [] (reported true)) ∧
      (pa + a.size ≤ 2 ^ 39 → ¬(offered ∧ placed) → host (.hostAtomicop a off tag) true [] same) ∧
      (free → offered → placed →
        host (.hostAtomicop a off tag) (bad a.size) (leBytes a.size old) (stored · (leBytes a.size given)))) ∧
    (¬admitted → ∀ q, peerTag q = tag → peer q true [] fun t => same t ∧
      t.inReject.toNat = min (2 ^ 32 - 1) (s.inReject.toNat + 1)) ∧
    (admitted →
      (2 ^ 39 < pa + size → peer (.read pa size tag) true [] same) ∧
      (2 ^ 39 < pa + bytes.length → peer (.write pa bytes tag) true [] same) ∧
      (¬((offered ∨ shipped) ∧ placed) → peer (.atomic pa a tag) true [] same) ∧
      (free →
        (pa + size ≤ 2 ^ 39 → peer (.read pa size tag) (bad size) (s.bytesAt pa size) same) ∧
        (pa + bytes.length ≤ 2 ^ 39 → peer (.write pa bytes tag) false [] (stored · bytes)) ∧
        (offered ∨ shipped → placed →
          peer (.atomic pa a tag) (bad a.size) (leBytes a.size old) (stored · (leBytes a.size given)))))

/-! ### Apertures and links -/

/-- R53 to R57, R59: an aperture that is OFF with a port opens; an access is accepted where STATE is OPEN, its stamp is
GEN and an allowed port is up, and goes on to the accelerator at RBASE + x, and is otherwise refused, counted, and
never forwarded; retirement drains, then raises
GEN and fences once no accepted access is out, the last completion or the time limit ending the drain, and is OFF once
no access is left in a network. R51, R59, R140: a port that loses or gains its link changes UP, or WIDTH, SPEED and
CXL, and sets INT_STAT.LINK, CXL
running on port 0 alone and not on a link that has trained without it, the memory BAR sized where the first link comes
up (the model's choice, log entry 78); a failed die-to-die link sets FAILED and stops every launch with a resident team; replays
count, saturating. That a completion is cut or filled up to its length, that the dies' shadows change at once and that a
refusal for want of a port counts is the model's reading (log entry 62). -/
def Obligations.AperturesAndLinks : Prop :=
  (∀ (s : State) (n x : Nat) (a : NetAccess) (bytes : List Byte),
      let k := s.aperture n
      let window := 2 ^ (k.size.toNat + 12)
      let others := fun (t : State) => ∀ m, m ≠ n → t.aperture m = s.aperture m
      let fenced := fun (t : State) => (t.aperture n).state = .fencing ∧ (t.aperture n).gen = k.gen + 1#8 ∧
        (t.aperture n).shadowGen = k.gen + 1#8
      let up := ∃ i < 12, k.ports.getLsbD i = true ∧ (NMap.get {} s.peerPorts i : PeerPort).up = true
      (s.smc.phase = 6#4 → n < 64 →
        (k.state = .off → k.ports ≠ 0#12 → s.Answers (.apertureEn n) fun t => others t ∧ t.mem = s.mem ∧ t.net = s.net ∧
          t.aperture n = { k with state := .open_, shadowState := .open_, shadowGen := k.gen }) ∧
        (k.state ≠ .off ∨ k.ports = 0#12 → s.Answers (.apertureEn n) (· = s)) ∧
        (k.state = .open_ → s.Answers (.apertureRetire n) fun t => others t ∧ t.mem = s.mem ∧ t.net = s.net ∧
          (s.acceptedOf n ≠ [] → (t.aperture n).state = .draining ∧ (t.aperture n).gen = k.gen) ∧
          (s.acceptedOf n = [] → fenced t)) ∧
        (k.state ≠ .open_ → s.Answers (.apertureRetire n) (· = s))) ∧
      (s.net.find? x = some a → a.aperture = n → a.phase = .inNetwork →
        (k.state = .open_ → a.stamp = k.gen → up → s.Answers (.peerAccessArrive x) fun t =>
          t = { s with net := s.net.put x { a with
            phase := .accepted, accel := k.accel, remote := k.rbase.toNat / window * window + a.offset } }) ∧
        (¬(k.state = .open_ ∧ a.stamp = k.gen ∧ up) → s.Answers (.peerAccessArrive x) fun t => others t ∧
          (t.aperture n).refused.toNat = min 65535 (k.refused.toNat + 1) ∧ (t.aperture n).state = k.state ∧
          ∀ y, t.net.find? x = some y → y.phase ≠ .inNetwork ∧ y.phase ≠ .accepted)) ∧
      (s.net.find? x = some a → a.aperture = n → a.phase = .accepted →
        s.Answers (.peerCompletion x bytes) fun t => others t ∧ t.mem = s.mem ∧
          (∀ y, t.net.find? x = some y → ∃ bs, y.phase = .done bs ∧ ∀ m, a.kind = .load m → bs.length = m ∧
            ∀ i < min m bytes.length, bs[i]? = bytes[i]?) ∧
          (k.state = .draining → t.acceptedOf n = [] → fenced t) ∧
          (k.state ≠ .draining ∨ t.acceptedOf n ≠ [] → t.aperture n = k)) ∧
      (k.state = .draining → s.Answers (.retireTimeout n) fun t => others t ∧
        (∀ y b, t.net.find? y = some b → b.aperture = n → b.phase ≠ .accepted) ∧ (t.acceptedOf n = [] → fenced t)) ∧
      (k.state = .fencing →
        ((∀ e ∈ s.net, e.2.aperture = n → e.2.phase = .inNetwork → e.2.stamp = k.gen) → s.Answers (.retireFenced n) fun t => others t ∧
          t.aperture n = { k with state := .off, shadowState := .off } ∧ t.mem = s.mem ∧ t.net = s.net) ∧
        ((∃ e ∈ s.net, e.2.aperture = n ∧ e.2.phase = .inNetwork ∧ e.2.stamp ≠ k.gen) → s.Answers (.retireFenced n) (· = s)))) ∧
  (∀ (s : State) (n : Nat) (b : Bool) (width : BitVec 4) (speed : BitVec 3),
      let peer := fun (t : State) (n : Nat) => (NMap.get {} t.peerPorts n : PeerPort)
      let host := fun (t : State) (n : Nat) => (NMap.get {} t.hostPorts n : HostPort)
      let trained := b && n == 0 && ((host s n).width == 0#4 || (host s n).cxl)
      let i := if b then Instr.ualinkPortUp n else .ualinkPortDown n
      (n < 12 → s.Answers i fun t => peer t n = { peer s n with up := b } ∧ (∀ m, m ≠ n → peer t m = peer s m) ∧
        t.mem = s.mem ∧ ((peer s n).up ≠ b → t.cmd.intStat.getLsbD 4 = true)) ∧
      (n < 2 →
        (s.Answers (.hostPortDown n) fun t => host t n = { host s n with width := 0#4, speed := 0#3, cxl := false } ∧
          (∀ m, m ≠ n → host t m = host s m) ∧ t.mem = s.mem ∧ ((host s n).width ≠ 0#4 → t.cmd.intStat.getLsbD 4 = true)) ∧
        (1 ≤ width.toNat → width.toNat ≤ 5 → speed ≠ 0#3 → s.Answers (.hostPortUp n width speed b) fun t =>
          host t n = { host s n with width := width, speed := speed, cxl := trained } ∧
          (∀ m, m ≠ n → host t m = host s m) ∧ t.mem = s.mem ∧ ((host s n).width = 0#4 → t.cmd.intStat.getLsbD 4 = true) ∧
          ((host s 0).width = 0#4 → (host s 1).width = 0#4 → 30 ≤ t.barLog2 ∧ t.barLog2 ≤ 39) ∧
          ((host s 0).width ≠ 0#4 ∨ (host s 1).width ≠ 0#4 → t.barLog2 = s.barLog2))) ∧
      (s.Answers (.ucieFlitFail n) fun t => t.d2dFailed = true ∧ t.cmd.intStat.getLsbD 4 = true ∧
        ∀ m l, s.launch m = some l → s.resident m = true → ∃ r, t.launch m = some r ∧ r.stopped = true) ∧
      (n < 12 → s.Answers (.linkReplay (.ualink n)) fun t => t = { s with peerPorts := t.peerPorts } ∧
        (peer t n).retry.toNat = min 65535 ((peer s n).retry.toNat + 1) ∧ (peer t n).up = (peer s n).up) ∧
      (n < 2 → s.Answers (.linkReplay (.host n)) fun t => t = { s with hostPorts := t.hostPorts } ∧
        (host t n).corr.toNat = min 65535 ((host s n).corr.toNat + 1) ∧ (host t n).width = (host s n).width) ∧
      s.Answers (.linkReplay .dieToDie) fun t => t = { s with d2dRetry := t.d2dRetry } ∧
        t.d2dRetry.toNat = min 65535 (s.d2dRetry.toNat + 1))

/-! ### The memory system's events -/

/-- R65, R66, R69, R74, R79: an activation raises its row's count, and the one that reaches the threshold promotes the row
once in a window, changing no data and no timestamp; the end of the window clears the counts of the stack and its pins; a
patrol scrub changes nothing (the model's reading, log entry 61); a lease that has ended unmoors its line, whose class is then normal; a tick raises BTS by 1 and
the pts of every core by 1, to BTS at least. R124, R134: where no translation of a page is cached, the four-level walk
finds its leaf, of 1 GiB, 2 MiB, 4 KiB or as one of sixteen entries of a 64 KiB page, or refuses it for the permission it
lacks or its layout (a misaligned PPN or a broken group of 64 KiB: the model's reading, log entry 36); it sets ACC, and DIRTY for a write, in that entry and changes no other byte, and the translation
found stays. Nothing translates in a space whose root is not valid. -/
def Obligations.MemoryEvents : Prop :=
  (∀ (s : State) (asid va : Nat) (need : Need),
    let root := s.ptroot asid
    let entry := fun (a : Nat) => s.numAt a 8
    let next := fun (x : Nat) => x / 4096 * 4096
    let table := fun (x : Nat) => x % 4096 = 1 ∧ x < 2 ^ 52
    let leaf := fun (x : Nat) => x % 4 = 3 ∧ x / 2048 % 2 = 0 ∧ x < 2 ^ 52
    let p64 := fun (x : Nat) => x / 1024 % 2 = 1
    let a3 := root.root.toNat + 8 * (va / 2 ^ 39 % 2 ^ 17)
    let a2 := next (entry a3) + 8 * (va / 2 ^ 30 % 512)
    let a1 := next (entry a2) + 8 * (va / 2 ^ 21 % 512)
    let a0 := next (entry a1) + 8 * (va / 2 ^ 12 % 512)
    let gib := table (entry a3) ∧ leaf (entry a2) ∧ ¬p64 (entry a2) ∧ next (entry a2) % 2 ^ 30 = 0
    let mib := table (entry a3) ∧ table (entry a2) ∧ leaf (entry a1) ∧ ¬p64 (entry a1) ∧ next (entry a1) % 2 ^ 21 = 0
    let kib := table (entry a3) ∧ table (entry a2) ∧ table (entry a1) ∧ leaf (entry a0) ∧
      (p64 (entry a0) → next (entry a0) % 65536 = 0 ∧ ∀ i < 16, ∀ b < 64, b ≠ 8 → b ≠ 9 →
        (entry (a0 / 128 * 128 + 8 * i)).testBit b = (entry a0).testBit b)
    let grants := fun (x : Nat) => match need with
      | .rd => x / 4 % 2 = 1
      | .wr => x / 8 % 2 = 1
      | .rw => x / 4 % 4 = 3
      | .ex => x / 16 % 2 = 1
    let marks := if need = .wr ∨ need = .rw then 0x300 else 0x100
    let found := fun (a size : Nat) =>
      let x := entry a
      (grants x → ∃ t m, s.translate asid need va = some (t, m) ∧ m.pa = next x / size * size + va % size ∧
        m.cls = x / 32 % 4 ∧ m.cache = decide (x / 128 % 2 = 1) ∧ t.translate asid need va = some (t, m) ∧
        ∀ b, t.byteAt b = if a ≤ b ∧ b < a + 8 then (leBytes 8 (x ||| marks)).getD (b - a) 0#8 else s.byteAt b) ∧
      (¬grants x → s.translate asid need va = none)
    (root.valid = false → s.translate asid need va = none) ∧
    (root.valid = true → (∀ e ∈ s.tlb, e.asid = asid → e.page ≠ va / 4096) → (∀ line, (s.l2Line line).owner = none) →
      (gib → found a2 (2 ^ 30)) ∧ (mib → found a1 (2 ^ 21)) ∧
      (kib → (p64 (entry a0) → found a0 65536) ∧ (¬p64 (entry a0) → found a0 4096)) ∧
      (¬gib → ¬mib → ¬kib → s.translate asid need va = none))) ∧
  ∀ (s : State) (stack bank row line : Nat),
    let key := 2 ^ 48 * stack + 2 ^ 32 * (bank % 2 ^ 16) + row % 2 ^ 32
    let c : RowCount := NMap.get {} s.rowAct key
    let d := s.dieMemOf (stack / 2)
    let hot := d.hrcEn = true ∧ c.promoted = false ∧ c.count + 1 = d.hrcThresh.toNat
    (stack < 8 →
      (¬hot → s.Answers (.rowActivation stack bank row) fun t =>
        t = { s with rowAct := s.rowAct.put key { c with count := c.count + 1 } }) ∧
      (hot → s.Answers (.rowActivation stack bank row) fun t => t.mem = s.mem ∧ t.poison = s.poison ∧ t.l2 = s.l2 ∧
        t.mts = s.mts ∧ t.cores = s.cores ∧ t.bts = s.bts ∧
        t.rowAct = s.rowAct.put key { count := c.count + 1, promoted := true } ∧
        (t.dieMemOf (stack / 2)).hrcPromote = d.hrcPromote + 1#32 ∧
        ((t.dieMemOf (stack / 2)).hrcSkip = d.hrcSkip ∨ (t.dieMemOf (stack / 2)).hrcSkip = d.hrcSkip + 1#32))) ∧
    (s.Answers (.refreshWindowEnd stack) fun t => t = { s with rowAct := t.rowAct, msc := t.msc } ∧
      (∀ k, (NMap.get {} t.rowAct k : RowCount) = if k / 2 ^ 48 = stack then {} else NMap.get {} s.rowAct k) ∧
      ∀ k, NMap.get [] t.msc k = if k / 32768 = stack
        then (NMap.get [] s.msc k).map fun l => { l with pinned := false } else NMap.get [] s.msc k) ∧
    s.Answers (.patrolScrub line) (· = s) ∧
    (∀ m n, (s.l2Line line).moor = some (m, n) →
      (m ≤ s.cclk → s.Answers (.moorLeaseEnd line) fun t => t = { s with l2 := t.l2 } ∧
        t.l2Line line = { s.l2Line line with moor := none, cls := 1 } ∧
        ∀ k, k ≠ line → t.l2Line k = s.l2Line k) ∧
      (s.cclk < m → s.Answers (.moorLeaseEnd line) (· = s))) ∧
    ((s.l2Line line).moor = none → s.Answers (.moorLeaseEnd line) (· = s)) ∧
    s.Answers .btsTick fun t => t = { s with bts := s.bts + 1#64, cores := t.cores } ∧
      ∀ n, t.cores.find? n = (s.cores.find? n).map fun k => { k with pts := tmax (k.pts + 1#64) (s.bts + 1#64) }

/-- R80 to R82, R84: an error found in a sector waits as an event of its channel, uncorrected it poisons the sector; in a
core SRAM it traps the lane that reads it; in a tag array it stops every launch with a resident team. In each FCLK, of
which a CCLK has two (log entry 61), the reporting sources, in ascending order, each count one event, write its record while fewer than 64 are unread, and count an
overflow otherwise. That TIME counts twice the CCLK (log entry 66), the delays (61) and address 0 for an SRAM error of an
engine's operation (30) are the model's readings. -/
def Obligations.ErrorLog : Prop :=
  ∀ (s : State) (die sector layer core unit index : Nat) (unc : Bool) (reader : SramReader),
    let d := s.dieMemOf die
    let e : ErrorEvent := { source := 8 * (sector / 128 % 2) + sector / 256 % 8, addr := BitVec.ofNat 64 (32 * sector),
                            layer := layer, uncorrected := unc }
    let waits := fun (t : State) (die : Nat) (e : ErrorEvent) => (t.dieMemOf die).errWait = (s.dieMemOf die).errWait ++ [e]
    let others := fun (t : State) (die : Nat) => ∀ m, m ≠ die → t.dieMemOf m = s.dieMemOf m
    let next := fun (i : Nat) => d.errWait.find? fun e => e.source = i
    let unread := (d.elogWr - d.elogRd).toNat
    let before := fun (i : Nat) => ((List.range i).filter fun j => (next j).isSome).length
    (sector < 2 ^ 34 →
      (s.Answers (.memoryErrorDetect (.sector sector layer unc)) fun t =>
        waits t (sector / 2 ^ 32) e ∧ others t (sector / 2 ^ 32) ∧ t.mem = s.mem ∧ t.cores = s.cores ∧
        ∀ k, NMap.get false t.poison k = ((unc && k == sector) || NMap.get false s.poison k)) ∧
      s.Answers (.memoryErrorDetect (.tagArray sector layer unc)) fun t =>
        waits t (sector / 2 ^ 32) e ∧ (unc = false → t.launches = s.launches ∧ t.mem = s.mem) ∧
        (unc = true → ∀ m l, s.launch m = some l → s.resident m = true → ∃ r, t.launch m = some r ∧ r.stopped = true)) ∧
    (core < 640 → unit < 256 → index < 2 ^ 24 →
      s.Answers (.memoryErrorDetect (.coreSram core unit index unc reader)) fun t =>
        waits t (core / 160) { source := 16, addr := BitVec.ofNat 64 (core % 160 + 2 ^ 16 * unit + 2 ^ 24 * index),
                               layer := 4, uncorrected := unc } ∧
        (unc = false → t.cores = s.cores ∧ t.mem = s.mem) ∧
        (unc = true → ∀ c slot l a, reader = .thread (.lane c slot l) → s.agentAt (.lane c slot l) = some a → t.mem = s.mem ∧
          t.agentAt (.lane c slot l) = some { a with pendTrap := some { cause := .memErr, pc := a.trapAt, addr := 0#64 } }) ∧
        (unc = true → ∀ seq o, reader = .engine 2 seq → s.op core 2 (BitVec.ofNat 32 seq) = some o →
          (t.op core 2 (BitVec.ofNat 32 seq)).map EngineOp.phase = some (.failed 0 4 o.code))) ∧
    let f := max d.fclk (2 * s.cclk)
    (d.errWait = [] → s.Answers (.errorLogReport die) (· = s)) ∧
    (d.errWait ≠ [] → 2 * s.cclk + 1 < f →
      s.Answers (.errorLogReport die) fun t => t = { s with delayed := s.delayed ++ [.errorLogReport die] }) ∧
    (d.errWait ≠ [] → f ≤ 2 * s.cclk + 1 → s.Answers (.errorLogReport die) fun t =>
      let d' := t.dieMemOf die
      let n := before 17
      others t die ∧ t.mem = s.mem ∧ t.cores = s.cores ∧ d'.fclk = f + 1 ∧
      d'.elogWr.toNat = (d.elogWr.toNat + min n (64 - unread)) % 2 ^ 32 ∧ d'.elogRd = d.elogRd ∧
      d'.elogOvf.toNat = min (2 ^ 32 - 1) (d.elogOvf.toNat + (n - (64 - unread))) ∧
      (0 < n → unread < 64 → t.cmd.intStat.getLsbD 3 = true) ∧
      ∀ i < 17,
        (d'.errWait.filter fun e => e.source = i) = (d.errWait.filter fun e => e.source = i).drop 1 ∧
        (next i = none → NMap.get 0#32 d'.corr i = NMap.get 0#32 d.corr i ∧
          NMap.get 0#32 d'.uncorr i = NMap.get 0#32 d.uncorr i) ∧
        ∀ e, next i = some e →
          let corr := NMap.get 0#32 d.corr i + if e.uncorrected then 0#32 else 1#32
          let uncorr := NMap.get 0#32 d.uncorr i + if e.uncorrected then 1#32 else 0#32
          let seq := (d.elogWr.toNat + before i) % 2 ^ 32
          NMap.get 0#32 d'.corr i = corr ∧ NMap.get 0#32 d'.uncorr i = uncorr ∧
          (unread + before i < 64 →
            ((List.range 32).map fun j => NMap.get 0#8 d'.elog (32 * (seq % 64) + j)) =
              leBytes 8 e.addr.toNat ++
                leBytes 4 (i * 2 ^ 27 + e.layer % 8 * 2 ^ 24 + if e.uncorrected then 2 ^ 23 else 0) ++
                leBytes 4 corr.toNat ++ leBytes 4 uncorr.toNat ++ leBytes 4 seq ++ leBytes 8 f))

/-! ### The command interface -/

/-- R389: FQ_RD and ELOG_RD take a write by the free-running rule: v where it lies at or below the write index, the write
index where it lies less than 2^31 ahead, and otherwise nothing. -/
def Obligations.ReadIndices : Prop :=
  ∀ (s : State) (die : Nat) (v : Word),
    let ahead := fun (x rd : Word) => (x.toNat + 2 ^ 32 - rd.toNat) % 2 ^ 32
    let taken := fun (rd wr rd' : Word) =>
      (ahead v rd ≤ ahead wr rd → rd' = v) ∧
      (ahead wr rd < ahead v rd → ahead v rd < 2 ^ 31 → rd' = wr) ∧
      (ahead wr rd < ahead v rd → 2 ^ 31 ≤ ahead v rd → rd' = rd)
    s.smc.phase = 6#4 →
      (s.Answers (.fqRdWrite v) fun t => taken s.cmd.fqRd s.cmd.fqWr t.cmd.fqRd) ∧
      (die < 4 → s.Answers (.elogRdWrite die v) fun t => t = { s with dieMem := t.dieMem } ∧
        (∀ m, m ≠ die → t.dieMemOf m = s.dieMemOf m) ∧
        t.dieMemOf die = { s.dieMemOf die with elogRd := (t.dieMemOf die).elogRd } ∧
        taken (s.dieMemOf die).elogRd (s.dieMemOf die).elogWr (t.dieMemOf die).elogRd)

/-- R40, R124 to R126, R134, R140: QWR is stored and sets ERR past the ring's size; EN is stored; KILL stops every launch
of the queue, a record each, and takes its units back; INT_MASK sends the message of every bit it unmasks that is set;
an invalidation covers its aligned range or the whole space, and waits for the accesses that used an old translation; when
it completes no translation of the range and no read-shared copy of it is left, whichever mapping the copy was taken
through, every other copy stays, and INVAL_DONE has risen. That lanes that wait without a monitor for a word of the range
perform their WAITC again, and takers of a list of the range their WTAKE, is the model's reading (log entry 88), as are
the fields a KILLED record's core and lane hold (log entry 67). Before OPEN all of these are discarded. R135: a replay closes the
page's outstanding record. A retry wakes every thread parked on the page to repeat its access; a failing replay gives
a lane parked on it a PAGEFAULT trap, with the address its access first touches there. -/
def Obligations.CommandWrites : Prop :=
  (∀ (s : State) (q : Nat) (v : Word) (en : Bool) (asid va size : Nat),
      let k := s.queue q
      let others := fun (t : State) => t = { s with queues := t.queues } ∧ ∀ m, m ≠ q → t.queue m = s.queue m
      let pages := match size with
        | 0 => 1
        | 1 => 16
        | 2 => 512
        | _ => 2 ^ 18
      let covers := fun (i : Inval) (a p : Nat) => i.asid = a ∧ (i.all = true ∨ (i.page ≤ p ∧ p < i.page + i.pages))
      (s.smc.phase = 6#4 →
        (q < 64 →
          (s.Answers (.qwrWrite q v) fun t => others t ∧ t.queue q =
            { k with qwr := v, err := k.err || decide (2 ^ k.size.toNat < (v.toNat + 2 ^ 32 - k.qrd.toNat) % 2 ^ 32),
                     pending := if v = k.qrd then none else k.pending }) ∧
          (s.Answers (.qctlEn q en) fun t => others t ∧ (t.queue q).en = en ∧ (t.queue q).qrd = k.qrd ∧
            (t.queue q).qwr = k.qwr) ∧
          s.Answers (.qctlKill q) fun t => (∀ e ∈ t.dies, ∀ u ∈ e.2.held, ∀ l, s.launch u.launch = some l →
              l.queue = q → l.stopped = true) ∧
            ∀ n l, s.launch n = some l → ∃ r, t.launch n = some r ∧
              (l.queue = q → l.stopped = false → r.stopped = true ∧ r.faulted = true) ∧
                ((∀ e ∈ s.launches, e.1 = n → e.2.queue ≠ q) → r.stopped = l.stopped) ∧
                (s.launches = [(n, l)] → l.queue = q → l.stopped = false → s.teamsOf n = [] →
                  (∀ line, (s.l2Line line).owner = none) → s.SinkTakes t n l.record {
                    cause := 0x0C, src := 1, die := 4, core := 0xFFFF, lane := 0xFFFF, team := 0xFFFFFFFF,
                    launch := bits l.record.doneSeq 0 32, asid := l.asid, queue := l.queue })) ∧
        (s.Answers (.intMaskWrite v) fun t => t = { s with cmd := { s.cmd with intMask := v.setWidth 6 }, msix := t.msix } ∧
          t.msix = s.msix ++ (List.range 6).filter fun i =>
            s.cmd.intMask.getLsbD i && !v.getLsbD i && s.cmd.intStat.getLsbD i) ∧
        (s.Answers (.invalRange asid va size) fun t => t = { s with cmd := t.cmd } ∧ ∃ i,
          t.cmd.invalWait = s.cmd.invalWait ++ [i] ∧ ∀ a p, covers i a p ↔ a = asid ∧ p / pages = va / 4096 / pages) ∧
        s.Answers (.invalAll asid) fun t => t = { s with cmd := t.cmd } ∧ ∃ i,
          t.cmd.invalWait = s.cmd.invalWait ++ [i] ∧ ∀ a p, covers i a p ↔ a = asid) ∧
      (∀ i rest, s.cmd.invalWait = i :: rest → s.invalBusy i = false → s.Answers .invalComplete fun t =>
        t = { s with tlb := t.tlb, cores := t.cores, cmd := { s.cmd with invalWait := rest, invalDone := s.cmd.invalDone + 1#32 } } ∧
        (∀ x ∈ t.tlb, x ∈ s.tlb ∧ ¬covers i x.asid x.page) ∧
        (∀ c e, e ∈ (t.core c).l1 ↔ e ∈ (s.core c).l1 ∧
          ¬(e.2.cls = 1 ∧ (covers i e.2.asid e.2.page ∨ s.inRange i e.1 = true))) ∧
        (∀ c slot l a w p, s.agentAt (.lane c slot l) = some a → a.status = .parked (.take w) → p ∈ w.pages →
          covers i w.asid p → t.agentAt (.lane c slot l) = some { a with
            status := .ready, wait := 0, starving := false, pc := a.pc - 4#64, hints := w.hints }) ∧
        ∀ c slot l a w, s.agentAt (.lane c slot l) = some a → a.status = .parked (.cond w) → w.monitor = false →
          covers i w.asid w.page → t.agentAt (.lane c slot l) = some { a with
            status := .ready, wait := 0, starving := false, pc := a.pc - 4#64, hints := w.hints }) ∧
      (∀ i rest, s.cmd.invalWait = i :: rest → s.invalBusy i = true → s.Answers .invalComplete (· = s)) ∧
      (s.cmd.invalWait = [] → s.Answers .invalComplete (· = s)) ∧
      (s.smc.phase ≠ 6#4 → ∀ i ∈ [.qwrWrite q v, .qctlEn q en, .qctlKill q, .intMaskWrite v, .invalRange asid va size,
          .invalAll asid, .fqRdWrite v, .elogRdWrite q v, .replayRetry asid q, .replayFail asid q, .registerWrite 0x100000 v],
        s.Answers i (· = s))) ∧
  (∀ (s : State) (asid page : Nat) (r : AgentRef) (a : Agent) (w : PageWait),
      let waits := fun (a : Agent) => ∃ w : PageWait, w.asid = asid ∧ w.page = page ∧
        (a.status = .parked (.page w) ∨ ∃ t, a.status = .parked (.entry0 w t))
      let closed := fun (t : State) => ∀ x, x ∈ t.cmd.faultsOut → x ∈ s.cmd.faultsOut ∧ x ≠ (asid, page)
      s.smc.phase = 6#4 → s.agentAt r = some a → a.status = .parked (.page w) → w.asid = asid → w.page = page →
        (s.Answers (.replayRetry asid page) fun t => closed t ∧ t.mem = s.mem ∧
          t.agentAt r = some { a with status := .ready, wait := 0, starving := false }) ∧
        ∀ c slot l, r = .lane c slot l → (∀ x b, x ≠ r → s.agentAt x = some b → ¬waits b) →
          (∀ c slot t o u b w, s.team c slot = some t → t.stage = some o → o.phase = .slow u b (some w) →
            w.asid = asid → w.page ≠ page) →
          (∀ c, ∀ o ∈ (s.core c).ops, ∀ u b w, o.phase = .slow u b (some w) → w.asid = asid → w.page ≠ page) →
          s.Answers (.replayFail asid page) fun t =>
            t.mem = s.mem ∧ t.agentAt r = some { a with
              status := .ready, wait := 0, starving := false,
              pendTrap := some { cause := .pageFault, pc := if w.fetch then a.pc else a.trapAt, addr := BitVec.ofNat 64 w.addr } })

/-- R124 to R128, R130, R131: in a cycle of the scheduler the ready record of the highest priority, the queue after the one
served last first, is taken and its queue moves on; a record alone in its ring, without dependencies or count word, is read
from QBASE + 128 × (QRD mod 2^SIZE), and is taken as R127 lays it out or refused with a BADLAUNCH
record that names the slot and the least offset of the checks that fail; a dependency that is met is
struck off, one that is not met stays. A failed die-to-die link, as every phase but OPEN, takes nothing. -/
def Obligations.RecordsAreTaken : Prop :=
  ∀ (s : State) (q : Nat),
    let k := s.queue q
    let n := s.cmd.taken
    let turn := fun (q : Nat) => (q + 63 - s.cmd.lastQueue % 64) % 64
    let good := fun (r : LaunchRec) => r.gridX % r.clusX = 0 ∧ r.gridX * r.gridY * r.gridZ ≤ 2 ^ 32
    let moved := fun (t : State) => (t.queue q).qrd = k.qrd + 1#32 ∧ (t.queue q).pending = none ∧ t.cmd.taken = n + 1
    (s.smc.phase ≠ 6#4 ∨ s.d2dFailed = true → s.Answers .iodSchedCycle (· = s)) ∧
    (s.smc.phase = 6#4 → s.d2dFailed = false →
      ((∀ e ∈ s.queues, (s.queue e.1).run = false ∨ (s.queue e.1).pending.isSome = true ∨ (s.queue e.1).qwr = (s.queue e.1).qrd) →
        ((∀ m < 64, (s.queue m).ready = false) → s.Answers .iodSchedCycle (· = s)) ∧
        (∀ p, q < 64 → k.ready = true → k.pending = some p →
          (∀ m < 64, (s.queue m).ready = true → (s.queue m).prio.toNat < k.prio.toNat ∨
            ((s.queue m).prio = k.prio ∧ turn q ≤ turn m)) →
          s.Answers .iodSchedCycle fun t => moved t ∧ t.cmd.lastQueue = q ∧ t.mem = s.mem ∧
            t.launch n = some { record := p.record, queue := q, asid := k.asid.toNat, prio := k.prio.toNat, order := n,
                                depTs := p.depTs })) ∧
      (s.queues = [(q, k)] → q < 64 → k.run = true → k.pending = none → k.qwr ≠ k.qrd →
        let pa := k.base.toNat + 128 * (k.qrd.toNat % 2 ^ k.size.toNat)
        let r := parseLaunch (s.bytesAt pa 128)
        paRange pa = .host → s.hostDown = false →
          (leastBad (r.checks (s.bytesAt pa 128)) = none → r.nstage = 0 → r.ndep = 0 → r.indirect = 0 → good r →
            s.Answers .iodSchedCycle fun t => moved t ∧ t.mem = s.mem ∧ ∃ l, t.launch n = some l ∧ l.record = r ∧
              l.queue = q ∧ l.asid = k.asid.toNat ∧ l.prio = k.prio.toNat ∧ l.stopped = false ∧
              r.code = s.numAt pa 8 ∧ r.regs8 = s.numAt (pa + 18) 1 ∧ r.args8 = s.numAt (pa + 19) 1 ∧
              r.tmem = s.numAt (pa + 20) 4 ∧ r.gridX = s.numAt (pa + 24) 4 ∧ r.gridY = s.numAt (pa + 28) 2 ∧
              r.gridZ = s.numAt (pa + 30) 2 ∧ r.teamX = s.numAt (pa + 32) 2 ∧ r.teamY = s.numAt (pa + 34) 1 ∧
              r.teamZ = s.numAt (pa + 35) 1 ∧ r.doneAddr = s.numAt (pa + 80) 8 ∧ r.sink = s.numAt (pa + 96) 8) ∧
          (leastBad (r.checks (s.bytesAt pa 128)) ≠ none → s.Answers .iodSchedCycle fun t => moved t ∧
            (∃ l, t.launch n = some l ∧ l.stopped = true ∧ l.faulted = true ∧ l.record = r) ∧
            ∀ off, r.nstage = 0 → r.indirect ≠ 0 → leastBad (r.checks (s.bytesAt pa 128)) = some off →
              (∀ line, (s.l2Line line).owner = none) → s.SinkTakes t n r {
                cause := 1, src := 1, die := 4, core := 0xFFFF, lane := 0xFFFF, team := 0xFFFFFFFF, aux0 := off, addr := pa,
                launch := bits r.doneSeq 0 32, asid := k.asid.toNat, queue := q }))) ∧
    (s.smc.phase ≠ 6#4 ∨ k.run = false ∨ k.qwr = k.qrd → s.Answers (.dependencyRead q) (· = s)) ∧
    (∀ p, s.smc.phase = 6#4 → k.run = true → k.qwr ≠ k.qrd → k.pending = some p → p.unmet ≠ [] →
      (∀ line, (s.l2Line line).owner = none) → (∀ e ∈ p.unmet, paRange e.1 = .local_ ∧ s.firstPoison e.1 4 = none) →
      let unmet := p.unmet.filter fun e =>
        let w := BitVec.ofNat 32 (s.numAt e.1 4)
        if e.2.2 = 0 then decide ((w - e.2.1).toInt < 0) else if e.2.2 = 1 then w != e.2.1 else w == e.2.1
      (unmet ≠ [] ∨ (p.record.indirect = 0 ∧ good p.record)) →
        s.Answers (.dependencyRead q) fun t => t.mem = s.mem ∧ (t.queue q).qrd = k.qrd ∧
          (t.queue q).pending.map PendingRec.unmet = some unmet)

/-! ### Launches, placement, staging -/

/-- R69, R132, R140: a launch of which nothing is left completes: the word at DONE_ADDR takes DONE_SEQ, bit 63 set where it
was faulted, and no other byte changes where its L1s hold nothing dirty; no dirty private line stays in an L1 it used, its
moored lines are unmoored, INT_DONE sets the interrupt. One of which something is left does not. A retired slot with nothing
outstanding is freed (R182). -/
def Obligations.Completion : Prop :=
  ∀ (s : State) (n c slot : Nat) (l : Launch) (team : Team),
    let a := l.record.doneAddr
    let word := l.record.doneSeq.toNat % 2 ^ 63 + (if l.faulted then 2 ^ 63 else 0)
    (s.launchOver n = true → s.launch n = some l → s.Answers (.launchComplete n) fun t =>
      t.launch n = none ∧ (∀ m, m ≠ n → (t.launch m).isSome = (s.launch m).isSome) ∧
      (∀ e ∈ t.l2, ∀ x ∈ e.2, ∀ m, x.moor = some m → m.2 ≠ n) ∧
      (∀ c ∈ l.cores, ∀ line x, t.l1Line c line = some x → x.cls = 0 → x.dirty = false) ∧
      (a % 8 = 0 → paRange a = .local_ → Nat.testBit l.record.flags 2 = true → t.cmd.intStat.getLsbD 2 = true) ∧
      (l.record.doneSeq.toNat < 2 ^ 63 → a % 8 = 0 → paRange a = .local_ → (∀ line, (s.l2Line line).owner = none) →
        (∀ c ∈ l.cores, ∀ e ∈ (s.core c).l1, e.2.dirty = false) →
        ∀ x, t.byteAt x = if a ≤ x ∧ x < a + 8 then BitVec.ofNat 8 (word / 256 ^ (x - a)) else s.byteAt x)) ∧
    (s.launchOver n = false → s.Answers (.launchComplete n) (· = s)) ∧
    (s.team c slot = some team →
      (team.phase = .retired → s.slotBusy c slot = false → s.Answers (.slotRelease c slot) fun t =>
        t = { s with cores := t.cores } ∧ t.team c slot = none ∧
        ∀ d m, (d, m) ≠ (c, slot) → t.team d m = s.team d m) ∧
      (team.phase ≠ .retired ∨ s.slotBusy c slot = true → s.Answers (.slotRelease c slot) (· = s)))

/-- R141 to R147: a cycle of a die scheduler takes units, at most one of a launch unplaced, and places the first of them,
by priority and then age, that has a place: it is no longer held, the search goes on after its core, and its team stages in
the slot and storage its fit reserved; where none has a place no core changes. A cluster that has waited 2^20 CCLK starts the
one drain of its die, on a rectangle that holds no team of a higher priority. -/
def Obligations.Placement : Prop :=
  ∀ (s : State) (die : Nat),
    let u := s.takeUnits die
    let held := fun (s : State) => (NMap.get {} s.dies die : Die).held
    let order := (held u).foldr u.insertUnit []
    let drain := fun (s : State) => (NMap.get {} s.dies die : Die).drain
    (∀ x, x ∈ order ↔ x ∈ held u) ∧
    order.Pairwise (fun x y => u.unitBefore y x = false) ∧
    (∀ x ∈ held s, x ∈ held u) ∧ u.cores = s.cores ∧
    (∀ x y, x ∈ held u → y ∈ held u → x ∉ held s → y ∉ held s → x.launch = y.launch → x = y) ∧
    (u.firstFit die order = none → s.Answers (.dieSchedCycle die) fun t => t.cores = s.cores ∧ held t = held u) ∧
    (∀ x l o xs, u.firstFit die order = some (x, l, o, xs) → s.Answers (.dieSchedCycle die) fun t =>
      x ∈ held u ∧ held t = (held u).filter (· ≠ x) ∧ (NMap.get {} t.dies die : Die).lastCore = o % 160 ∧
      ∀ f, l.record.clustered = false → xs = [f] → f.2.1 = [] → f.1 = (o, 0, 0) → ∃ m, t.team o f.2.2.slot = some m ∧
        m.launch = x.launch ∧ m.x = x.unit % l.record.gridX ∧ m.y = x.unit / l.record.gridX % l.record.gridY ∧
        m.z = x.unit / (l.record.gridX * l.record.gridY) ∧
        m.number = m.x + l.record.gridX * (m.y + l.record.gridY * m.z) ∧
        m.phase = .staging ∧ m.nlanes = l.record.lanes ∧ m.regs = 8 * l.record.regs8 ∧ m.tmem = l.record.tmem ∧
        m.tm = [] ∧ m.stage = none ∧ m.staged = false ∧ m.tmBase = f.2.2.tmBase ∧ m.tiles = f.2.2.tiles ∧ m.vrf = f.2.2.vrf ∧ m.berth = (u.core o).startBerth ∧
        (t.core o).startBerth = (m.berth + (l.record.lanes + 7) / 8) % 16) ∧
    (drain s ≠ none → s.Answers (.drainStart die) (· = s)) ∧
    (drain s = none → s.Answers (.drainStart die) fun t => t = { s with dies := t.dies } ∧ held t = held s ∧
      (∀ x ∈ held s, ∀ l o cs, x.since + 2 ^ 20 ≤ s.cclk → s.launch x.launch = some l → l.record.clustered = true →
        o / 160 = die → rectangle l.record o = some cs →
        (∀ c ∈ cs.map Prod.fst, ∀ e ∈ (s.core c).teams, e.2.phase ≠ .retired → s.prioOf e.2 ≤ l.prio) → drain t ≠ none) ∧
      ∀ n m cores, drain t = some (n, m, cores) → ∃ x ∈ held s, ∃ l o, x.launch = n ∧ x.unit = m ∧
        x.since + 2 ^ 20 ≤ s.cclk ∧ s.launch n = some l ∧ l.record.clustered = true ∧
        (∃ cs, rectangle l.record o = some cs ∧ cores = cs.map Prod.fst) ∧ o / 160 = die ∧
        ∀ c ∈ cores, ∀ e ∈ (s.core c).teams, e.2.phase ≠ .retired → s.prioOf e.2 ≤ l.prio)

/-- R133, R144, R148: a team whose record has no arguments and no staging entries, alone in its unit, its claims met and its
row awake, starts: every lane at CODE with registers and predicates clear, team memory and k registers 0; the core's L1 has
dropped the clean private lines of the address space and its pts is at least that of the words the launch waited for. -/
def Obligations.TeamStart : Prop :=
  ∀ (s : State) (c slot : Nat) (team : Team) (l : Launch),
    s.team c slot = some team → s.launch team.launch = some l →
    (team.phase = .staging → team.preempted = false → team.claims = [] → team.stage = none → team.staged = false →
      team.tm = [] → s.op c (8 + slot) 0#32 = none →
      (s.core c).deepIdle = false → l.record.args8 = 0 → l.record.nstage = 0 → l.record.clustered = false →
      s.Answers (.teamStart c slot) fun t => t.mem = s.mem ∧
        (∃ m, t.team c slot = some m ∧ m.phase = .running ∧ m.launch = team.launch ∧ m.number = team.number ∧
          m.tm = [] ∧ m.k = [] ∧ m.lanes.length = team.nlanes ∧
          ∀ i < team.nlanes, m.lanes.find? i = some { pc := BitVec.ofNat 64 l.record.code }) ∧
        (∀ d m, (d, m) ≠ (c, slot) → t.team d m = s.team d m) ∧ (t.core c).pts = tmax (s.core c).pts l.depTs ∧
        (t.core c).l1 = (s.core c).l1.filter fun e => !(e.2.asid == l.asid && e.2.cls == 0 && !e.2.dirty)) ∧
    (team.phase ≠ .staging ∨ team.preempted = true ∨ (team.claims ≠ [] ∧ l.record.clustered = false) ∨
      (∃ o, team.staged = false ∧ team.stage = some o ∧ o.phase ≠ .running) ∨ (s.core c).deepIdle = true → s.Answers (.teamStart c slot) (· = s))

/-- R76, R152 to R156: a claimed team memory region that no pending operation touches is saved byte for byte in the slot of
its core and priority, and claimed no more; a region nothing claims is not saved. A stopped team resumes once its storage is
free, its lanes where they stopped, its pts at least that saved with it; with storage still taken it does not. -/
def Obligations.LazySave : Prop :=
  ∀ (s : State) (c slot x : Nat) (team new : Team) (l : Launch),
    let base := c / 160 * 2 ^ 37 + 0x1F00000000 + (7 * (c % 160) + l.prio) * 0x300000 + 0x200000 + team.tmBase
    let size := 1024 * ((team.tmem + 1023) / 1024)
    s.team c slot = some team → s.launch team.launch = some l →
    (s.underWay c slot = true → s.Answers (.regionClaim c slot) fun t =>
      t = { s with delayed := s.delayed ++ [.regionClaim c slot] }) ∧
    (s.underWay c slot = false → s.team c x = some new → x ≠ slot → new.claims = [(slot, .tmem)] → team.saved = [] →
      (∀ e ∈ (s.core c).teams, e ≠ (x, new) → e.2.claims = []) → (∀ o ∈ (s.core c).ops, o.slot ≠ slot) →
      s.Answers (.regionClaim c slot) fun t =>
        (∀ a, t.byteAt a = if base ≤ a ∧ a < base + size then NMap.get 0#8 team.tm (a - base) else s.byteAt a) ∧
        (t.team c x).map Team.claims = some [] ∧ (t.team c slot).map Team.saved = some [.tmem]) ∧
    (s.underWay c slot = false → (∀ e ∈ (s.core c).teams, ∀ r, (slot, r) ∉ e.2.claims) → s.Answers (.regionClaim c slot) (· = s)) ∧
    (team.preempted = true → l.record.clustered = false → team.saved = [] → team.phase = .running →
      (s.storageFree c slot = true → s.Answers (.teamResume c slot) fun t => t.mem = s.mem ∧
        (t.core c).pts = tmax (s.core c).pts team.savedPts ∧
        ∃ m, t.team c slot = some m ∧ m.preempted = false ∧ m.phase = .running ∧ m.tm = team.tm ∧ m.acs = team.acs ∧
          (∀ i, team.lanes.find? i = none → m.lanes.find? i = none) ∧
          ∀ i a, team.lanes.find? i = some a → ∃ b, m.lanes.find? i = some b ∧ b.status = a.status ∧ b.pc = a.pc ∧
            a.Wrote b a.late.reverse [] ∧ a.SameSpecial b ∧ b.late = [] ∧ b.away = false) ∧
      (s.storageFree c slot = false → s.Answers (.teamResume c slot) (· = s))) ∧
    (team.preempted = true → l.record.clustered = false → team.saved = [.tmem] → team.phase = .running →
      s.storageFree c slot = true → s.Answers (.teamResume c slot) fun t => t.mem = s.mem ∧
        ∃ m, t.team c slot = some m ∧ m.preempted = false ∧ m.saved = [] ∧ m.acs = team.acs ∧
          ∀ i < size, NMap.get 0#8 m.tm i = s.byteAt (base + i)) ∧
    (team.preempted = false → s.Answers (.teamResume c slot) (· = s))

/-! ### Issue, releases, deep idle -/

/-- R33, R34, R74, R75, R149, R150, R174, R193, R195, R277, R295: the events of the berths. A ready lane that has waited
256 CCLK starves; a run ahead changes nothing; loads release what the scoreboard holds; the oldest store of a lane completes,
pts at least its timestamp; YIELD ends at its time; a ramp caps bundles at 8, 16, 24 and then 32 lanes; a WAITC without a
monitor reads its word again as a load does, pts at least the line's wts where it is coherent, and goes on where its
condition holds; a BSNFILL with nothing reserved for 4,096 CCLK returns
false; an idle row sleeps with its L1s empty, and wakes at BTS with its counters 0, after the
rows of its die below it that wait to wake. -/
def Obligations.BerthEvents : Prop :=
  ∀ (s : State) (r : AgentRef) (a : Agent) (c die row : Nat),
    let becomes := fun (i : Instr) (b : Agent) => s.Answers i fun t => t = { s with cores := t.cores } ∧
      t.agentAt r = some b ∧ ∀ x, x ≠ r → t.agentAt x = s.agentAt x
    let cores := (List.range 16).map fun i => 160 * die + 16 * row + i
    let seen := fun (t : State) (w : CondWait) =>
      w.cls = 2 → (s.l2Line (w.pa / 128)).wts.toNat ≤ (t.core (coreOfRef r)).pts.toNat
    let below := ∃ n < row, (.event (.rowWake die n) ∈ s.agenda ∨ .rowWake die n ∈ s.delayed) ∧
      ∃ i < 16, (s.core (160 * die + 16 * n + i)).deepIdle = true
    s.Answers (.runAhead r) (· = s) ∧
    (s.Answers (.issueRamp c) fun t => t.core c = { s.core c with rampStart := some s.cclk } ∧ t.mem = s.mem ∧
      (∀ m, m ≠ c → t.core m = s.core m) ∧
      ∀ i, (t.core c).issueCap (s.cclk + i) = if i < 16 then 8 else if i < 32 then 16 else if i < 48 then 24 else 32) ∧
    (s.agentAt r = some a →
      (s.readyNow r a = true → 256 ≤ a.wait → becomes (.laneStarving r) { a with starving := true }) ∧
      (s.readyNow r a = false ∨ a.wait < 256 → becomes (.laneStarving r) a) ∧
      becomes (.loadReturn r) { a with held := [] } ∧
      (∀ x rest, a.stores = x :: rest → s.Answers (.storeCompletion r) fun t => t.mem = s.mem ∧
        t.agentAt r = some { a with stores := rest } ∧ (t.core (coreOfRef r)).pts = tmax (s.core (coreOfRef r)).pts x) ∧
      (a.stores = [] → s.Answers (.storeCompletion r) (· = s)) ∧
      (∀ x, a.yieldUntil = some x →
        (x ≤ s.cclk → becomes (.yieldRelease r) { a with yieldUntil := none, wait := 0 }) ∧
        (s.cclk < x → becomes (.yieldRelease r) a)) ∧
      (∀ w, a.status = .parked (.cond w) → w.monitor = false → (s.l2Line (w.pa / 128)).owner = none →
        s.firstPoison w.pa w.size = none →
        let x := s.numAt w.pa w.size
        (condHolds w.cond w.size (BitVec.ofNat 64 x) w.value = true → w.size = 4 ∨ w.size = 8 →
          s.Answers (.waitcReread r) fun t => t.mem = s.mem ∧ seen t w ∧ ∃ b, t.agentAt r = some b ∧ b.status = .ready ∧ b.pc = a.pc ∧
            a.Wrote b ((List.range (w.size / 4)).map fun i => (w.dest + i, BitVec.ofNat 32 (x / 2 ^ (32 * i)))) []) ∧
        (condHolds w.cond w.size (BitVec.ofNat 64 x) w.value = false → s.Answers (.waitcReread r) fun t =>
          t.mem = s.mem ∧ seen t w ∧ t.agentAt r = some { a with parkedAt := s.cclk })) ∧
      (∀ b e d p, a.status = .parked (.basin b e d p) →
        let k := (s.core b).basin e
        (k.rp = k.wp → a.parkedAt + 4096 ≤ s.cclk → s.Answers (.bsnfillTimeout r) fun t => t.mem = s.mem ∧
          ∃ b, t.agentAt r = some b ∧ b.status = .ready ∧ b.pc = a.pc ∧ a.Wrote b [] [(p, false)]) ∧
        (k.rp ≠ k.wp ∨ s.cclk < a.parkedAt + 4096 → s.Answers (.bsnfillTimeout r) (· = s)))) ∧
    (s.rowIdle die row = false → s.Answers (.deepIdleEnter die row) (· = s)) ∧
    (s.rowIdle die row = true → (∀ c ∈ cores, ∀ e ∈ (s.core c).l1, e.2.dirty = false) →
      s.Answers (.deepIdleEnter die row) fun t => t.mem = s.mem ∧ (∀ c, c ∉ cores → t.core c = s.core c) ∧
        ∀ c ∈ cores, (t.core c).deepIdle = true ∧ (t.core c).l1 = [] ∧ (t.core c).barriers = [] ∧ (t.core c).basins = []) ∧
    (below → s.Answers (.rowWake die row) fun t => t = { s with delayed := s.delayed ++ [.rowWake die row] }) ∧
    (¬below → s.Answers (.rowWake die row) fun t => t.mem = s.mem ∧ (∀ c, c ∉ cores → t.core c = s.core c) ∧
      ∀ c ∈ cores, (t.core c).deepIdle = false ∧ ((s.core c).deepIdle = false → t.core c = s.core c) ∧
        ((s.core c).deepIdle = true → (t.core c).pts = s.bts ∧ (t.core c).l1 = [] ∧ (t.core c).eseqCe = 0#32 ∧
          (t.core c).eseqMe = 0#32 ∧ (t.core c).teams = (s.core c).teams))

/-- R164, R165: where one lane of a berth waits for its word, its page translates and grants fetch, and the word is in local
memory and not poisoned, the broadcast fetch delivers the block: the lane holds the word memory holds at its program
counter, or, where the instruction cache of its core holds a copy of the block that its launch took, that copy's (R166; the model's choice, log
entry 76), and nothing else of the lane changes but what the fetch itself keeps. -/
def Obligations.BroadcastFetch : Prop :=
  ∀ (s : State) (c b : Nat) (m : Member) (e : TlbEntry),
    let pc := m.ag.pc.toNat
    let x := mappedOf e.pte e.level pc
    ((s.core c).members c b).filter (fun m => m.ag.fetchWaits) = [m] → s.agentAt m.ref = some m.ag →
    pc % 4 = 0 → pc + 4 ≤ 2 ^ 56 → s.tlb.find? (fun t => t.asid = s.asidOf m.launch && t.page = pc / 4096) = some e →
    (s.ptroot (s.asidOf m.launch)).valid = true → pteGrants e.pte .ex = true → x.cls ≠ 3 → paRange x.pa = .local_ →
    s.firstPoison x.pa 4 = none →
      s.Answers (.broadcastFetch c b) fun t => t.mem = s.mem ∧ ∃ a, t.agentAt m.ref = some a ∧
        (a.wordAt a.pc = some (BitVec.ofNat 32 (s.numAt x.pa 4)) ∨ ∃ bs, (s.core c).icache.find? (x.pa / 64) = some (m.launch, bs) ∧
          a.wordAt a.pc = some (BitVec.ofNat 32 (leNat ((bs.drop (x.pa % 64)).take 4)))) ∧ a.isReady = true ∧
        a = { m.ag with loopBuf := a.loopBuf, fetchSince := none } ∧ a.loopBuf.length ≤ 48

/-! ### The event queue and the engines -/

/-- R179 to R181, R214, R215: the oldest record a unit holds enters the event queue while fewer than 256 are there. The
firmware context takes the oldest record: a SLOWPATH record is not delivered, any other goes to the routine context of its
launch, which IDLE then leaves; the kinds 1 and 4 to 8 write a fault record. R135 to R139: its 32 bytes hold cause, source,
core, lane, team, AUX0, AUX1, address, launch, address space, queue and V at their places; it enters the launch's sink, or
the fault queue, as `SinkTakes` says; a SLOWPATH record of a page enters the fault queue as PAGEFAULT. A unit that meets a fault sends a SLOWPATH record;
one that cannot be finished ends its operation in error once no tadpole of it is alive and what it had started has finished (the model's reading, log entries 99 and 100): the barrier
errs, an ASYNC record is sent. -/
def Obligations.EventRecords : Prop :=
  ∀ (s : State) (c : Nat) (r : EventRec) (rest : List EventRec),
    let k := s.core c
    let queued := fun (t : State) (x : EventRec) => x ∈ (t.core c).eq ∨ x ∈ (t.core c).eqHeld
    let status := r.status.toNat
    let fault := fun (l : Launch) => ({
      cause := if r.kind = 1 ∨ r.kind = 8 then 2 else r.kind, src := 0, die := c / 160, core := c % 160,
      lane := if r.kind = 8 then 0xFFFF else r.lane.getD 0xFFFF,
      team := ((s.team c r.slot).map Team.number).getD 0xFFFFFFFF,
      aux0 := if r.kind = 7 then 0 else if r.kind = 1 ∨ r.kind = 8 then status else status % 256,
      aux1 := if r.kind = 5 then status / 256 else 0, addr := r.addr.toNat, launch := bits l.record.doneSeq 0 32,
      asid := l.asid, queue := l.queue } : FaultRec)
    let ctx := List.find? (fun e : Nat × KeeperCtx => e.2.launch == some r.launch) k.contexts
    (k.eqHeld = r :: rest →
      (k.eq.length < 256 → k.deepIdle = false → s.Answers (.eqRecordEnqueue c) fun t => t.mem = s.mem ∧
        t.core c = { k with eq := k.eq ++ [r], eqHeld := rest }) ∧
      (256 ≤ k.eq.length → s.Answers (.eqRecordEnqueue c) (· = s))) ∧
    (k.eqHeld = [] → s.Answers (.eqRecordEnqueue c) (· = s)) ∧
    (k.eq = [] → s.Answers (.firmwareEvent c) (· = s)) ∧
    (k.eq = r :: rest →
      (r.kind = 3 → r.reported = false → s.Answers (.firmwareEvent c) fun t => t.mem = s.mem ∧ (t.core c).eq = rest ∧
        (ctx = none → (t.core c).contexts = k.contexts) ∧
        ∀ n x, ctx = some (n, x) → ∃ y, (t.core c).contexts.find? n = some y ∧ ((s.core c).contexts.find? n = some x →
          y.records = x.records ++ [r] ∧ (x.ag.status = .parked .idle → y.ag.status = .ready))) ∧
      (4 ≤ r.kind → r.kind ≤ 8 → r.reported = false → ∀ l, s.launch r.launch = some l → s.Answers (.firmwareEvent c) fun t =>
        (t.core c).eq = rest ∧ (t.launch r.launch).map Launch.faulted = some true ∧
        ((∀ line, (s.l2Line line).owner = none) → s.SinkTakes t r.launch l.record (fault l))) ∧
      (r.kind = 1 → r.reported = false → ctx ≠ none → ∀ l, s.launch r.launch = some l → s.Answers (.firmwareEvent c) fun t =>
        (t.core c).eq = rest ∧
        ((∀ line, (s.l2Line line).owner = none) → s.SinkTakes t r.launch l.record (fault l))) ∧
      (∀ o u a w l, r.kind = 9 → k.ops = [o] → o.phase = .slow u a (some w) → r.slot = o.slot → r.lane = some o.lane →
        r.addr = BitVec.ofNat 64 (u % 2 ^ 56) → (w.asid, w.page) ∉ s.cmd.faultsOut → s.launch o.launch = some l →
        (∀ line, (s.l2Line line).owner = none) → s.Answers (.firmwareEvent c) fun t => (t.core c).eq = rest ∧
          t.cmd.faultsOut = s.cmd.faultsOut ++ [(w.asid, w.page)] ∧ s.FqTakes t {
            cause := 3, src := 0, die := c / 160, core := c % 160, lane := o.lane, team := ((s.team c o.slot).map Team.number).getD 0xFFFFFFFF,
            aux0 := (if w.write then 1 else 0) + 4, addr := w.addr, launch := bits l.record.doneSeq 0 32,
            asid := o.asid, queue := l.queue } none)) ∧
    (∀ (x : FaultRec) (v : Nat),
      let f := fun (o n : Nat) => leNat (((x.bytes v).drop o).take n)
      (x.bytes v).length = 32 ∧ f 0 2 = x.cause % 2 ^ 16 ∧ f 2 1 = x.src % 256 ∧ f 3 1 = x.die % 256 ∧
        f 4 2 = x.core % 2 ^ 16 ∧ f 6 2 = x.lane % 2 ^ 16 ∧ f 8 4 = x.team % 2 ^ 32 ∧ f 12 1 = x.aux0 % 256 ∧
        f 13 1 = x.aux1 % 256 ∧ f 14 2 = 0 ∧ f 16 8 = x.addr % 2 ^ 56 ∧ f 24 4 = x.launch.toNat ∧
        f 28 1 = x.asid % 256 ∧ f 29 1 = x.queue % 256 ∧ f 30 1 = 0 ∧ f 31 1 = v % 256) ∧
    ∀ (engine seq : Nat) (o : EngineOp), k.deepIdle = false →
      s.op c (if engine = 1 then 2 else 0) (BitVec.ofNat 32 seq) = some o →
        (∀ u a w, o.phase = .faulted u a w → s.Answers (.engineUnitFault c engine seq) fun t => t.mem = s.mem ∧
          (t.op c o.queue o.seq).map EngineOp.phase = some (.slow u a w) ∧
          ∃ x, queued t x ∧ x.kind = 9 ∧ x.slot = o.slot ∧ x.lane = some o.lane ∧ x.addr = BitVec.ofNat 64 (u % 2 ^ 56) ∧
            x.status = BitVec.ofNat 16 o.code) ∧
        (∀ a x status, o.phase = .failed a x status → k.tadAlive o = true ∨ o.startedLeft ≠ [] →
          s.Answers (.engineUnitError c engine seq) (· = s)) ∧
        (∀ a x status, o.phase = .failed a x status → k.tadAlive o = false → s.ownedBy c o = [] → o.startedLeft = [] →
          s.ownershipOut c o = false → (s.opNet c o).2 = false → (∀ d ∈ o.dst, paRange d.pa = .local_) →
          s.Answers (.engineUnitError c engine seq) fun t => t.mem = s.mem ∧
            (∃ x', queued t x' ∧ x'.kind = x ∧ x'.status = BitVec.ofNat 16 status ∧ x'.lane = some o.lane ∧
              x'.addr = BitVec.ofNat 64 (a % 2 ^ 56)) ∧
            t.op c o.queue o.seq = none ∧
            ∀ b e, o.bar = some (b, e) → o.ownRef = false → (t.barrier b e).err = true)

/-- R78, R202, R203, R206, R212 to R214: a burst of a linear bulk read bears a tadpole of eight lanes in the lowest free
slot, with the words, the argument, the burst's place and its length in their registers; a GATH row whose index is within
the bound takes its bytes, another zeros, and the operation goes on at once or in a later CCLK (R212 leaves open what a lane
meets there meanwhile: log entry 98); the end after the last row, or the last write, completes the operation, whose entry is then free
and whose barrier takes one arrival and its bytes; a granted line is owned by its operation; a released one takes the
operation's bytes, exactly those, and is owned no more. Which bursts may deliver after a fault is the model's reading (log
entry 99). -/
def Obligations.TransferEvents : Prop :=
  ∀ (s : State) (c seq burst line : Nat) (o : EngineOp) (team : Team),
    let q := BitVec.ofNat 32 seq
    let gone := fun (t : State) => t.op c o.queue q = none
    let posted := fun (u t : State) (bytes : Nat) => ∀ b e, o.bar = some (b, e) →
      (o.ownRef = false ∨ 2 ≤ (u.barrier b e).refs) → (u.barrier b e).err = false →
      (u.barrier b e).arrived + 1 < (u.barrier b e).expect → (u.barrier b e).balance + bytes ≤ 0xFFFFFFFF →
      -0xFFFFFFFF ≤ (u.barrier b e).balance + bytes →
        (t.barrier b e).arrived = (u.barrier b e).arrived + 1 ∧ (t.barrier b e).balance = (u.barrier b e).balance + bytes
    let tm := fun (t : State) (a : Nat) => (t.team c o.slot).map fun m => NMap.get 0#8 m.tm a
    s.op c 0 q = some o → o.phase = .running → s.team c o.slot = some team →
    (∀ a n entry arg ev, o.kind = .bulk (.linear a n) entry arg ev → burst < o.units → burst ∉ o.unitsDone → o.delivers burst = true →
      64 * burst < n → ∀ r bs slot, s.engineLoad c o (a + 64 * burst) (min 64 (n - 64 * burst)) = .ok r bs →
        (r.core c).freeTad = some slot → (o.unitsDone.length + 1 < o.units ∨
          ∀ g, r.agentAt (.lane c o.slot o.lane) = some g → g.domain = none) → s.Answers (.burstDeliver c seq burst) fun t => ∃ y,
          (t.core c).tads.find? slot = some y ∧ y.seq = q ∧ y.burst = burst ∧ y.slot = o.slot ∧ y.lane = o.lane ∧
          ∀ i < 8, ∃ g, y.lanes.find? i = some g ∧ g.pc = BitVec.ofNat 64 entry ∧
            (∀ j < 2, g.reg j = BitVec.ofNat 32 (leNat ((List.range 4).map fun k => bs.getD (8 * i + 4 * j + k) 0#8))) ∧
            (∀ j < 4, g.reg (2 + j) = arg.getD j 0#32) ∧ g.reg 12 = BitVec.ofNat 32 burst ∧ g.reg 13 = 0#32 ∧
            g.reg 14 = BitVec.ofNat 32 (64 * burst) ∧ g.reg 15 = BitVec.ofNat 32 bs.length) ∧
    (∀ g, o.kind = .gath g → o.unitsDone.length + 1 = g.count →
      let row := o.unitsDone.length
      let at_ := g.taddr + row * g.rowlen
      ∀ r bs, s.engineLoad c o (g.xaddr + 4 * row) 4 = .ok r bs →
        let filled := fun (u : State) (new : List Byte) => s.Answers (.gatherComplete c seq) fun t =>
          (gone t ∨ .gatherComplete c q.toNat ∈ t.delayed) ∧
          ∀ x, tm t x = if at_ ≤ x ∧ x < at_ + new.length then (u.team c o.slot).map fun _ => new.getD (x - at_) 0#8 else tm u x
        (g.bound ≤ leNat bs → filled r (List.replicate g.rowlen 0#8)) ∧
        (leNat bs < g.bound → ∀ u new,
          r.engineLoad c o ((g.gbase + leNat bs * g.stride) % 2 ^ 64) g.rowlen = .ok u new → filled u new)) ∧
    (∀ g, o.kind = .gath g → o.unitsDone.length = g.count →
      s.Answers (.gatherComplete c seq) fun t => gone t ∧ posted s t (g.count * g.rowlen) ∧ t.mem = s.mem) ∧
    (∀ g cs dst, o.kind = .tcpy g cs dst → o.unitsDone.length = g.rows →
      s.Answers (.tcpyComplete c seq) fun t => gone t ∧ posted s t g.bytes ∧ t.mem = s.mem) ∧
    (o.dst = [] → s.ownedBy c o = [] → s.ownershipOut c o = false → s.opNet c o = (none, false) →
      (∀ g cs src, o.kind = .twb g cs src → o.unitsDone.length = g.rows →
        s.Answers (.tcpyComplete c seq) fun t => gone t ∧ posted s t g.bytes ∧ t.mem = s.mem) ∧
      (∀ g, o.kind = .scat g → o.unitsDone.length = g.count →
        s.Answers (.gatherComplete c seq) fun t => gone t ∧ posted s t (g.count * g.rowlen) ∧ t.mem = s.mem)) ∧
    ((s.l2Line line).owner = none → s.ownWait = [{ line := line, core := c, queue := 0, seq := q }] →
      ((NMap.get [] s.l2 (l2Key line)).filter fun l => l.owner.isSome).length < 8 → s.Answers (.ownershipGrant line) fun t =>
        (t.l2Line line).owner = some (c, 0, q) ∧ t.ownWait = [] ∧ t.mem = s.mem) ∧
    ((s.l2Line line).owner = some (c, 0, q) →
      let mine := o.dst.filter fun d => d.pa / 128 = line
      (mine.map DstByte.pa).Nodup → s.Answers (.engineLineRelease line) fun t => (t.l2Line line).owner = none ∧
        (∀ d ∈ mine, t.byteAt d.pa = d.value team (s.byteAt d.pa)) ∧ ∀ a, a ∉ mine.map DstByte.pa → t.byteAt a = s.byteAt a)
end

