-- ==== Sys2Proof/Laws/Dispatch.lean ====
section
/-! SUPPORT. The meaning of each instruction by name: `exec` on a constructor is that constructor's own definition. -/

namespace Sys2Proof.Machine

@[simp] theorem exec_iadd (d : BitVec 8) (a : BitVec 8) (b : BitVec 8) (s : State) : exec (.iadd d a b) s = execIadd d a b s := rfl

@[simp] theorem exec_iaddi (d : BitVec 8) (a : BitVec 8) (i : BitVec 9) (s : State) : exec (.iaddi d a i) s = execIaddi d a i s := rfl

@[simp] theorem exec_isub (d : BitVec 8) (a : BitVec 8) (b : BitVec 8) (s : State) : exec (.isub d a b) s = execIsub d a b s := rfl

@[simp] theorem exec_imul (d : BitVec 8) (a : BitVec 8) (b : BitVec 8) (s : State) : exec (.imul d a b) s = execImul d a b s := rfl

@[simp] theorem exec_imulh (d : BitVec 8) (a : BitVec 8) (b : BitVec 8) (m : BitVec 1) (s : State) : exec (.imulh d a b m) s = execImulh d a b m s := rfl

@[simp] theorem exec_imad (d : BitVec 8) (a : BitVec 8) (b : BitVec 8) (s : State) : exec (.imad d a b) s = execImad d a b s := rfl

@[simp] theorem exec_imin (d : BitVec 8) (a : BitVec 8) (b : BitVec 8) (m : BitVec 1) (s : State) : exec (.imin d a b m) s = execImin d a b m s := rfl

@[simp] theorem exec_imax (d : BitVec 8) (a : BitVec 8) (b : BitVec 8) (m : BitVec 1) (s : State) : exec (.imax d a b m) s = execImax d a b m s := rfl

@[simp] theorem exec_iand (d : BitVec 8) (a : BitVec 8) (b : BitVec 8) (s : State) : exec (.iand d a b) s = execIand d a b s := rfl

@[simp] theorem exec_iandi (d : BitVec 8) (a : BitVec 8) (i : BitVec 9) (s : State) : exec (.iandi d a i) s = execIandi d a i s := rfl

@[simp] theorem exec_ior (d : BitVec 8) (a : BitVec 8) (b : BitVec 8) (s : State) : exec (.ior d a b) s = execIor d a b s := rfl

@[simp] theorem exec_iori (d : BitVec 8) (a : BitVec 8) (i : BitVec 9) (s : State) : exec (.iori d a i) s = execIori d a i s := rfl

@[simp] theorem exec_ixor (d : BitVec 8) (a : BitVec 8) (b : BitVec 8) (s : State) : exec (.ixor d a b) s = execIxor d a b s := rfl

@[simp] theorem exec_ixori (d : BitVec 8) (a : BitVec 8) (i : BitVec 9) (s : State) : exec (.ixori d a i) s = execIxori d a i s := rfl

@[simp] theorem exec_ishl (d : BitVec 8) (a : BitVec 8) (b : BitVec 8) (s : State) : exec (.ishl d a b) s = execIshl d a b s := rfl

@[simp] theorem exec_ishli (d : BitVec 8) (a : BitVec 8) (i : BitVec 9) (s : State) : exec (.ishli d a i) s = execIshli d a i s := rfl

@[simp] theorem exec_ishr (d : BitVec 8) (a : BitVec 8) (b : BitVec 8) (s : State) : exec (.ishr d a b) s = execIshr d a b s := rfl

@[simp] theorem exec_ishri (d : BitVec 8) (a : BitVec 8) (i : BitVec 9) (s : State) : exec (.ishri d a i) s = execIshri d a i s := rfl

@[simp] theorem exec_isar (d : BitVec 8) (a : BitVec 8) (b : BitVec 8) (s : State) : exec (.isar d a b) s = execIsar d a b s := rfl

@[simp] theorem exec_isari (d : BitVec 8) (a : BitVec 8) (i : BitVec 9) (s : State) : exec (.isari d a i) s = execIsari d a i s := rfl

@[simp] theorem exec_irol (d : BitVec 8) (a : BitVec 8) (b : BitVec 8) (s : State) : exec (.irol d a b) s = execIrol d a b s := rfl

@[simp] theorem exec_inot (d : BitVec 8) (a : BitVec 8) (s : State) : exec (.inot d a) s = execInot d a s := rfl

@[simp] theorem exec_iabs (d : BitVec 8) (a : BitVec 8) (s : State) : exec (.iabs d a) s = execIabs d a s := rfl

@[simp] theorem exec_ipopc (d : BitVec 8) (a : BitVec 8) (s : State) : exec (.ipopc d a) s = execIpopc d a s := rfl

@[simp] theorem exec_iclz (d : BitVec 8) (a : BitVec 8) (s : State) : exec (.iclz d a) s = execIclz d a s := rfl

@[simp] theorem exec_ibrev (d : BitVec 8) (a : BitVec 8) (s : State) : exec (.ibrev d a) s = execIbrev d a s := rfl

@[simp] theorem exec_ibfx (d : BitVec 8) (a : BitVec 8) (b : BitVec 8) (m : BitVec 1) (s : State) : exec (.ibfx d a b m) s = execIbfx d a b m s := rfl

@[simp] theorem exec_ibfi (d : BitVec 8) (a : BitVec 8) (b : BitVec 8) (s : State) : exec (.ibfi d a b) s = execIbfi d a b s := rfl

@[simp] theorem exec_iadd64 (d : BitVec 7) (a : BitVec 7) (b : BitVec 7) (s : State) : exec (.iadd64 d a b) s = execIadd64 d a b s := rfl

@[simp] theorem exec_isub64 (d : BitVec 7) (a : BitVec 7) (b : BitVec 7) (s : State) : exec (.isub64 d a b) s = execIsub64 d a b s := rfl

@[simp] theorem exec_imul64 (d : BitVec 7) (a : BitVec 7) (b : BitVec 7) (s : State) : exec (.imul64 d a b) s = execImul64 d a b s := rfl

@[simp] theorem exec_lea (d : BitVec 7) (sc : BitVec 2) (a : BitVec 7) (b : BitVec 8) (m : BitVec 1) (s : State) : exec (.lea d sc a b m) s = execLea d sc a b m s := rfl

@[simp] theorem exec_mov (d : BitVec 8) (a : BitVec 8) (s : State) : exec (.mov d a) s = execMov d a s := rfl

@[simp] theorem exec_movi (d : BitVec 8) (i : BitVec 9) (s : State) : exec (.movi d i) s = execMovi d i s := rfl

@[simp] theorem exec_movk (d : BitVec 7) (k : BitVec 5) (s : State) : exec (.movk d k) s = execMovk d k s := rfl

@[simp] theorem exec_isel (p : BitVec 3) (d : BitVec 8) (a : BitVec 8) (b : BitVec 8) (m : BitVec 1) (s : State) : exec (.isel p d a b m) s = execIsel p d a b m s := rfl

@[simp] theorem exec_icmp (t : BitVec 2) (c : BitVec 3) (p : BitVec 3) (a : BitVec 8) (b : BitVec 8) (s : State) : exec (.icmp t c p a b) s = execIcmp t c p a b s := rfl

@[simp] theorem exec_icmpi (t : BitVec 2) (c : BitVec 3) (p : BitVec 3) (a : BitVec 8) (i : BitVec 9) (s : State) : exec (.icmpi t c p a i) s = execIcmpi t c p a i s := rfl

@[simp] theorem exec_pand (p : BitVec 3) (x : BitVec 1) (q : BitVec 3) (y : BitVec 1) (r : BitVec 3) (s : State) : exec (.pand p x q y r) s = execPand p x q y r s := rfl

@[simp] theorem exec_por (p : BitVec 3) (x : BitVec 1) (q : BitVec 3) (y : BitVec 1) (r : BitVec 3) (s : State) : exec (.por p x q y r) s = execPor p x q y r s := rfl

@[simp] theorem exec_pxor (p : BitVec 3) (x : BitVec 1) (q : BitVec 3) (y : BitVec 1) (r : BitVec 3) (s : State) : exec (.pxor p x q y r) s = execPxor p x q y r s := rfl

@[simp] theorem exec_pnot (p : BitVec 3) (x : BitVec 1) (q : BitVec 3) (s : State) : exec (.pnot p x q) s = execPnot p x q s := rfl

@[simp] theorem exec_pget (d : BitVec 8) (s : State) : exec (.pget d) s = execPget d s := rfl

@[simp] theorem exec_pset (a : BitVec 8) (s : State) : exec (.pset a) s = execPset a s := rfl

@[simp] theorem exec_brp (p : BitVec 3) (sc : BitVec 1) (o : BitVec 21) (s : State) : exec (.brp p sc o) s = execBrp p sc o s := rfl

@[simp] theorem exec_br (o : BitVec 21) (s : State) : exec (.br o) s = execBr o s := rfl

@[simp] theorem exec_call (o : BitVec 21) (s : State) : exec (.call o) s = execCall o s := rfl

@[simp] theorem exec_brx (a : BitVec 8) (s : State) : exec (.brx a) s = execBrx a s := rfl

@[simp] theorem exec_callx (p : BitVec 3) (a : BitVec 8) (s : State) : exec (.callx p a) s = execCallx p a s := rfl

@[simp] theorem exec_nop (s : State) : exec (.nop) s = execNop s := rfl

@[simp] theorem exec_ret (s : State) : exec (.ret) s = execRet s := rfl

@[simp] theorem exec_exit (s : State) : exec (.exit) s = execExit s := rfl

@[simp] theorem exec_yield (s : State) : exec (.yield) s = execYield s := rfl

@[simp] theorem exec_jset (j : BitVec 4) (s : State) : exec (.jset j) s = execJset j s := rfl

@[simp] theorem exec_jclr (j : BitVec 4) (s : State) : exec (.jclr j) s = execJclr j s := rfl

@[simp] theorem exec_jwait (j : BitVec 4) (s : State) : exec (.jwait j) s = execJwait j s := rfl

@[simp] theorem exec_jdrop (j : BitVec 4) (s : State) : exec (.jdrop j) s = execJdrop j s := rfl

@[simp] theorem exec_jmask (d : BitVec 8) (j : BitVec 4) (s : State) : exec (.jmask d j) s = execJmask d j s := rfl

@[simp] theorem exec_vshfl (d : BitVec 8) (a : BitVec 8) (b : BitVec 8) (m : BitVec 1) (s : State) : exec (.vshfl d a b m) s = execVshfl d a b m s := rfl

@[simp] theorem exec_vbal (d : BitVec 8) (x : BitVec 1) (p : BitVec 3) (b : BitVec 8) (s : State) : exec (.vbal d x p b) s = execVbal d x p b s := rfl

@[simp] theorem exec_vvote (q : BitVec 3) (x : BitVec 1) (p : BitVec 3) (b : BitVec 8) (m : BitVec 1) (s : State) : exec (.vvote q x p b m) s = execVvote q x p b m s := rfl

@[simp] theorem exec_vmatch (d : BitVec 8) (a : BitVec 8) (b : BitVec 8) (m : BitVec 1) (s : State) : exec (.vmatch d a b m) s = execVmatch d a b m s := rfl

@[simp] theorem exec_elect (p : BitVec 3) (b : BitVec 8) (s : State) : exec (.elect p b) s = execElect p b s := rfl

@[simp] theorem exec_vred (d : BitVec 8) (op : BitVec 4) (t : BitVec 4) (b : BitVec 8) (s : State) : exec (.vred d op t b) s = execVred d op t b s := rfl

@[simp] theorem exec_vscan (d : BitVec 8) (op : BitVec 4) (t : BitVec 4) (b : BitVec 8) (s : State) : exec (.vscan d op t b) s = execVscan d op t b s := rfl

@[simp] theorem exec_fadd (r : BitVec 2) (d : BitVec 8) (a : BitVec 8) (b : BitVec 8) (s : State) : exec (.fadd r d a b) s = execFadd r d a b s := rfl

@[simp] theorem exec_fsub (r : BitVec 2) (d : BitVec 8) (a : BitVec 8) (b : BitVec 8) (s : State) : exec (.fsub r d a b) s = execFsub r d a b s := rfl

@[simp] theorem exec_fdiv (r : BitVec 2) (d : BitVec 8) (a : BitVec 8) (b : BitVec 8) (s : State) : exec (.fdiv r d a b) s = execFdiv r d a b s := rfl

@[simp] theorem exec_ffma (r : BitVec 2) (d : BitVec 8) (a : BitVec 8) (b : BitVec 8) (s : State) : exec (.ffma r d a b) s = execFfma r d a b s := rfl

@[simp] theorem exec_fmul (r : BitVec 2) (d : BitVec 8) (a : BitVec 8) (b : BitVec 8) (s : State) : exec (.fmul r d a b) s = execFmul r d a b s := rfl

@[simp] theorem exec_fmin (d : BitVec 8) (a : BitVec 8) (b : BitVec 8) (s : State) : exec (.fmin d a b) s = execFmin d a b s := rfl

@[simp] theorem exec_fmax (d : BitVec 8) (a : BitVec 8) (b : BitVec 8) (s : State) : exec (.fmax d a b) s = execFmax d a b s := rfl

@[simp] theorem exec_fcmp (c : BitVec 3) (p : BitVec 3) (a : BitVec 8) (b : BitVec 8) (s : State) : exec (.fcmp c p a b) s = execFcmp c p a b s := rfl

@[simp] theorem exec_dcmp (c : BitVec 3) (p : BitVec 3) (a : BitVec 7) (b : BitVec 7) (s : State) : exec (.dcmp c p a b) s = execDcmp c p a b s := rfl

@[simp] theorem exec_hcmp2 (t : BitVec 1) (c : BitVec 3) (p : BitVec 2) (a : BitVec 8) (b : BitVec 8) (s : State) : exec (.hcmp2 t c p a b) s = execHcmp2 t c p a b s := rfl

@[simp] theorem exec_frnd (d : BitVec 8) (a : BitVec 8) (r : BitVec 3) (s : State) : exec (.frnd d a r) s = execFrnd d a r s := rfl

@[simp] theorem exec_fclass (d : BitVec 8) (a : BitVec 8) (s : State) : exec (.fclass d a) s = execFclass d a s := rfl

@[simp] theorem exec_frcp (d : BitVec 8) (a : BitVec 8) (s : State) : exec (.frcp d a) s = execFrcp d a s := rfl

@[simp] theorem exec_fsqrt (d : BitVec 8) (a : BitVec 8) (r : BitVec 3) (s : State) : exec (.fsqrt d a r) s = execFsqrt d a r s := rfl

@[simp] theorem exec_frsq (d : BitVec 8) (a : BitVec 8) (s : State) : exec (.frsq d a) s = execFrsq d a s := rfl

@[simp] theorem exec_fexp2 (d : BitVec 8) (a : BitVec 8) (s : State) : exec (.fexp2 d a) s = execFexp2 d a s := rfl

@[simp] theorem exec_flog2 (d : BitVec 8) (a : BitVec 8) (s : State) : exec (.flog2 d a) s = execFlog2 d a s := rfl

@[simp] theorem exec_fmovm (d : BitVec 8) (a : BitVec 8) (t : BitVec 2) (o : BitVec 2) (s : State) : exec (.fmovm d a t o) s = execFmovm d a t o s := rfl

@[simp] theorem exec_dsqrt (d : BitVec 7) (a : BitVec 7) (r : BitVec 3) (s : State) : exec (.dsqrt d a r) s = execDsqrt d a r s := rfl

@[simp] theorem exec_drnd (d : BitVec 7) (a : BitVec 7) (r : BitVec 3) (s : State) : exec (.drnd d a r) s = execDrnd d a r s := rfl

@[simp] theorem exec_hadd2 (d : BitVec 8) (a : BitVec 8) (b : BitVec 8) (m : BitVec 1) (s : State) : exec (.hadd2 d a b m) s = execHadd2 d a b m s := rfl

@[simp] theorem exec_hmul2 (d : BitVec 8) (a : BitVec 8) (b : BitVec 8) (m : BitVec 1) (s : State) : exec (.hmul2 d a b m) s = execHmul2 d a b m s := rfl

@[simp] theorem exec_hfma2 (d : BitVec 8) (a : BitVec 8) (b : BitVec 8) (m : BitVec 1) (s : State) : exec (.hfma2 d a b m) s = execHfma2 d a b m s := rfl

@[simp] theorem exec_hmin2 (d : BitVec 8) (a : BitVec 8) (b : BitVec 8) (m : BitVec 1) (s : State) : exec (.hmin2 d a b m) s = execHmin2 d a b m s := rfl

@[simp] theorem exec_hmax2 (d : BitVec 8) (a : BitVec 8) (b : BitVec 8) (m : BitVec 1) (s : State) : exec (.hmax2 d a b m) s = execHmax2 d a b m s := rfl

@[simp] theorem exec_dadd (d : BitVec 7) (r : BitVec 2) (a : BitVec 7) (b : BitVec 7) (s : State) : exec (.dadd d r a b) s = execDadd d r a b s := rfl

@[simp] theorem exec_dsub (d : BitVec 7) (r : BitVec 2) (a : BitVec 7) (b : BitVec 7) (s : State) : exec (.dsub d r a b) s = execDsub d r a b s := rfl

@[simp] theorem exec_dmul (d : BitVec 7) (r : BitVec 2) (a : BitVec 7) (b : BitVec 7) (s : State) : exec (.dmul d r a b) s = execDmul d r a b s := rfl

@[simp] theorem exec_dfma (d : BitVec 7) (r : BitVec 2) (a : BitVec 7) (b : BitVec 7) (s : State) : exec (.dfma d r a b) s = execDfma d r a b s := rfl

@[simp] theorem exec_ddiv (d : BitVec 7) (r : BitVec 2) (a : BitVec 7) (b : BitVec 7) (s : State) : exec (.ddiv d r a b) s = execDdiv d r a b s := rfl

@[simp] theorem exec_dmin (d : BitVec 7) (a : BitVec 7) (b : BitVec 7) (s : State) : exec (.dmin d a b) s = execDmin d a b s := rfl

@[simp] theorem exec_dmax (d : BitVec 7) (a : BitVec 7) (b : BitVec 7) (s : State) : exec (.dmax d a b) s = execDmax d a b s := rfl

@[simp] theorem exec_cvt (r : BitVec 3) (d : BitVec 8) (a : BitVec 8) (t : BitVec 4) (sc : BitVec 4) (s : State) : exec (.cvt r d a t sc) s = execCvt r d a t sc s := rfl

@[simp] theorem exec_cvtd (r : BitVec 3) (d : BitVec 8) (a : BitVec 8) (t : BitVec 4) (sc : BitVec 4) (s : State) : exec (.cvtd r d a t sc) s = execCvtd r d a t sc s := rfl

@[simp] theorem exec_drel (d : BitVec 8) (a : BitVec 7) (b : BitVec 7) (s : State) : exec (.drel d a b) s = execDrel d a b s := rfl

@[simp] theorem exec_qdxb (d : BitVec 8) (a : BitVec 8) (x : BitVec 1) (f : BitVec 1) (h : BitVec 1) (p : BitVec 3) (s : State) : exec (.qdxb d a x f h p) s = execQdxb d a x f h p s := rfl

@[simp] theorem exec_dqdxb (d : BitVec 8) (a : BitVec 8) (b : BitVec 8) (m : BitVec 1) (s : State) : exec (.dqdxb d a b m) s = execDqdxb d a b m s := rfl

@[simp] theorem exec_ld (d : BitVec 8) (a : BitVec 7) (z : BitVec 3) (o : BitVec 6) (s : State) : exec (.ld d a z o) s = execLd d a z o s := rfl

@[simp] theorem exec_ldSigned (d : BitVec 8) (a : BitVec 7) (z : BitVec 1) (o : BitVec 6) (s : State) : exec (.ldSigned d a z o) s = execLdSigned d a z o s := rfl

@[simp] theorem exec_st (d : BitVec 8) (a : BitVec 7) (z : BitVec 3) (o : BitVec 6) (s : State) : exec (.st d a z o) s = execSt d a z o s := rfl

@[simp] theorem exec_ldt (d : BitVec 8) (a : BitVec 8) (z : BitVec 3) (o : BitVec 6) (s : State) : exec (.ldt d a z o) s = execLdt d a z o s := rfl

@[simp] theorem exec_ldtSigned (d : BitVec 8) (a : BitVec 8) (z : BitVec 1) (o : BitVec 6) (s : State) : exec (.ldtSigned d a z o) s = execLdtSigned d a z o s := rfl

@[simp] theorem exec_stt (d : BitVec 8) (a : BitVec 8) (z : BitVec 3) (o : BitVec 6) (s : State) : exec (.stt d a z o) s = execStt d a z o s := rfl

@[simp] theorem exec_xld (d : BitVec 8) (a : BitVec 8) (b : BitVec 7) (s : State) : exec (.xld d a b) s = execXld d a b s := rfl

@[simp] theorem exec_xst (d : BitVec 8) (a : BitVec 8) (b : BitVec 7) (s : State) : exec (.xst d a b) s = execXst d a b s := rfl

@[simp] theorem exec_cflush (a : BitVec 7) (s : State) : exec (.cflush a) s = execCflush a s := rfl

@[simp] theorem exec_cinv (a : BitVec 7) (s : State) : exec (.cinv a) s = execCinv a s := rfl

@[simp] theorem exec_atom (d : BitVec 8) (a : BitVec 8) (o : BitVec 4) (z : BitVec 2) (m : BitVec 1) (s : State) : exec (.atom d a o z m) s = execAtom d a o z m s := rfl

@[simp] theorem exec_red (d : BitVec 8) (a : BitVec 8) (o : BitVec 4) (z : BitVec 2) (m : BitVec 1) (s : State) : exec (.red d a o z m) s = execRed d a o z m s := rfl

@[simp] theorem exec_atomf (d : BitVec 8) (a : BitVec 8) (o : BitVec 4) (z : BitVec 2) (m : BitVec 1) (s : State) : exec (.atomf d a o z m) s = execAtomf d a o z m s := rfl

@[simp] theorem exec_redf (d : BitVec 8) (a : BitVec 8) (o : BitVec 4) (z : BitVec 2) (m : BitVec 1) (s : State) : exec (.redf d a o z m) s = execRedf d a o z m s := rfl

@[simp] theorem exec_fence (sc : BitVec 2) (s : State) : exec (.fence sc) s = execFence sc s := rfl

@[simp] theorem exec_waitc (d : BitVec 8) (a : BitVec 7) (c : BitVec 4) (z : BitVec 2) (s : State) : exec (.waitc d a c z) s = execWaitc d a c z s := rfl

@[simp] theorem exec_balloc (d : BitVec 8) (p : BitVec 3) (i : BitVec 9) (s : State) : exec (.balloc d p i) s = execBalloc d p i s := rfl

@[simp] theorem exec_bref (a : BitVec 8) (s : State) : exec (.bref a) s = execBref a s := rfl

@[simp] theorem exec_bfree (a : BitVec 8) (s : State) : exec (.bfree a) s = execBfree a s := rfl

@[simp] theorem exec_barr (a : BitVec 8) (n : BitVec 4) (s : State) : exec (.barr a n) s = execBarr a n s := rfl

@[simp] theorem exec_barrReg (d : BitVec 8) (a : BitVec 8) (s : State) : exec (.barrReg d a) s = execBarrReg d a s := rfl

@[simp] theorem exec_bexp (d : BitVec 8) (a : BitVec 8) (s : State) : exec (.bexp d a) s = execBexp d a s := rfl

@[simp] theorem exec_bwait (a : BitVec 8) (p : BitVec 3) (s : State) : exec (.bwait a p) s = execBwait a p s := rfl

@[simp] theorem exec_btest (d : BitVec 8) (a : BitVec 8) (p : BitVec 3) (s : State) : exec (.btest d a p) s = execBtest d a p s := rfl

@[simp] theorem exec_tbar (s : State) : exec (.tbar) s = execTbar s := rfl

@[simp] theorem exec_cbar (s : State) : exec (.cbar) s = execCbar s := rfl

@[simp] theorem exec_bsnnew (d : BitVec 8) (a : BitVec 8) (p : BitVec 3) (s : State) : exec (.bsnnew d a p) s = execBsnnew d a p s := rfl

@[simp] theorem exec_bsnpost (d : BitVec 7) (a : BitVec 8) (p : BitVec 3) (s : State) : exec (.bsnpost d a p) s = execBsnpost d a p s := rfl

@[simp] theorem exec_bsnfill (d : BitVec 8) (a : BitVec 8) (p : BitVec 3) (s : State) : exec (.bsnfill d a p) s = execBsnfill d a p s := rfl

@[simp] theorem exec_bsnrel (a : BitVec 8) (p : BitVec 3) (s : State) : exec (.bsnrel a p) s = execBsnrel a p s := rfl

@[simp] theorem exec_bsnfree (a : BitVec 8) (s : State) : exec (.bsnfree a) s = execBsnfree a s := rfl

@[simp] theorem exec_brdhLin (d : BitVec 8) (a : BitVec 7) (e : BitVec 1) (p : BitVec 3) (s : State) : exec (.brdhLin d a e p) s = execBrdhLin d a e p s := rfl

@[simp] theorem exec_brdhTen (d : BitVec 8) (a : BitVec 7) (e : BitVec 1) (p : BitVec 3) (s : State) : exec (.brdhTen d a e p) s = execBrdhTen d a e p s := rfl

@[simp] theorem exec_tcpy (d : BitVec 8) (a : BitVec 7) (b : BitVec 1) (p : BitVec 3) (s : State) : exec (.tcpy d a b p) s = execTcpy d a b p s := rfl

@[simp] theorem exec_twb (d : BitVec 8) (a : BitVec 7) (p : BitVec 3) (s : State) : exec (.twb d a p) s = execTwb d a p s := rfl

@[simp] theorem exec_gath (a : BitVec 8) (p : BitVec 3) (s : State) : exec (.gath a p) s = execGath a p s := rfl

@[simp] theorem exec_scat (a : BitVec 8) (p : BitVec 3) (s : State) : exec (.scat a p) s = execScat a p s := rfl

@[simp] theorem exec_moor (d : BitVec 8) (a : BitVec 7) (p : BitVec 3) (s : State) : exec (.moor d a p) s = execMoor d a p s := rfl

@[simp] theorem exec_unmoor (d : BitVec 8) (a : BitVec 7) (s : State) : exec (.unmoor d a) s = execUnmoor d a s := rfl

@[simp] theorem exec_mma (d : BitVec 8) (a : BitVec 8) (p : BitVec 3) (s : State) : exec (.mma d a p) s = execMma d a p s := rfl

@[simp] theorem exec_acld (d : BitVec 8) (a : BitVec 8) (c : BitVec 4) (s : State) : exec (.acld d a c) s = execAcld d a c s := rfl

@[simp] theorem exec_acst (d : BitVec 8) (a : BitVec 8) (c : BitVec 4) (s : State) : exec (.acst d a c) s = execAcst d a c s := rfl

@[simp] theorem exec_acz (a : BitVec 8) (s : State) : exec (.acz a) s = execAcz a s := rfl

@[simp] theorem exec_acq (d : BitVec 8) (a : BitVec 8) (p : BitVec 3) (s : State) : exec (.acq d a p) s = execAcq d a p s := rfl

@[simp] theorem exec_acflg (d : BitVec 8) (a : BitVec 8) (s : State) : exec (.acflg d a) s = execAcflg d a s := rfl

@[simp] theorem exec_wopen (a : BitVec 7) (p : BitVec 3) (s : State) : exec (.wopen a p) s = execWopen a p s := rfl

@[simp] theorem exec_wapp (d : BitVec 6) (a : BitVec 7) (p : BitVec 3) (s : State) : exec (.wapp d a p) s = execWapp d a p s := rfl

@[simp] theorem exec_wtake (d : BitVec 6) (a : BitVec 7) (p : BitVec 3) (s : State) : exec (.wtake d a p) s = execWtake d a p s := rfl

@[simp] theorem exec_tend (s : State) : exec (.tend) s = execTend s := rfl

@[simp] theorem exec_clins (d : BitVec 8) (a : BitVec 7) (p : BitVec 3) (s : State) : exec (.clins d a p) s = execClins d a p s := rfl

@[simp] theorem exec_clrem (d : BitVec 8) (a : BitVec 7) (p : BitVec 3) (s : State) : exec (.clrem d a p) s = execClrem d a p s := rfl

@[simp] theorem exec_clnext (d : BitVec 8) (a : BitVec 7) (p : BitVec 3) (s : State) : exec (.clnext d a p) s = execClnext d a p s := rfl

@[simp] theorem exec_clcnt (d : BitVec 7) (a : BitVec 7) (s : State) : exec (.clcnt d a) s = execClcnt d a s := rfl

@[simp] theorem exec_clgrow (d : BitVec 8) (a : BitVec 7) (p : BitVec 3) (s : State) : exec (.clgrow d a p) s = execClgrow d a p s := rfl

@[simp] theorem exec_clstat (d : BitVec 6) (a : BitVec 7) (s : State) : exec (.clstat d a) s = execClstat d a s := rfl

@[simp] theorem exec_frag (d : BitVec 8) (a : BitVec 7) (p : BitVec 3) (s : State) : exec (.frag d a p) s = execFrag d a p s := rfl

@[simp] theorem exec_frrd (d : BitVec 8) (a : BitVec 7) (s : State) : exec (.frrd d a) s = execFrrd d a s := rfl

@[simp] theorem exec_rslv (d : BitVec 6) (a : BitVec 7) (f : BitVec 1) (s : State) : exec (.rslv d a f) s = execRslv d a f s := rfl

@[simp] theorem exec_frclr (d : BitVec 8) (a : BitVec 7) (s : State) : exec (.frclr d a) s = execFrclr d a s := rfl

@[simp] theorem exec_pooladd (d : BitVec 8) (a : BitVec 7) (p : BitVec 3) (s : State) : exec (.pooladd d a p) s = execPooladd d a p s := rfl

@[simp] theorem exec_poolst (d : BitVec 8) (a : BitVec 7) (s : State) : exec (.poolst d a) s = execPoolst d a s := rfl

@[simp] theorem exec_isect (d : BitVec 8) (a : BitVec 7) (s : State) : exec (.isect d a) s = execIsect d a s := rfl

@[simp] theorem exec_isnext (d : BitVec 8) (s : State) : exec (.isnext d) s = execIsnext d s := rfl

@[simp] theorem exec_tcov (d : BitVec 8) (s : State) : exec (.tcov d) s = execTcov d s := rfl

@[simp] theorem exec_mfs (d : BitVec 8) (n : BitVec 12) (s : State) : exec (.mfs d n) s = execMfs d n s := rfl

@[simp] theorem exec_mts (d : BitVec 8) (n : BitVec 12) (s : State) : exec (.mts d n) s = execMts d n s := rfl

@[simp] theorem exec_trap (n : BitVec 8) (s : State) : exec (.trap n) s = execTrap n s := rfl

@[simp] theorem exec_eret (s : State) : exec (.eret) s = execEret s := rfl

@[simp] theorem exec_brk (s : State) : exec (.brk) s = execBrk s := rfl

@[simp] theorem exec_evpop (d : BitVec 6) (p : BitVec 3) (s : State) : exec (.evpop d p) s = execEvpop d p s := rfl

@[simp] theorem exec_evpeek (d : BitVec 6) (p : BitVec 3) (s : State) : exec (.evpeek d p) s = execEvpeek d p s := rfl

@[simp] theorem exec_trel (a : BitVec 8) (p : BitVec 3) (s : State) : exec (.trel a p) s = execTrel a p s := rfl

@[simp] theorem exec_tkill (a : BitVec 8) (p : BitVec 3) (s : State) : exec (.tkill a p) s = execTkill a p s := rfl

@[simp] theorem exec_idle (s : State) : exec (.idle) s = execIdle s := rfl

@[simp] theorem exec_hintImm20 (i : BitVec 21) (s : State) : exec (.hintImm20 i) s = execHintImm20 i s := rfl

@[simp] theorem exec_hintGuard (x : BitVec 1) (p : BitVec 3) (s : State) : exec (.hintGuard x p) s = execHintGuard x p s := rfl

@[simp] theorem exec_hintC4 (c : BitVec 8) (s : State) : exec (.hintC4 c) s = execHintC4 c s := rfl

@[simp] theorem exec_hintCache (k : BitVec 2) (s : State) : exec (.hintCache k) s = execHintCache k s := rfl

@[simp] theorem exec_hintScope (sc : BitVec 2) (s : State) : exec (.hintScope sc) s = execHintScope sc s := rfl

@[simp] theorem exec_hintDxbd (d : BitVec 4) (s : State) : exec (.hintDxbd d) s = execHintDxbd d s := rfl

@[simp] theorem exec_wordLevelIllegal (word : Word) (s : State) : exec (.wordLevelIllegal word) s = execWordLevelIllegal word s := rfl

@[simp] theorem exec_malformedHint (word : Word) (s : State) : exec (.malformedHint word) s = execMalformedHint word s := rfl

@[simp] theorem exec_deepIdleEnter (die : Nat) (row : Nat) (s : State) : exec (.deepIdleEnter die row) s = execDeepIdleEnter die row s := rfl

@[simp] theorem exec_rowWake (die : Nat) (row : Nat) (s : State) : exec (.rowWake die row) s = execRowWake die row s := rfl

@[simp] theorem exec_issueRamp (core : Nat) (s : State) : exec (.issueRamp core) s = execIssueRamp core s := rfl

@[simp] theorem exec_peerAccessArrive (access : Nat) (s : State) : exec (.peerAccessArrive access) s = execPeerAccessArrive access s := rfl

@[simp] theorem exec_retireTimeout (aperture : Nat) (s : State) : exec (.retireTimeout aperture) s = execRetireTimeout aperture s := rfl

@[simp] theorem exec_retireFenced (aperture : Nat) (s : State) : exec (.retireFenced aperture) s = execRetireFenced aperture s := rfl

@[simp] theorem exec_rowActivation (stack : Nat) (bank : Nat) (row : Nat) (s : State) : exec (.rowActivation stack bank row) s = execRowActivation stack bank row s := rfl

@[simp] theorem exec_refreshWindowEnd (stack : Nat) (s : State) : exec (.refreshWindowEnd stack) s = execRefreshWindowEnd stack s := rfl

@[simp] theorem exec_patrolScrub (sector : Nat) (s : State) : exec (.patrolScrub sector) s = execPatrolScrub sector s := rfl

@[simp] theorem exec_errorLogReport (die : Nat) (s : State) : exec (.errorLogReport die) s = execErrorLogReport die s := rfl

@[simp] theorem exec_moorLeaseEnd (line : Nat) (s : State) : exec (.moorLeaseEnd line) s = execMoorLeaseEnd line s := rfl

@[simp] theorem exec_dependencyRead (queue : Nat) (s : State) : exec (.dependencyRead queue) s = execDependencyRead queue s := rfl

@[simp] theorem exec_dieSchedCycle (die : Nat) (s : State) : exec (.dieSchedCycle die) s = execDieSchedCycle die s := rfl

@[simp] theorem exec_drainStart (die : Nat) (s : State) : exec (.drainStart die) s = execDrainStart die s := rfl

@[simp] theorem exec_regionClaim (core : Nat) (slot : Nat) (s : State) : exec (.regionClaim core slot) s = execRegionClaim core slot s := rfl

@[simp] theorem exec_teamStart (core : Nat) (slot : Nat) (s : State) : exec (.teamStart core slot) s = execTeamStart core slot s := rfl

@[simp] theorem exec_teamResume (core : Nat) (slot : Nat) (s : State) : exec (.teamResume core slot) s = execTeamResume core slot s := rfl

@[simp] theorem exec_slotRelease (core : Nat) (slot : Nat) (s : State) : exec (.slotRelease core slot) s = execSlotRelease core slot s := rfl

@[simp] theorem exec_launchComplete (launch : Nat) (s : State) : exec (.launchComplete launch) s = execLaunchComplete launch s := rfl

@[simp] theorem exec_broadcastFetch (core : Nat) (berth : Nat) (s : State) : exec (.broadcastFetch core berth) s = execBroadcastFetch core berth s := rfl

@[simp] theorem exec_laneStarving (lane : AgentRef) (s : State) : exec (.laneStarving lane) s = execLaneStarving lane s := rfl

@[simp] theorem exec_runAhead (lane : AgentRef) (s : State) : exec (.runAhead lane) s = execRunAhead lane s := rfl

@[simp] theorem exec_loadReturn (lane : AgentRef) (s : State) : exec (.loadReturn lane) s = execLoadReturn lane s := rfl

@[simp] theorem exec_storeCompletion (lane : AgentRef) (s : State) : exec (.storeCompletion lane) s = execStoreCompletion lane s := rfl

@[simp] theorem exec_yieldRelease (lane : AgentRef) (s : State) : exec (.yieldRelease lane) s = execYieldRelease lane s := rfl

@[simp] theorem exec_eqRecordEnqueue (core : Nat) (s : State) : exec (.eqRecordEnqueue core) s = execEqRecordEnqueue core s := rfl

@[simp] theorem exec_firmwareEvent (core : Nat) (s : State) : exec (.firmwareEvent core) s = execFirmwareEvent core s := rfl

@[simp] theorem exec_engineUnitFault (core : Nat) (engine : Nat) (seq : Nat) (s : State) : exec (.engineUnitFault core engine seq) s = execEngineUnitFault core engine seq s := rfl

@[simp] theorem exec_engineUnitError (core : Nat) (engine : Nat) (seq : Nat) (s : State) : exec (.engineUnitError core engine seq) s = execEngineUnitError core engine seq s := rfl

@[simp] theorem exec_burstDeliver (core : Nat) (seq : Nat) (burst : Nat) (s : State) : exec (.burstDeliver core seq burst) s = execBurstDeliver core seq burst s := rfl

@[simp] theorem exec_tcpyComplete (core : Nat) (seq : Nat) (s : State) : exec (.tcpyComplete core seq) s = execTcpyComplete core seq s := rfl

@[simp] theorem exec_gatherComplete (core : Nat) (seq : Nat) (s : State) : exec (.gatherComplete core seq) s = execGatherComplete core seq s := rfl

@[simp] theorem exec_ownershipGrant (line : Nat) (s : State) : exec (.ownershipGrant line) s = execOwnershipGrant line s := rfl

@[simp] theorem exec_engineLineRelease (line : Nat) (s : State) : exec (.engineLineRelease line) s = execEngineLineRelease line s := rfl

@[simp] theorem exec_mmaOperandRead (core : Nat) (seq : Nat) (s : State) : exec (.mmaOperandRead core seq) s = execMmaOperandRead core seq s := rfl

@[simp] theorem exec_mmaComplete (core : Nat) (seq : Nat) (s : State) : exec (.mmaComplete core seq) s = execMmaComplete core seq s := rfl

@[simp] theorem exec_acqComplete (core : Nat) (seq : Nat) (s : State) : exec (.acqComplete core seq) s = execAcqComplete core seq s := rfl

@[simp] theorem exec_waitcReread (lane : AgentRef) (s : State) : exec (.waitcReread lane) s = execWaitcReread lane s := rfl

@[simp] theorem exec_wappItemWritten (item : Nat) (s : State) : exec (.wappItemWritten item) s = execWappItemWritten item s := rfl

@[simp] theorem exec_wtakeEmpty (lane : AgentRef) (s : State) : exec (.wtakeEmpty lane) s = execWtakeEmpty lane s := rfl

@[simp] theorem exec_bsnfillTimeout (lane : AgentRef) (s : State) : exec (.bsnfillTimeout lane) s = execBsnfillTimeout lane s := rfl

@[simp] theorem exec_hbmTrained (report : DieReport) (s : State) : exec (.hbmTrained report) s = execHbmTrained report s := rfl

@[simp] theorem exec_bootRecordFetched (firmware : Bool) (bytes : Option (List Byte)) (s : State) : exec (.bootRecordFetched firmware bytes) s = execBootRecordFetched firmware bytes s := rfl

@[simp] theorem exec_thermalSample (hotDie : BitVec 8) (tMax : BitVec 8) (hbmMax : BitVec 8) (s : State) : exec (.thermalSample hotDie tMax hbmMax) s = execThermalSample hotDie tMax hbmMax s := rfl

@[simp] theorem exec_powerWindowEnd (milliwatts : Nat) (s : State) : exec (.powerWindowEnd milliwatts) s = execPowerWindowEnd milliwatts s := rfl

@[simp] theorem exec_pwrCapWrite (mgmt : Bool) (value : Word) (s : State) : exec (.pwrCapWrite mgmt value) s = execPwrCapWrite mgmt value s := rfl

@[simp] theorem exec_floorWrite (value : Word) (s : State) : exec (.floorWrite value) s = execFloorWrite value s := rfl

@[simp] theorem exec_ident (datagram : TypedDatagram) (s : State) : exec (.ident datagram) s = execIdent datagram s := rfl

@[simp] theorem exec_status (datagram : Datagram) (s : State) : exec (.status datagram) s = execStatus datagram s := rfl

@[simp] theorem exec_regrd (seq : Nat) (payload : List Byte) (s : State) : exec (.regrd seq payload) s = execRegrd seq payload s := rfl

@[simp] theorem exec_regwr (seq : Nat) (offset : List Byte) (value : List Byte) (s : State) : exec (.regwr seq offset value) s = execRegwr seq offset value s := rfl

@[simp] theorem exec_getVersion (path : MctpPath) (request : List Byte) (s : State) : exec (.getVersion path request) s = execGetVersion path request s := rfl

@[simp] theorem exec_getCapabilities (path : MctpPath) (request : List Byte) (s : State) : exec (.getCapabilities path request) s = execGetCapabilities path request s := rfl

@[simp] theorem exec_negotiateAlgorithms (path : MctpPath) (request : List Byte) (s : State) : exec (.negotiateAlgorithms path request) s = execNegotiateAlgorithms path request s := rfl

@[simp] theorem exec_getDigests (path : MctpPath) (request : List Byte) (s : State) : exec (.getDigests path request) s = execGetDigests path request s := rfl

@[simp] theorem exec_getCertificate (path : MctpPath) (request : List Byte) (s : State) : exec (.getCertificate path request) s = execGetCertificate path request s := rfl

@[simp] theorem exec_challenge (path : MctpPath) (request : List Byte) (s : State) : exec (.challenge path request) s = execChallenge path request s := rfl

@[simp] theorem exec_getMeasurements (path : MctpPath) (request : List Byte) (s : State) : exec (.getMeasurements path request) s = execGetMeasurements path request s := rfl

@[simp] theorem exec_keyExchange (path : MctpPath) (request : List Byte) (s : State) : exec (.keyExchange path request) s = execKeyExchange path request s := rfl

@[simp] theorem exec_finish (path : MctpPath) (request : List Byte) (s : State) : exec (.finish path request) s = execFinish path request s := rfl

@[simp] theorem exec_securedMessage (path : MctpPath) (request : List Byte) (s : State) : exec (.securedMessage path request) s = execSecuredMessage path request s := rfl

@[simp] theorem exec_hostMemRead (addr : HostAddr) (size : Nat) (tag : Nat) (s : State) : exec (.hostMemRead addr size tag) s = execHostMemRead addr size tag s := rfl

@[simp] theorem exec_hostMemWrite (addr : HostAddr) (bytes : List Byte) (s : State) : exec (.hostMemWrite addr bytes) s = execHostMemWrite addr bytes s := rfl

@[simp] theorem exec_peerInbound (accel : Nat) (request : PeerRequest) (s : State) : exec (.peerInbound accel request) s = execPeerInbound accel request s := rfl

@[simp] theorem exec_apertureEn (aperture : Nat) (s : State) : exec (.apertureEn aperture) s = execApertureEn aperture s := rfl

@[simp] theorem exec_apertureRetire (aperture : Nat) (s : State) : exec (.apertureRetire aperture) s = execApertureRetire aperture s := rfl

@[simp] theorem exec_peerCompletion (access : Nat) (bytes : List Byte) (s : State) : exec (.peerCompletion access bytes) s = execPeerCompletion access bytes s := rfl

@[simp] theorem exec_ualinkPortDown (port : Nat) (s : State) : exec (.ualinkPortDown port) s = execUalinkPortDown port s := rfl

@[simp] theorem exec_ualinkPortUp (port : Nat) (s : State) : exec (.ualinkPortUp port) s = execUalinkPortUp port s := rfl

@[simp] theorem exec_hostPortDown (port : Nat) (s : State) : exec (.hostPortDown port) s = execHostPortDown port s := rfl

@[simp] theorem exec_ucieFlitFail (die : Nat) (s : State) : exec (.ucieFlitFail die) s = execUcieFlitFail die s := rfl

@[simp] theorem exec_linkReplay (link : ReplayLink) (s : State) : exec (.linkReplay link) s = execLinkReplay link s := rfl

@[simp] theorem exec_memoryErrorDetect (error : MemoryError) (s : State) : exec (.memoryErrorDetect error) s = execMemoryErrorDetect error s := rfl

@[simp] theorem exec_qwrWrite (queue : Nat) (value : Word) (s : State) : exec (.qwrWrite queue value) s = execQwrWrite queue value s := rfl

@[simp] theorem exec_qctlEn (queue : Nat) (en : Bool) (s : State) : exec (.qctlEn queue en) s = execQctlEn queue en s := rfl

@[simp] theorem exec_qctlKill (queue : Nat) (s : State) : exec (.qctlKill queue) s = execQctlKill queue s := rfl

@[simp] theorem exec_replayRetry (asid : Nat) (page : Nat) (s : State) : exec (.replayRetry asid page) s = execReplayRetry asid page s := rfl

@[simp] theorem exec_replayFail (asid : Nat) (page : Nat) (s : State) : exec (.replayFail asid page) s = execReplayFail asid page s := rfl

@[simp] theorem exec_invalRange (asid : Nat) (va : Nat) (size : Nat) (s : State) : exec (.invalRange asid va size) s = execInvalRange asid va size s := rfl

@[simp] theorem exec_invalAll (asid : Nat) (s : State) : exec (.invalAll asid) s = execInvalAll asid s := rfl

@[simp] theorem exec_fqRdWrite (value : Word) (s : State) : exec (.fqRdWrite value) s = execFqRdWrite value s := rfl

@[simp] theorem exec_elogRdWrite (die : Nat) (value : Word) (s : State) : exec (.elogRdWrite die value) s = execElogRdWrite die value s := rfl

@[simp] theorem exec_intMaskWrite (value : Word) (s : State) : exec (.intMaskWrite value) s = execIntMaskWrite value s := rfl

@[simp] theorem exec_registerWrite (offset : Nat) (value : Word) (s : State) : exec (.registerWrite offset value) s = execRegisterWrite offset value s := rfl

@[simp] theorem exec_hostPortUp (port : Nat) (width : BitVec 4) (speed : BitVec 3) (cxl : Bool) (s : State) : exec (.hostPortUp port width speed cxl) s = execHostPortUp port width speed cxl s := rfl

@[simp] theorem exec_bootStagingWrite (firmware : Bool) (offset : Nat) (bytes : List Byte) (s : State) : exec (.bootStagingWrite firmware offset bytes) s = execBootStagingWrite firmware offset bytes s := rfl

@[simp] theorem exec_hostAtomicop (op : HostAtomic) (offset : Nat) (tag : Nat) (s : State) : exec (.hostAtomicop op offset tag) s = execHostAtomicop op offset tag s := rfl

@[simp] theorem exec_powerOn (s : State) : exec (.powerOn) s = execPowerOn s := rfl

@[simp] theorem exec_rowStart (s : State) : exec (.rowStart) s = execRowStart s := rfl

@[simp] theorem exec_bootctlGo (s : State) : exec (.bootctlGo) s = execBootctlGo s := rfl

@[simp] theorem exec_bootctlRestart (s : State) : exec (.bootctlRestart) s = execBootctlRestart s := rfl

@[simp] theorem exec_stepRecompute (s : State) : exec (.stepRecompute) s = execStepRecompute s := rfl

@[simp] theorem exec_stepChange (s : State) : exec (.stepChange) s = execStepChange s := rfl

@[simp] theorem exec_btsTick (s : State) : exec (.btsTick) s = execBtsTick s := rfl

@[simp] theorem exec_invalComplete (s : State) : exec (.invalComplete) s = execInvalComplete s := rfl

@[simp] theorem exec_iodSchedCycle (s : State) : exec (.iodSchedCycle) s = execIodSchedCycle s := rfl

end Sys2Proof.Machine
end

