-- ==== Sys2Proof/Laws/Map.lean ====
section
/-! SUPPORT. Sparse tables: what reading gives after a write, the canonical form every operation keeps, and the same for
the bytes of memory. -/

namespace Sys2Proof.Machine

namespace NMap

variable {α : Type}

@[simp] theorem find?_nil (q : Nat) : find? ([] : NMap α) q = none := rfl

theorem find?_put (m : NMap α) (q r : Nat) (x : α) : find? (put m q x) r = if r = q then some x else find? m r := by
  induction m with
  | nil => simp [put, find?]
  | cons e m ih =>
    obtain ⟨k, v⟩ := e
    unfold put
    split
    · simp only [find?]
    · split
      · rename_i h; subst h
        simp only [find?]
        split <;> simp_all
      · rename_i h
        simp only [find?, ih]
        by_cases hr : r = k
        · subst hr; simp [Ne.symm h]
        · simp [hr]

@[simp] theorem find?_put_self (m : NMap α) (q : Nat) (x : α) : find? (put m q x) q = some x := by simp [find?_put]

theorem find?_put_of_ne (m : NMap α) {q r : Nat} (x : α) (h : r ≠ q) : find? (put m q x) r = find? m r := by
  simp [find?_put, h]

theorem find?_del (m : NMap α) (q r : Nat) : find? (del m q) r = if r = q then none else find? m r := by
  induction m with
  | nil => simp [del]
  | cons e m ih =>
    obtain ⟨k, v⟩ := e
    unfold del at ih ⊢
    by_cases hk : k = q
    · subst hk
      simp only [List.filter_cons, find?]
      simp only [ne_eq, not_true_eq_false, decide_false, Bool.false_eq_true, if_false, ih]
      split <;> simp_all
    · simp only [List.filter_cons, ne_eq, hk, not_false_eq_true, decide_true, if_true, find?]
      by_cases hr : r = k
      · subst hr; simp [hk]
      · simpa [hr] using ih

theorem get_put (d : α) (m : NMap α) (q r : Nat) (x : α) : get d (put m q x) r = if r = q then x else get d m r := by
  unfold get
  rw [find?_put]
  split <;> rfl

/-- A read after a write: the value written at its key, every other key as before. -/
theorem get_set [DecidableEq α] (d : α) (m : NMap α) (q r : Nat) (x : α) :
    get d (set d m q x) r = if r = q then x else get d m r := by
  unfold set
  split
  · rename_i h; subst h
    unfold get
    rw [find?_del]
    split <;> rfl
  · exact get_put d m q r x

@[simp] theorem get_set_self [DecidableEq α] (d : α) (m : NMap α) (q : Nat) (x : α) : get d (set d m q x) q = x := by
  simp [get_set]

theorem get_set_of_ne [DecidableEq α] (d : α) (m : NMap α) {q r : Nat} (x : α) (h : r ≠ q) :
    get d (set d m q x) r = get d m r := by simp [get_set, h]

/-! ### The canonical form -/

theorem risesFrom_mono {lo lo' : Nat} (h : lo' ≤ lo) : ∀ {m : NMap α}, risesFrom lo m = true → risesFrom lo' m = true
  | [], _ => rfl
  | _ :: _, hm => by
    simp only [risesFrom, Bool.and_eq_true, decide_eq_true_eq] at hm ⊢
    exact ⟨Nat.le_trans h hm.1, hm.2⟩

theorem risesFrom_put {lo q : Nat} (x : α) : ∀ {m : NMap α}, lo ≤ q → risesFrom lo m = true →
    risesFrom lo (put m q x) = true
  | [], hq, _ => by simp [put, risesFrom, hq]
  | (k, v) :: m, hq, hm => by
    simp only [risesFrom, Bool.and_eq_true, decide_eq_true_eq] at hm
    unfold put
    split
    · simp only [risesFrom, Bool.and_eq_true, decide_eq_true_eq]
      exact ⟨hq, by omega, hm.2⟩
    · split
      · rename_i h; subst h
        simp only [risesFrom, Bool.and_eq_true, decide_eq_true_eq]
        exact ⟨hq, hm.2⟩
      · simp only [risesFrom, Bool.and_eq_true, decide_eq_true_eq]
        exact ⟨hm.1, risesFrom_put x (by omega) hm.2⟩

theorem risesFrom_filter (p : Nat × α → Bool) {lo : Nat} {m : NMap α} (hm : risesFrom lo m = true) :
    risesFrom lo (m.filter p) = true := by
  induction m generalizing lo with
  | nil => exact hm
  | cons e m ih =>
    simp only [risesFrom, Bool.and_eq_true, decide_eq_true_eq] at hm
    rw [List.filter_cons]
    split
    · simp only [risesFrom, Bool.and_eq_true, decide_eq_true_eq]
      exact ⟨hm.1, ih hm.2⟩
    · exact risesFrom_mono (by omega) (ih hm.2)

theorem mem_put {m : NMap α} {q : Nat} {x : α} {e : Nat × α} (h : e ∈ put m q x) : e = (q, x) ∨ e ∈ m := by
  induction m with
  | nil => simpa [put] using h
  | cons a m ih =>
    obtain ⟨k, v⟩ := a
    unfold put at h
    split at h
    · simpa using h
    · split at h
      · simp only [List.mem_cons] at h ⊢
        exact h.imp_right .inr
      · simp only [List.mem_cons] at h ⊢
        rcases h with h | h
        · exact .inr (.inl h)
        · exact (ih h).imp_right .inr

/-- The write of a key keeps the canonical form. -/
theorem wf_set [DecidableEq α] (d : α) {m : NMap α} (q : Nat) (x : α) (hm : wf d m = true) : wf d (set d m q x) = true := by
  simp only [wf, Bool.and_eq_true, List.all_eq_true, decide_eq_true_eq] at hm ⊢
  unfold set
  split
  · exact ⟨risesFrom_filter _ hm.1, fun e he => hm.2 e (List.mem_of_mem_filter he)⟩
  · rename_i h
    refine ⟨risesFrom_put x (Nat.zero_le _) hm.1, fun e he => ?_⟩
    rcases mem_put he with h' | h'
    · subst h'; exact h
    · exact hm.2 e h'

/-- Entries left out keep the canonical form. -/
theorem wf_filter [DecidableEq α] (d : α) (p : Nat × α → Bool) {m : NMap α} (hm : wf d m = true) :
    wf d (m.filter p) = true := by
  simp only [wf, Bool.and_eq_true, List.all_eq_true, decide_eq_true_eq] at hm ⊢
  exact ⟨risesFrom_filter _ hm.1, fun e he => hm.2 e (List.mem_of_mem_filter he)⟩

end NMap

/-! ### Bytes -/

@[simp] theorem leBytes_length (n x : Nat) : (leBytes n x).length = n := by
  induction n generalizing x with
  | zero => rfl
  | succ n ih => simp [leBytes, ih]

/-- The number of the bytes of a number is the number, where the bytes hold it. -/
theorem leNat_leBytes (n x : Nat) : leNat (leBytes n x) = x % 256 ^ n := by
  induction n generalizing x with
  | zero => simp [leBytes, leNat, Nat.mod_one]
  | succ n ih =>
    simp only [leBytes, leNat, ih, BitVec.toNat_ofNat]
    rw [show 256 ^ (n + 1) = 256 * 256 ^ n from Nat.pow_succ', Nat.mod_mul]

/-- The byte read at an address after bytes have been written from `pa` up. -/
theorem get_putBytes (m : NMap Byte) (pa : Nat) (bs : List Byte) (a : Nat) :
    NMap.get 0#8 (putBytes m pa bs) a =
      if pa ≤ a ∧ a < pa + bs.length then bs.getD (a - pa) 0#8 else NMap.get 0#8 m a := by
  induction bs generalizing m pa with
  | nil => simp only [putBytes, List.length_nil]; rw [if_neg (by omega)]
  | cons b bs ih =>
    simp only [putBytes, ih, NMap.get_set, List.length_cons]
    by_cases h : a = pa
    · subst h
      rw [if_neg (by omega), if_pos rfl, if_pos (by omega)]
      simp
    · by_cases h2 : pa ≤ a ∧ a < pa + (bs.length + 1)
      · rw [if_pos (by omega), if_pos h2]
        have : a - pa = (a - (pa + 1)) + 1 := by omega
        rw [this]; simp
      · rw [if_neg (by omega), if_neg h, if_neg h2]

/-- Bytes written keep the canonical form of memory. -/
theorem Memory.wf_putBytes {m : List Host.Cell} (pa : Nat) (bs : List Byte) (hm : Memory.wf m = true) :
    Memory.wf (putBytes m pa bs) = true := by
  induction bs generalizing m pa with
  | nil => exact hm
  | cons b bs ih => exact ih _ (NMap.wf_set _ _ _ hm)

@[simp] theorem State.bytesAt_length (s : State) (pa n : Nat) : (s.bytesAt pa n).length = n := by
  induction n generalizing pa with
  | zero => rfl
  | succ n ih => simp [State.bytesAt, ih]

/-- The byte read at an address after bytes of memory have been written. -/
theorem State.byteAt_pokeBytes (s : State) (pa : Nat) (bs : List Byte) (a : Nat) :
    (s.pokeBytes pa bs).byteAt a = if pa ≤ a ∧ a < pa + bs.length then bs.getD (a - pa) 0#8 else s.byteAt a :=
  get_putBytes s.mem pa bs a

/-- A read of one byte is a read of the first of several. -/
theorem State.bytesAt_congr {s t : State} {pa n : Nat} (h : ∀ a, pa ≤ a → a < pa + n → t.byteAt a = s.byteAt a) :
    t.bytesAt pa n = s.bytesAt pa n := by
  induction n generalizing pa with
  | zero => rfl
  | succ n ih =>
    simp only [State.bytesAt]
    rw [h pa (Nat.le_refl _) (by omega), ih fun a h1 h2 => h a (by omega) (by omega)]

end Sys2Proof.Machine
end

