-- ==== Sys2Proof/Laws/State.lean ====
section
/-! SUPPORT. One lemma for each field of the state and each update: what the update leaves of the field. -/

namespace Sys2Proof.Machine

variable (s : State)

/-! ### modAg -/

@[simp] theorem State.modAg_cclk (f : Agent → Agent) : (s.modAg f).cclk = s.cclk := rfl
@[simp] theorem State.modAg_bts (f : Agent → Agent) : (s.modAg f).bts = s.bts := rfl
@[simp] theorem State.modAg_smc (f : Agent → Agent) : (s.modAg f).smc = s.smc := rfl
@[simp] theorem State.modAg_cfgWin (f : Agent → Agent) : (s.modAg f).cfgWin = s.cfgWin := rfl
@[simp] theorem State.modAg_fwWin (f : Agent → Agent) : (s.modAg f).fwWin = s.fwWin := rfl
@[simp] theorem State.modAg_hostWin (f : Agent → Agent) : (s.modAg f).hostWin = s.hostWin := rfl
@[simp] theorem State.modAg_barLog2 (f : Agent → Agent) : (s.modAg f).barLog2 = s.barLog2 := rfl
@[simp] theorem State.modAg_hostPorts (f : Agent → Agent) : (s.modAg f).hostPorts = s.hostPorts := rfl
@[simp] theorem State.modAg_peerPorts (f : Agent → Agent) : (s.modAg f).peerPorts = s.peerPorts := rfl
@[simp] theorem State.modAg_d2dRetry (f : Agent → Agent) : (s.modAg f).d2dRetry = s.d2dRetry := rfl
@[simp] theorem State.modAg_d2dFailed (f : Agent → Agent) : (s.modAg f).d2dFailed = s.d2dFailed := rfl
@[simp] theorem State.modAg_inReject (f : Agent → Agent) : (s.modAg f).inReject = s.inReject := rfl
@[simp] theorem State.modAg_allow (f : Agent → Agent) : (s.modAg f).allow = s.allow := rfl
@[simp] theorem State.modAg_apertures (f : Agent → Agent) : (s.modAg f).apertures = s.apertures := rfl
@[simp] theorem State.modAg_net (f : Agent → Agent) : (s.modAg f).net = s.net := rfl
@[simp] theorem State.modAg_netNext (f : Agent → Agent) : (s.modAg f).netNext = s.netNext := rfl
@[simp] theorem State.modAg_outTs (f : Agent → Agent) : (s.modAg f).outTs = s.outTs := rfl
@[simp] theorem State.modAg_mem (f : Agent → Agent) : (s.modAg f).mem = s.mem := rfl
@[simp] theorem State.modAg_poison (f : Agent → Agent) : (s.modAg f).poison = s.poison := rfl
@[simp] theorem State.modAg_l2 (f : Agent → Agent) : (s.modAg f).l2 = s.l2 := rfl
@[simp] theorem State.modAg_mts (f : Agent → Agent) : (s.modAg f).mts = s.mts := rfl
@[simp] theorem State.modAg_ownWait (f : Agent → Agent) : (s.modAg f).ownWait = s.ownWait := rfl
@[simp] theorem State.modAg_rmws (f : Agent → Agent) : (s.modAg f).rmws = s.rmws := rfl
@[simp] theorem State.modAg_moors (f : Agent → Agent) : (s.modAg f).moors = s.moors := rfl
@[simp] theorem State.modAg_monitors (f : Agent → Agent) : (s.modAg f).monitors = s.monitors := rfl
@[simp] theorem State.modAg_msc (f : Agent → Agent) : (s.modAg f).msc = s.msc := rfl
@[simp] theorem State.modAg_mscClock (f : Agent → Agent) : (s.modAg f).mscClock = s.mscClock := rfl
@[simp] theorem State.modAg_rowAct (f : Agent → Agent) : (s.modAg f).rowAct = s.rowAct := rfl
@[simp] theorem State.modAg_tlb (f : Agent → Agent) : (s.modAg f).tlb = s.tlb := rfl
@[simp] theorem State.modAg_dieMem (f : Agent → Agent) : (s.modAg f).dieMem = s.dieMem := rfl
@[simp] theorem State.modAg_queues (f : Agent → Agent) : (s.modAg f).queues = s.queues := rfl
@[simp] theorem State.modAg_ptroots (f : Agent → Agent) : (s.modAg f).ptroots = s.ptroots := rfl
@[simp] theorem State.modAg_cmd (f : Agent → Agent) : (s.modAg f).cmd = s.cmd := rfl
@[simp] theorem State.modAg_launches (f : Agent → Agent) : (s.modAg f).launches = s.launches := rfl
@[simp] theorem State.modAg_dies (f : Agent → Agent) : (s.modAg f).dies = s.dies := rfl
@[simp] theorem State.modAg_cores (f : Agent → Agent) : (s.modAg f).cores = s.cores := rfl
@[simp] theorem State.modAg_wlItems (f : Agent → Agent) : (s.modAg f).wlItems = s.wlItems := rfl
@[simp] theorem State.modAg_wlNext (f : Agent → Agent) : (s.modAg f).wlNext = s.wlNext := rfl
@[simp] theorem State.modAg_mgmtOut (f : Agent → Agent) : (s.modAg f).mgmtOut = s.mgmtOut := rfl
@[simp] theorem State.modAg_hostOut (f : Agent → Agent) : (s.modAg f).hostOut = s.hostOut := rfl
@[simp] theorem State.modAg_peerOut (f : Agent → Agent) : (s.modAg f).peerOut = s.peerOut := rfl
@[simp] theorem State.modAg_aer (f : Agent → Agent) : (s.modAg f).aer = s.aer := rfl
@[simp] theorem State.modAg_msix (f : Agent → Agent) : (s.modAg f).msix = s.msix := rfl
@[simp] theorem State.modAg_cur (f : Agent → Agent) : (s.modAg f).cur = s.cur := rfl
@[simp] theorem State.modAg_ag (f : Agent → Agent) : (s.modAg f).ag = f s.ag := rfl
@[simp] theorem State.modAg_agenda (f : Agent → Agent) : (s.modAg f).agenda = s.agenda := rfl
@[simp] theorem State.modAg_delayed (f : Agent → Agent) : (s.modAg f).delayed = s.delayed := rfl
@[simp] theorem State.modAg_free (f : Agent → Agent) : (s.modAg f).free = s.free := rfl

/-! ### setV -/

@[simp] theorem State.setV_cclk (r : Nat) (x : Word) : (s.setV r x).cclk = s.cclk := rfl
@[simp] theorem State.setV_bts (r : Nat) (x : Word) : (s.setV r x).bts = s.bts := rfl
@[simp] theorem State.setV_smc (r : Nat) (x : Word) : (s.setV r x).smc = s.smc := rfl
@[simp] theorem State.setV_cfgWin (r : Nat) (x : Word) : (s.setV r x).cfgWin = s.cfgWin := rfl
@[simp] theorem State.setV_fwWin (r : Nat) (x : Word) : (s.setV r x).fwWin = s.fwWin := rfl
@[simp] theorem State.setV_hostWin (r : Nat) (x : Word) : (s.setV r x).hostWin = s.hostWin := rfl
@[simp] theorem State.setV_barLog2 (r : Nat) (x : Word) : (s.setV r x).barLog2 = s.barLog2 := rfl
@[simp] theorem State.setV_hostPorts (r : Nat) (x : Word) : (s.setV r x).hostPorts = s.hostPorts := rfl
@[simp] theorem State.setV_peerPorts (r : Nat) (x : Word) : (s.setV r x).peerPorts = s.peerPorts := rfl
@[simp] theorem State.setV_d2dRetry (r : Nat) (x : Word) : (s.setV r x).d2dRetry = s.d2dRetry := rfl
@[simp] theorem State.setV_d2dFailed (r : Nat) (x : Word) : (s.setV r x).d2dFailed = s.d2dFailed := rfl
@[simp] theorem State.setV_inReject (r : Nat) (x : Word) : (s.setV r x).inReject = s.inReject := rfl
@[simp] theorem State.setV_allow (r : Nat) (x : Word) : (s.setV r x).allow = s.allow := rfl
@[simp] theorem State.setV_apertures (r : Nat) (x : Word) : (s.setV r x).apertures = s.apertures := rfl
@[simp] theorem State.setV_net (r : Nat) (x : Word) : (s.setV r x).net = s.net := rfl
@[simp] theorem State.setV_netNext (r : Nat) (x : Word) : (s.setV r x).netNext = s.netNext := rfl
@[simp] theorem State.setV_outTs (r : Nat) (x : Word) : (s.setV r x).outTs = s.outTs := rfl
@[simp] theorem State.setV_mem (r : Nat) (x : Word) : (s.setV r x).mem = s.mem := rfl
@[simp] theorem State.setV_poison (r : Nat) (x : Word) : (s.setV r x).poison = s.poison := rfl
@[simp] theorem State.setV_l2 (r : Nat) (x : Word) : (s.setV r x).l2 = s.l2 := rfl
@[simp] theorem State.setV_mts (r : Nat) (x : Word) : (s.setV r x).mts = s.mts := rfl
@[simp] theorem State.setV_ownWait (r : Nat) (x : Word) : (s.setV r x).ownWait = s.ownWait := rfl
@[simp] theorem State.setV_rmws (r : Nat) (x : Word) : (s.setV r x).rmws = s.rmws := rfl
@[simp] theorem State.setV_moors (r : Nat) (x : Word) : (s.setV r x).moors = s.moors := rfl
@[simp] theorem State.setV_monitors (r : Nat) (x : Word) : (s.setV r x).monitors = s.monitors := rfl
@[simp] theorem State.setV_msc (r : Nat) (x : Word) : (s.setV r x).msc = s.msc := rfl
@[simp] theorem State.setV_mscClock (r : Nat) (x : Word) : (s.setV r x).mscClock = s.mscClock := rfl
@[simp] theorem State.setV_rowAct (r : Nat) (x : Word) : (s.setV r x).rowAct = s.rowAct := rfl
@[simp] theorem State.setV_tlb (r : Nat) (x : Word) : (s.setV r x).tlb = s.tlb := rfl
@[simp] theorem State.setV_dieMem (r : Nat) (x : Word) : (s.setV r x).dieMem = s.dieMem := rfl
@[simp] theorem State.setV_queues (r : Nat) (x : Word) : (s.setV r x).queues = s.queues := rfl
@[simp] theorem State.setV_ptroots (r : Nat) (x : Word) : (s.setV r x).ptroots = s.ptroots := rfl
@[simp] theorem State.setV_cmd (r : Nat) (x : Word) : (s.setV r x).cmd = s.cmd := rfl
@[simp] theorem State.setV_launches (r : Nat) (x : Word) : (s.setV r x).launches = s.launches := rfl
@[simp] theorem State.setV_dies (r : Nat) (x : Word) : (s.setV r x).dies = s.dies := rfl
@[simp] theorem State.setV_cores (r : Nat) (x : Word) : (s.setV r x).cores = s.cores := rfl
@[simp] theorem State.setV_wlItems (r : Nat) (x : Word) : (s.setV r x).wlItems = s.wlItems := rfl
@[simp] theorem State.setV_wlNext (r : Nat) (x : Word) : (s.setV r x).wlNext = s.wlNext := rfl
@[simp] theorem State.setV_mgmtOut (r : Nat) (x : Word) : (s.setV r x).mgmtOut = s.mgmtOut := rfl
@[simp] theorem State.setV_hostOut (r : Nat) (x : Word) : (s.setV r x).hostOut = s.hostOut := rfl
@[simp] theorem State.setV_peerOut (r : Nat) (x : Word) : (s.setV r x).peerOut = s.peerOut := rfl
@[simp] theorem State.setV_aer (r : Nat) (x : Word) : (s.setV r x).aer = s.aer := rfl
@[simp] theorem State.setV_msix (r : Nat) (x : Word) : (s.setV r x).msix = s.msix := rfl
@[simp] theorem State.setV_cur (r : Nat) (x : Word) : (s.setV r x).cur = s.cur := rfl
@[simp] theorem State.setV_ag (r : Nat) (x : Word) : (s.setV r x).ag = s.ag.setReg r x := rfl
@[simp] theorem State.setV_agenda (r : Nat) (x : Word) : (s.setV r x).agenda = s.agenda := rfl
@[simp] theorem State.setV_delayed (r : Nat) (x : Word) : (s.setV r x).delayed = s.delayed := rfl
@[simp] theorem State.setV_free (r : Nat) (x : Word) : (s.setV r x).free = s.free := rfl

/-! ### setPair -/

@[simp] theorem State.setPair_cclk (r : Nat) (x : DWord) : (s.setPair r x).cclk = s.cclk := rfl
@[simp] theorem State.setPair_bts (r : Nat) (x : DWord) : (s.setPair r x).bts = s.bts := rfl
@[simp] theorem State.setPair_smc (r : Nat) (x : DWord) : (s.setPair r x).smc = s.smc := rfl
@[simp] theorem State.setPair_cfgWin (r : Nat) (x : DWord) : (s.setPair r x).cfgWin = s.cfgWin := rfl
@[simp] theorem State.setPair_fwWin (r : Nat) (x : DWord) : (s.setPair r x).fwWin = s.fwWin := rfl
@[simp] theorem State.setPair_hostWin (r : Nat) (x : DWord) : (s.setPair r x).hostWin = s.hostWin := rfl
@[simp] theorem State.setPair_barLog2 (r : Nat) (x : DWord) : (s.setPair r x).barLog2 = s.barLog2 := rfl
@[simp] theorem State.setPair_hostPorts (r : Nat) (x : DWord) : (s.setPair r x).hostPorts = s.hostPorts := rfl
@[simp] theorem State.setPair_peerPorts (r : Nat) (x : DWord) : (s.setPair r x).peerPorts = s.peerPorts := rfl
@[simp] theorem State.setPair_d2dRetry (r : Nat) (x : DWord) : (s.setPair r x).d2dRetry = s.d2dRetry := rfl
@[simp] theorem State.setPair_d2dFailed (r : Nat) (x : DWord) : (s.setPair r x).d2dFailed = s.d2dFailed := rfl
@[simp] theorem State.setPair_inReject (r : Nat) (x : DWord) : (s.setPair r x).inReject = s.inReject := rfl
@[simp] theorem State.setPair_allow (r : Nat) (x : DWord) : (s.setPair r x).allow = s.allow := rfl
@[simp] theorem State.setPair_apertures (r : Nat) (x : DWord) : (s.setPair r x).apertures = s.apertures := rfl
@[simp] theorem State.setPair_net (r : Nat) (x : DWord) : (s.setPair r x).net = s.net := rfl
@[simp] theorem State.setPair_netNext (r : Nat) (x : DWord) : (s.setPair r x).netNext = s.netNext := rfl
@[simp] theorem State.setPair_outTs (r : Nat) (x : DWord) : (s.setPair r x).outTs = s.outTs := rfl
@[simp] theorem State.setPair_mem (r : Nat) (x : DWord) : (s.setPair r x).mem = s.mem := rfl
@[simp] theorem State.setPair_poison (r : Nat) (x : DWord) : (s.setPair r x).poison = s.poison := rfl
@[simp] theorem State.setPair_l2 (r : Nat) (x : DWord) : (s.setPair r x).l2 = s.l2 := rfl
@[simp] theorem State.setPair_mts (r : Nat) (x : DWord) : (s.setPair r x).mts = s.mts := rfl
@[simp] theorem State.setPair_ownWait (r : Nat) (x : DWord) : (s.setPair r x).ownWait = s.ownWait := rfl
@[simp] theorem State.setPair_rmws (r : Nat) (x : DWord) : (s.setPair r x).rmws = s.rmws := rfl
@[simp] theorem State.setPair_moors (r : Nat) (x : DWord) : (s.setPair r x).moors = s.moors := rfl
@[simp] theorem State.setPair_monitors (r : Nat) (x : DWord) : (s.setPair r x).monitors = s.monitors := rfl
@[simp] theorem State.setPair_msc (r : Nat) (x : DWord) : (s.setPair r x).msc = s.msc := rfl
@[simp] theorem State.setPair_mscClock (r : Nat) (x : DWord) : (s.setPair r x).mscClock = s.mscClock := rfl
@[simp] theorem State.setPair_rowAct (r : Nat) (x : DWord) : (s.setPair r x).rowAct = s.rowAct := rfl
@[simp] theorem State.setPair_tlb (r : Nat) (x : DWord) : (s.setPair r x).tlb = s.tlb := rfl
@[simp] theorem State.setPair_dieMem (r : Nat) (x : DWord) : (s.setPair r x).dieMem = s.dieMem := rfl
@[simp] theorem State.setPair_queues (r : Nat) (x : DWord) : (s.setPair r x).queues = s.queues := rfl
@[simp] theorem State.setPair_ptroots (r : Nat) (x : DWord) : (s.setPair r x).ptroots = s.ptroots := rfl
@[simp] theorem State.setPair_cmd (r : Nat) (x : DWord) : (s.setPair r x).cmd = s.cmd := rfl
@[simp] theorem State.setPair_launches (r : Nat) (x : DWord) : (s.setPair r x).launches = s.launches := rfl
@[simp] theorem State.setPair_dies (r : Nat) (x : DWord) : (s.setPair r x).dies = s.dies := rfl
@[simp] theorem State.setPair_cores (r : Nat) (x : DWord) : (s.setPair r x).cores = s.cores := rfl
@[simp] theorem State.setPair_wlItems (r : Nat) (x : DWord) : (s.setPair r x).wlItems = s.wlItems := rfl
@[simp] theorem State.setPair_wlNext (r : Nat) (x : DWord) : (s.setPair r x).wlNext = s.wlNext := rfl
@[simp] theorem State.setPair_mgmtOut (r : Nat) (x : DWord) : (s.setPair r x).mgmtOut = s.mgmtOut := rfl
@[simp] theorem State.setPair_hostOut (r : Nat) (x : DWord) : (s.setPair r x).hostOut = s.hostOut := rfl
@[simp] theorem State.setPair_peerOut (r : Nat) (x : DWord) : (s.setPair r x).peerOut = s.peerOut := rfl
@[simp] theorem State.setPair_aer (r : Nat) (x : DWord) : (s.setPair r x).aer = s.aer := rfl
@[simp] theorem State.setPair_msix (r : Nat) (x : DWord) : (s.setPair r x).msix = s.msix := rfl
@[simp] theorem State.setPair_cur (r : Nat) (x : DWord) : (s.setPair r x).cur = s.cur := rfl
@[simp] theorem State.setPair_ag (r : Nat) (x : DWord) : (s.setPair r x).ag = s.ag.setPair r x := rfl
@[simp] theorem State.setPair_agenda (r : Nat) (x : DWord) : (s.setPair r x).agenda = s.agenda := rfl
@[simp] theorem State.setPair_delayed (r : Nat) (x : DWord) : (s.setPair r x).delayed = s.delayed := rfl
@[simp] theorem State.setPair_free (r : Nat) (x : DWord) : (s.setPair r x).free = s.free := rfl

/-! ### setP -/

@[simp] theorem State.setP_cclk (p : BitVec 3) (b : Bool) : (s.setP p b).cclk = s.cclk := rfl
@[simp] theorem State.setP_bts (p : BitVec 3) (b : Bool) : (s.setP p b).bts = s.bts := rfl
@[simp] theorem State.setP_smc (p : BitVec 3) (b : Bool) : (s.setP p b).smc = s.smc := rfl
@[simp] theorem State.setP_cfgWin (p : BitVec 3) (b : Bool) : (s.setP p b).cfgWin = s.cfgWin := rfl
@[simp] theorem State.setP_fwWin (p : BitVec 3) (b : Bool) : (s.setP p b).fwWin = s.fwWin := rfl
@[simp] theorem State.setP_hostWin (p : BitVec 3) (b : Bool) : (s.setP p b).hostWin = s.hostWin := rfl
@[simp] theorem State.setP_barLog2 (p : BitVec 3) (b : Bool) : (s.setP p b).barLog2 = s.barLog2 := rfl
@[simp] theorem State.setP_hostPorts (p : BitVec 3) (b : Bool) : (s.setP p b).hostPorts = s.hostPorts := rfl
@[simp] theorem State.setP_peerPorts (p : BitVec 3) (b : Bool) : (s.setP p b).peerPorts = s.peerPorts := rfl
@[simp] theorem State.setP_d2dRetry (p : BitVec 3) (b : Bool) : (s.setP p b).d2dRetry = s.d2dRetry := rfl
@[simp] theorem State.setP_d2dFailed (p : BitVec 3) (b : Bool) : (s.setP p b).d2dFailed = s.d2dFailed := rfl
@[simp] theorem State.setP_inReject (p : BitVec 3) (b : Bool) : (s.setP p b).inReject = s.inReject := rfl
@[simp] theorem State.setP_allow (p : BitVec 3) (b : Bool) : (s.setP p b).allow = s.allow := rfl
@[simp] theorem State.setP_apertures (p : BitVec 3) (b : Bool) : (s.setP p b).apertures = s.apertures := rfl
@[simp] theorem State.setP_net (p : BitVec 3) (b : Bool) : (s.setP p b).net = s.net := rfl
@[simp] theorem State.setP_netNext (p : BitVec 3) (b : Bool) : (s.setP p b).netNext = s.netNext := rfl
@[simp] theorem State.setP_outTs (p : BitVec 3) (b : Bool) : (s.setP p b).outTs = s.outTs := rfl
@[simp] theorem State.setP_mem (p : BitVec 3) (b : Bool) : (s.setP p b).mem = s.mem := rfl
@[simp] theorem State.setP_poison (p : BitVec 3) (b : Bool) : (s.setP p b).poison = s.poison := rfl
@[simp] theorem State.setP_l2 (p : BitVec 3) (b : Bool) : (s.setP p b).l2 = s.l2 := rfl
@[simp] theorem State.setP_mts (p : BitVec 3) (b : Bool) : (s.setP p b).mts = s.mts := rfl
@[simp] theorem State.setP_ownWait (p : BitVec 3) (b : Bool) : (s.setP p b).ownWait = s.ownWait := rfl
@[simp] theorem State.setP_rmws (p : BitVec 3) (b : Bool) : (s.setP p b).rmws = s.rmws := rfl
@[simp] theorem State.setP_moors (p : BitVec 3) (b : Bool) : (s.setP p b).moors = s.moors := rfl
@[simp] theorem State.setP_monitors (p : BitVec 3) (b : Bool) : (s.setP p b).monitors = s.monitors := rfl
@[simp] theorem State.setP_msc (p : BitVec 3) (b : Bool) : (s.setP p b).msc = s.msc := rfl
@[simp] theorem State.setP_mscClock (p : BitVec 3) (b : Bool) : (s.setP p b).mscClock = s.mscClock := rfl
@[simp] theorem State.setP_rowAct (p : BitVec 3) (b : Bool) : (s.setP p b).rowAct = s.rowAct := rfl
@[simp] theorem State.setP_tlb (p : BitVec 3) (b : Bool) : (s.setP p b).tlb = s.tlb := rfl
@[simp] theorem State.setP_dieMem (p : BitVec 3) (b : Bool) : (s.setP p b).dieMem = s.dieMem := rfl
@[simp] theorem State.setP_queues (p : BitVec 3) (b : Bool) : (s.setP p b).queues = s.queues := rfl
@[simp] theorem State.setP_ptroots (p : BitVec 3) (b : Bool) : (s.setP p b).ptroots = s.ptroots := rfl
@[simp] theorem State.setP_cmd (p : BitVec 3) (b : Bool) : (s.setP p b).cmd = s.cmd := rfl
@[simp] theorem State.setP_launches (p : BitVec 3) (b : Bool) : (s.setP p b).launches = s.launches := rfl
@[simp] theorem State.setP_dies (p : BitVec 3) (b : Bool) : (s.setP p b).dies = s.dies := rfl
@[simp] theorem State.setP_cores (p : BitVec 3) (b : Bool) : (s.setP p b).cores = s.cores := rfl
@[simp] theorem State.setP_wlItems (p : BitVec 3) (b : Bool) : (s.setP p b).wlItems = s.wlItems := rfl
@[simp] theorem State.setP_wlNext (p : BitVec 3) (b : Bool) : (s.setP p b).wlNext = s.wlNext := rfl
@[simp] theorem State.setP_mgmtOut (p : BitVec 3) (b : Bool) : (s.setP p b).mgmtOut = s.mgmtOut := rfl
@[simp] theorem State.setP_hostOut (p : BitVec 3) (b : Bool) : (s.setP p b).hostOut = s.hostOut := rfl
@[simp] theorem State.setP_peerOut (p : BitVec 3) (b : Bool) : (s.setP p b).peerOut = s.peerOut := rfl
@[simp] theorem State.setP_aer (p : BitVec 3) (b : Bool) : (s.setP p b).aer = s.aer := rfl
@[simp] theorem State.setP_msix (p : BitVec 3) (b : Bool) : (s.setP p b).msix = s.msix := rfl
@[simp] theorem State.setP_cur (p : BitVec 3) (b : Bool) : (s.setP p b).cur = s.cur := rfl
@[simp] theorem State.setP_ag (p : BitVec 3) (b : Bool) : (s.setP p b).ag = s.ag.setPred p b := rfl
@[simp] theorem State.setP_agenda (p : BitVec 3) (b : Bool) : (s.setP p b).agenda = s.agenda := rfl
@[simp] theorem State.setP_delayed (p : BitVec 3) (b : Bool) : (s.setP p b).delayed = s.delayed := rfl
@[simp] theorem State.setP_free (p : BitVec 3) (b : Bool) : (s.setP p b).free = s.free := rfl

/-! ### advance -/

@[simp] theorem State.advance_cclk : (s.advance).cclk = s.cclk := rfl
@[simp] theorem State.advance_bts : (s.advance).bts = s.bts := rfl
@[simp] theorem State.advance_smc : (s.advance).smc = s.smc := rfl
@[simp] theorem State.advance_cfgWin : (s.advance).cfgWin = s.cfgWin := rfl
@[simp] theorem State.advance_fwWin : (s.advance).fwWin = s.fwWin := rfl
@[simp] theorem State.advance_hostWin : (s.advance).hostWin = s.hostWin := rfl
@[simp] theorem State.advance_barLog2 : (s.advance).barLog2 = s.barLog2 := rfl
@[simp] theorem State.advance_hostPorts : (s.advance).hostPorts = s.hostPorts := rfl
@[simp] theorem State.advance_peerPorts : (s.advance).peerPorts = s.peerPorts := rfl
@[simp] theorem State.advance_d2dRetry : (s.advance).d2dRetry = s.d2dRetry := rfl
@[simp] theorem State.advance_d2dFailed : (s.advance).d2dFailed = s.d2dFailed := rfl
@[simp] theorem State.advance_inReject : (s.advance).inReject = s.inReject := rfl
@[simp] theorem State.advance_allow : (s.advance).allow = s.allow := rfl
@[simp] theorem State.advance_apertures : (s.advance).apertures = s.apertures := rfl
@[simp] theorem State.advance_net : (s.advance).net = s.net := rfl
@[simp] theorem State.advance_netNext : (s.advance).netNext = s.netNext := rfl
@[simp] theorem State.advance_outTs : (s.advance).outTs = s.outTs := rfl
@[simp] theorem State.advance_mem : (s.advance).mem = s.mem := rfl
@[simp] theorem State.advance_poison : (s.advance).poison = s.poison := rfl
@[simp] theorem State.advance_l2 : (s.advance).l2 = s.l2 := rfl
@[simp] theorem State.advance_mts : (s.advance).mts = s.mts := rfl
@[simp] theorem State.advance_ownWait : (s.advance).ownWait = s.ownWait := rfl
@[simp] theorem State.advance_rmws : (s.advance).rmws = s.rmws := rfl
@[simp] theorem State.advance_moors : (s.advance).moors = s.moors := rfl
@[simp] theorem State.advance_monitors : (s.advance).monitors = s.monitors := rfl
@[simp] theorem State.advance_msc : (s.advance).msc = s.msc := rfl
@[simp] theorem State.advance_mscClock : (s.advance).mscClock = s.mscClock := rfl
@[simp] theorem State.advance_rowAct : (s.advance).rowAct = s.rowAct := rfl
@[simp] theorem State.advance_tlb : (s.advance).tlb = s.tlb := rfl
@[simp] theorem State.advance_dieMem : (s.advance).dieMem = s.dieMem := rfl
@[simp] theorem State.advance_queues : (s.advance).queues = s.queues := rfl
@[simp] theorem State.advance_ptroots : (s.advance).ptroots = s.ptroots := rfl
@[simp] theorem State.advance_cmd : (s.advance).cmd = s.cmd := rfl
@[simp] theorem State.advance_launches : (s.advance).launches = s.launches := rfl
@[simp] theorem State.advance_dies : (s.advance).dies = s.dies := rfl
@[simp] theorem State.advance_cores : (s.advance).cores = s.cores := rfl
@[simp] theorem State.advance_wlItems : (s.advance).wlItems = s.wlItems := rfl
@[simp] theorem State.advance_wlNext : (s.advance).wlNext = s.wlNext := rfl
@[simp] theorem State.advance_mgmtOut : (s.advance).mgmtOut = s.mgmtOut := rfl
@[simp] theorem State.advance_hostOut : (s.advance).hostOut = s.hostOut := rfl
@[simp] theorem State.advance_peerOut : (s.advance).peerOut = s.peerOut := rfl
@[simp] theorem State.advance_aer : (s.advance).aer = s.aer := rfl
@[simp] theorem State.advance_msix : (s.advance).msix = s.msix := rfl
@[simp] theorem State.advance_cur : (s.advance).cur = s.cur := rfl
@[simp] theorem State.advance_ag : (s.advance).ag = s.ag.next := rfl
@[simp] theorem State.advance_agenda : (s.advance).agenda = s.agenda := rfl
@[simp] theorem State.advance_delayed : (s.advance).delayed = s.delayed := rfl
@[simp] theorem State.advance_free : (s.advance).free = s.free := rfl

/-! ### jumpTo -/

@[simp] theorem State.jumpTo_cclk (t : DWord) : (s.jumpTo t).cclk = s.cclk := rfl
@[simp] theorem State.jumpTo_bts (t : DWord) : (s.jumpTo t).bts = s.bts := rfl
@[simp] theorem State.jumpTo_smc (t : DWord) : (s.jumpTo t).smc = s.smc := rfl
@[simp] theorem State.jumpTo_cfgWin (t : DWord) : (s.jumpTo t).cfgWin = s.cfgWin := rfl
@[simp] theorem State.jumpTo_fwWin (t : DWord) : (s.jumpTo t).fwWin = s.fwWin := rfl
@[simp] theorem State.jumpTo_hostWin (t : DWord) : (s.jumpTo t).hostWin = s.hostWin := rfl
@[simp] theorem State.jumpTo_barLog2 (t : DWord) : (s.jumpTo t).barLog2 = s.barLog2 := rfl
@[simp] theorem State.jumpTo_hostPorts (t : DWord) : (s.jumpTo t).hostPorts = s.hostPorts := rfl
@[simp] theorem State.jumpTo_peerPorts (t : DWord) : (s.jumpTo t).peerPorts = s.peerPorts := rfl
@[simp] theorem State.jumpTo_d2dRetry (t : DWord) : (s.jumpTo t).d2dRetry = s.d2dRetry := rfl
@[simp] theorem State.jumpTo_d2dFailed (t : DWord) : (s.jumpTo t).d2dFailed = s.d2dFailed := rfl
@[simp] theorem State.jumpTo_inReject (t : DWord) : (s.jumpTo t).inReject = s.inReject := rfl
@[simp] theorem State.jumpTo_allow (t : DWord) : (s.jumpTo t).allow = s.allow := rfl
@[simp] theorem State.jumpTo_apertures (t : DWord) : (s.jumpTo t).apertures = s.apertures := rfl
@[simp] theorem State.jumpTo_net (t : DWord) : (s.jumpTo t).net = s.net := rfl
@[simp] theorem State.jumpTo_netNext (t : DWord) : (s.jumpTo t).netNext = s.netNext := rfl
@[simp] theorem State.jumpTo_outTs (t : DWord) : (s.jumpTo t).outTs = s.outTs := rfl
@[simp] theorem State.jumpTo_mem (t : DWord) : (s.jumpTo t).mem = s.mem := rfl
@[simp] theorem State.jumpTo_poison (t : DWord) : (s.jumpTo t).poison = s.poison := rfl
@[simp] theorem State.jumpTo_l2 (t : DWord) : (s.jumpTo t).l2 = s.l2 := rfl
@[simp] theorem State.jumpTo_mts (t : DWord) : (s.jumpTo t).mts = s.mts := rfl
@[simp] theorem State.jumpTo_ownWait (t : DWord) : (s.jumpTo t).ownWait = s.ownWait := rfl
@[simp] theorem State.jumpTo_rmws (t : DWord) : (s.jumpTo t).rmws = s.rmws := rfl
@[simp] theorem State.jumpTo_moors (t : DWord) : (s.jumpTo t).moors = s.moors := rfl
@[simp] theorem State.jumpTo_monitors (t : DWord) : (s.jumpTo t).monitors = s.monitors := rfl
@[simp] theorem State.jumpTo_msc (t : DWord) : (s.jumpTo t).msc = s.msc := rfl
@[simp] theorem State.jumpTo_mscClock (t : DWord) : (s.jumpTo t).mscClock = s.mscClock := rfl
@[simp] theorem State.jumpTo_rowAct (t : DWord) : (s.jumpTo t).rowAct = s.rowAct := rfl
@[simp] theorem State.jumpTo_tlb (t : DWord) : (s.jumpTo t).tlb = s.tlb := rfl
@[simp] theorem State.jumpTo_dieMem (t : DWord) : (s.jumpTo t).dieMem = s.dieMem := rfl
@[simp] theorem State.jumpTo_queues (t : DWord) : (s.jumpTo t).queues = s.queues := rfl
@[simp] theorem State.jumpTo_ptroots (t : DWord) : (s.jumpTo t).ptroots = s.ptroots := rfl
@[simp] theorem State.jumpTo_cmd (t : DWord) : (s.jumpTo t).cmd = s.cmd := rfl
@[simp] theorem State.jumpTo_launches (t : DWord) : (s.jumpTo t).launches = s.launches := rfl
@[simp] theorem State.jumpTo_dies (t : DWord) : (s.jumpTo t).dies = s.dies := rfl
@[simp] theorem State.jumpTo_cores (t : DWord) : (s.jumpTo t).cores = s.cores := rfl
@[simp] theorem State.jumpTo_wlItems (t : DWord) : (s.jumpTo t).wlItems = s.wlItems := rfl
@[simp] theorem State.jumpTo_wlNext (t : DWord) : (s.jumpTo t).wlNext = s.wlNext := rfl
@[simp] theorem State.jumpTo_mgmtOut (t : DWord) : (s.jumpTo t).mgmtOut = s.mgmtOut := rfl
@[simp] theorem State.jumpTo_hostOut (t : DWord) : (s.jumpTo t).hostOut = s.hostOut := rfl
@[simp] theorem State.jumpTo_peerOut (t : DWord) : (s.jumpTo t).peerOut = s.peerOut := rfl
@[simp] theorem State.jumpTo_aer (t : DWord) : (s.jumpTo t).aer = s.aer := rfl
@[simp] theorem State.jumpTo_msix (t : DWord) : (s.jumpTo t).msix = s.msix := rfl
@[simp] theorem State.jumpTo_cur (t : DWord) : (s.jumpTo t).cur = s.cur := rfl
@[simp] theorem State.jumpTo_agenda (t : DWord) : (s.jumpTo t).agenda = s.agenda := rfl
@[simp] theorem State.jumpTo_delayed (t : DWord) : (s.jumpTo t).delayed = s.delayed := rfl
@[simp] theorem State.jumpTo_free (t : DWord) : (s.jumpTo t).free = s.free := rfl

/-! ### setCore -/

@[simp] theorem State.setCore_cclk (c : Nat) (x : Core) : (s.setCore c x).cclk = s.cclk := rfl
@[simp] theorem State.setCore_bts (c : Nat) (x : Core) : (s.setCore c x).bts = s.bts := rfl
@[simp] theorem State.setCore_smc (c : Nat) (x : Core) : (s.setCore c x).smc = s.smc := rfl
@[simp] theorem State.setCore_cfgWin (c : Nat) (x : Core) : (s.setCore c x).cfgWin = s.cfgWin := rfl
@[simp] theorem State.setCore_fwWin (c : Nat) (x : Core) : (s.setCore c x).fwWin = s.fwWin := rfl
@[simp] theorem State.setCore_hostWin (c : Nat) (x : Core) : (s.setCore c x).hostWin = s.hostWin := rfl
@[simp] theorem State.setCore_barLog2 (c : Nat) (x : Core) : (s.setCore c x).barLog2 = s.barLog2 := rfl
@[simp] theorem State.setCore_hostPorts (c : Nat) (x : Core) : (s.setCore c x).hostPorts = s.hostPorts := rfl
@[simp] theorem State.setCore_peerPorts (c : Nat) (x : Core) : (s.setCore c x).peerPorts = s.peerPorts := rfl
@[simp] theorem State.setCore_d2dRetry (c : Nat) (x : Core) : (s.setCore c x).d2dRetry = s.d2dRetry := rfl
@[simp] theorem State.setCore_d2dFailed (c : Nat) (x : Core) : (s.setCore c x).d2dFailed = s.d2dFailed := rfl
@[simp] theorem State.setCore_inReject (c : Nat) (x : Core) : (s.setCore c x).inReject = s.inReject := rfl
@[simp] theorem State.setCore_allow (c : Nat) (x : Core) : (s.setCore c x).allow = s.allow := rfl
@[simp] theorem State.setCore_apertures (c : Nat) (x : Core) : (s.setCore c x).apertures = s.apertures := rfl
@[simp] theorem State.setCore_net (c : Nat) (x : Core) : (s.setCore c x).net = s.net := rfl
@[simp] theorem State.setCore_netNext (c : Nat) (x : Core) : (s.setCore c x).netNext = s.netNext := rfl
@[simp] theorem State.setCore_outTs (c : Nat) (x : Core) : (s.setCore c x).outTs = s.outTs := rfl
@[simp] theorem State.setCore_mem (c : Nat) (x : Core) : (s.setCore c x).mem = s.mem := rfl
@[simp] theorem State.setCore_poison (c : Nat) (x : Core) : (s.setCore c x).poison = s.poison := rfl
@[simp] theorem State.setCore_l2 (c : Nat) (x : Core) : (s.setCore c x).l2 = s.l2 := rfl
@[simp] theorem State.setCore_mts (c : Nat) (x : Core) : (s.setCore c x).mts = s.mts := rfl
@[simp] theorem State.setCore_ownWait (c : Nat) (x : Core) : (s.setCore c x).ownWait = s.ownWait := rfl
@[simp] theorem State.setCore_rmws (c : Nat) (x : Core) : (s.setCore c x).rmws = s.rmws := rfl
@[simp] theorem State.setCore_moors (c : Nat) (x : Core) : (s.setCore c x).moors = s.moors := rfl
@[simp] theorem State.setCore_monitors (c : Nat) (x : Core) : (s.setCore c x).monitors = s.monitors := rfl
@[simp] theorem State.setCore_msc (c : Nat) (x : Core) : (s.setCore c x).msc = s.msc := rfl
@[simp] theorem State.setCore_mscClock (c : Nat) (x : Core) : (s.setCore c x).mscClock = s.mscClock := rfl
@[simp] theorem State.setCore_rowAct (c : Nat) (x : Core) : (s.setCore c x).rowAct = s.rowAct := rfl
@[simp] theorem State.setCore_tlb (c : Nat) (x : Core) : (s.setCore c x).tlb = s.tlb := rfl
@[simp] theorem State.setCore_dieMem (c : Nat) (x : Core) : (s.setCore c x).dieMem = s.dieMem := rfl
@[simp] theorem State.setCore_queues (c : Nat) (x : Core) : (s.setCore c x).queues = s.queues := rfl
@[simp] theorem State.setCore_ptroots (c : Nat) (x : Core) : (s.setCore c x).ptroots = s.ptroots := rfl
@[simp] theorem State.setCore_cmd (c : Nat) (x : Core) : (s.setCore c x).cmd = s.cmd := rfl
@[simp] theorem State.setCore_launches (c : Nat) (x : Core) : (s.setCore c x).launches = s.launches := rfl
@[simp] theorem State.setCore_dies (c : Nat) (x : Core) : (s.setCore c x).dies = s.dies := rfl
@[simp] theorem State.setCore_cores (c : Nat) (x : Core) : (s.setCore c x).cores = s.cores.put c x := rfl
@[simp] theorem State.setCore_wlItems (c : Nat) (x : Core) : (s.setCore c x).wlItems = s.wlItems := rfl
@[simp] theorem State.setCore_wlNext (c : Nat) (x : Core) : (s.setCore c x).wlNext = s.wlNext := rfl
@[simp] theorem State.setCore_mgmtOut (c : Nat) (x : Core) : (s.setCore c x).mgmtOut = s.mgmtOut := rfl
@[simp] theorem State.setCore_hostOut (c : Nat) (x : Core) : (s.setCore c x).hostOut = s.hostOut := rfl
@[simp] theorem State.setCore_peerOut (c : Nat) (x : Core) : (s.setCore c x).peerOut = s.peerOut := rfl
@[simp] theorem State.setCore_aer (c : Nat) (x : Core) : (s.setCore c x).aer = s.aer := rfl
@[simp] theorem State.setCore_msix (c : Nat) (x : Core) : (s.setCore c x).msix = s.msix := rfl
@[simp] theorem State.setCore_cur (c : Nat) (x : Core) : (s.setCore c x).cur = s.cur := rfl
@[simp] theorem State.setCore_ag (c : Nat) (x : Core) : (s.setCore c x).ag = s.ag := rfl
@[simp] theorem State.setCore_agenda (c : Nat) (x : Core) : (s.setCore c x).agenda = s.agenda := rfl
@[simp] theorem State.setCore_delayed (c : Nat) (x : Core) : (s.setCore c x).delayed = s.delayed := rfl
@[simp] theorem State.setCore_free (c : Nat) (x : Core) : (s.setCore c x).free = s.free := rfl

/-! ### modCore -/

@[simp] theorem State.modCore_cclk (c : Nat) (f : Core → Core) : (s.modCore c f).cclk = s.cclk := rfl
@[simp] theorem State.modCore_bts (c : Nat) (f : Core → Core) : (s.modCore c f).bts = s.bts := rfl
@[simp] theorem State.modCore_smc (c : Nat) (f : Core → Core) : (s.modCore c f).smc = s.smc := rfl
@[simp] theorem State.modCore_cfgWin (c : Nat) (f : Core → Core) : (s.modCore c f).cfgWin = s.cfgWin := rfl
@[simp] theorem State.modCore_fwWin (c : Nat) (f : Core → Core) : (s.modCore c f).fwWin = s.fwWin := rfl
@[simp] theorem State.modCore_hostWin (c : Nat) (f : Core → Core) : (s.modCore c f).hostWin = s.hostWin := rfl
@[simp] theorem State.modCore_barLog2 (c : Nat) (f : Core → Core) : (s.modCore c f).barLog2 = s.barLog2 := rfl
@[simp] theorem State.modCore_hostPorts (c : Nat) (f : Core → Core) : (s.modCore c f).hostPorts = s.hostPorts := rfl
@[simp] theorem State.modCore_peerPorts (c : Nat) (f : Core → Core) : (s.modCore c f).peerPorts = s.peerPorts := rfl
@[simp] theorem State.modCore_d2dRetry (c : Nat) (f : Core → Core) : (s.modCore c f).d2dRetry = s.d2dRetry := rfl
@[simp] theorem State.modCore_d2dFailed (c : Nat) (f : Core → Core) : (s.modCore c f).d2dFailed = s.d2dFailed := rfl
@[simp] theorem State.modCore_inReject (c : Nat) (f : Core → Core) : (s.modCore c f).inReject = s.inReject := rfl
@[simp] theorem State.modCore_allow (c : Nat) (f : Core → Core) : (s.modCore c f).allow = s.allow := rfl
@[simp] theorem State.modCore_apertures (c : Nat) (f : Core → Core) : (s.modCore c f).apertures = s.apertures := rfl
@[simp] theorem State.modCore_net (c : Nat) (f : Core → Core) : (s.modCore c f).net = s.net := rfl
@[simp] theorem State.modCore_netNext (c : Nat) (f : Core → Core) : (s.modCore c f).netNext = s.netNext := rfl
@[simp] theorem State.modCore_outTs (c : Nat) (f : Core → Core) : (s.modCore c f).outTs = s.outTs := rfl
@[simp] theorem State.modCore_mem (c : Nat) (f : Core → Core) : (s.modCore c f).mem = s.mem := rfl
@[simp] theorem State.modCore_poison (c : Nat) (f : Core → Core) : (s.modCore c f).poison = s.poison := rfl
@[simp] theorem State.modCore_l2 (c : Nat) (f : Core → Core) : (s.modCore c f).l2 = s.l2 := rfl
@[simp] theorem State.modCore_mts (c : Nat) (f : Core → Core) : (s.modCore c f).mts = s.mts := rfl
@[simp] theorem State.modCore_ownWait (c : Nat) (f : Core → Core) : (s.modCore c f).ownWait = s.ownWait := rfl
@[simp] theorem State.modCore_rmws (c : Nat) (f : Core → Core) : (s.modCore c f).rmws = s.rmws := rfl
@[simp] theorem State.modCore_moors (c : Nat) (f : Core → Core) : (s.modCore c f).moors = s.moors := rfl
@[simp] theorem State.modCore_monitors (c : Nat) (f : Core → Core) : (s.modCore c f).monitors = s.monitors := rfl
@[simp] theorem State.modCore_msc (c : Nat) (f : Core → Core) : (s.modCore c f).msc = s.msc := rfl
@[simp] theorem State.modCore_mscClock (c : Nat) (f : Core → Core) : (s.modCore c f).mscClock = s.mscClock := rfl
@[simp] theorem State.modCore_rowAct (c : Nat) (f : Core → Core) : (s.modCore c f).rowAct = s.rowAct := rfl
@[simp] theorem State.modCore_tlb (c : Nat) (f : Core → Core) : (s.modCore c f).tlb = s.tlb := rfl
@[simp] theorem State.modCore_dieMem (c : Nat) (f : Core → Core) : (s.modCore c f).dieMem = s.dieMem := rfl
@[simp] theorem State.modCore_queues (c : Nat) (f : Core → Core) : (s.modCore c f).queues = s.queues := rfl
@[simp] theorem State.modCore_ptroots (c : Nat) (f : Core → Core) : (s.modCore c f).ptroots = s.ptroots := rfl
@[simp] theorem State.modCore_cmd (c : Nat) (f : Core → Core) : (s.modCore c f).cmd = s.cmd := rfl
@[simp] theorem State.modCore_launches (c : Nat) (f : Core → Core) : (s.modCore c f).launches = s.launches := rfl
@[simp] theorem State.modCore_dies (c : Nat) (f : Core → Core) : (s.modCore c f).dies = s.dies := rfl
@[simp] theorem State.modCore_cores (c : Nat) (f : Core → Core) : (s.modCore c f).cores = s.cores.put c (f (s.core c)) := rfl
@[simp] theorem State.modCore_wlItems (c : Nat) (f : Core → Core) : (s.modCore c f).wlItems = s.wlItems := rfl
@[simp] theorem State.modCore_wlNext (c : Nat) (f : Core → Core) : (s.modCore c f).wlNext = s.wlNext := rfl
@[simp] theorem State.modCore_mgmtOut (c : Nat) (f : Core → Core) : (s.modCore c f).mgmtOut = s.mgmtOut := rfl
@[simp] theorem State.modCore_hostOut (c : Nat) (f : Core → Core) : (s.modCore c f).hostOut = s.hostOut := rfl
@[simp] theorem State.modCore_peerOut (c : Nat) (f : Core → Core) : (s.modCore c f).peerOut = s.peerOut := rfl
@[simp] theorem State.modCore_aer (c : Nat) (f : Core → Core) : (s.modCore c f).aer = s.aer := rfl
@[simp] theorem State.modCore_msix (c : Nat) (f : Core → Core) : (s.modCore c f).msix = s.msix := rfl
@[simp] theorem State.modCore_cur (c : Nat) (f : Core → Core) : (s.modCore c f).cur = s.cur := rfl
@[simp] theorem State.modCore_ag (c : Nat) (f : Core → Core) : (s.modCore c f).ag = s.ag := rfl
@[simp] theorem State.modCore_agenda (c : Nat) (f : Core → Core) : (s.modCore c f).agenda = s.agenda := rfl
@[simp] theorem State.modCore_delayed (c : Nat) (f : Core → Core) : (s.modCore c f).delayed = s.delayed := rfl
@[simp] theorem State.modCore_free (c : Nat) (f : Core → Core) : (s.modCore c f).free = s.free := rfl

/-! ### setTeam -/

@[simp] theorem State.setTeam_cclk (c slot : Nat) (t : Team) : (s.setTeam c slot t).cclk = s.cclk := rfl
@[simp] theorem State.setTeam_bts (c slot : Nat) (t : Team) : (s.setTeam c slot t).bts = s.bts := rfl
@[simp] theorem State.setTeam_smc (c slot : Nat) (t : Team) : (s.setTeam c slot t).smc = s.smc := rfl
@[simp] theorem State.setTeam_cfgWin (c slot : Nat) (t : Team) : (s.setTeam c slot t).cfgWin = s.cfgWin := rfl
@[simp] theorem State.setTeam_fwWin (c slot : Nat) (t : Team) : (s.setTeam c slot t).fwWin = s.fwWin := rfl
@[simp] theorem State.setTeam_hostWin (c slot : Nat) (t : Team) : (s.setTeam c slot t).hostWin = s.hostWin := rfl
@[simp] theorem State.setTeam_barLog2 (c slot : Nat) (t : Team) : (s.setTeam c slot t).barLog2 = s.barLog2 := rfl
@[simp] theorem State.setTeam_hostPorts (c slot : Nat) (t : Team) : (s.setTeam c slot t).hostPorts = s.hostPorts := rfl
@[simp] theorem State.setTeam_peerPorts (c slot : Nat) (t : Team) : (s.setTeam c slot t).peerPorts = s.peerPorts := rfl
@[simp] theorem State.setTeam_d2dRetry (c slot : Nat) (t : Team) : (s.setTeam c slot t).d2dRetry = s.d2dRetry := rfl
@[simp] theorem State.setTeam_d2dFailed (c slot : Nat) (t : Team) : (s.setTeam c slot t).d2dFailed = s.d2dFailed := rfl
@[simp] theorem State.setTeam_inReject (c slot : Nat) (t : Team) : (s.setTeam c slot t).inReject = s.inReject := rfl
@[simp] theorem State.setTeam_allow (c slot : Nat) (t : Team) : (s.setTeam c slot t).allow = s.allow := rfl
@[simp] theorem State.setTeam_apertures (c slot : Nat) (t : Team) : (s.setTeam c slot t).apertures = s.apertures := rfl
@[simp] theorem State.setTeam_net (c slot : Nat) (t : Team) : (s.setTeam c slot t).net = s.net := rfl
@[simp] theorem State.setTeam_netNext (c slot : Nat) (t : Team) : (s.setTeam c slot t).netNext = s.netNext := rfl
@[simp] theorem State.setTeam_outTs (c slot : Nat) (t : Team) : (s.setTeam c slot t).outTs = s.outTs := rfl
@[simp] theorem State.setTeam_mem (c slot : Nat) (t : Team) : (s.setTeam c slot t).mem = s.mem := rfl
@[simp] theorem State.setTeam_poison (c slot : Nat) (t : Team) : (s.setTeam c slot t).poison = s.poison := rfl
@[simp] theorem State.setTeam_l2 (c slot : Nat) (t : Team) : (s.setTeam c slot t).l2 = s.l2 := rfl
@[simp] theorem State.setTeam_mts (c slot : Nat) (t : Team) : (s.setTeam c slot t).mts = s.mts := rfl
@[simp] theorem State.setTeam_ownWait (c slot : Nat) (t : Team) : (s.setTeam c slot t).ownWait = s.ownWait := rfl
@[simp] theorem State.setTeam_rmws (c slot : Nat) (t : Team) : (s.setTeam c slot t).rmws = s.rmws := rfl
@[simp] theorem State.setTeam_moors (c slot : Nat) (t : Team) : (s.setTeam c slot t).moors = s.moors := rfl
@[simp] theorem State.setTeam_monitors (c slot : Nat) (t : Team) : (s.setTeam c slot t).monitors = s.monitors := rfl
@[simp] theorem State.setTeam_msc (c slot : Nat) (t : Team) : (s.setTeam c slot t).msc = s.msc := rfl
@[simp] theorem State.setTeam_mscClock (c slot : Nat) (t : Team) : (s.setTeam c slot t).mscClock = s.mscClock := rfl
@[simp] theorem State.setTeam_rowAct (c slot : Nat) (t : Team) : (s.setTeam c slot t).rowAct = s.rowAct := rfl
@[simp] theorem State.setTeam_tlb (c slot : Nat) (t : Team) : (s.setTeam c slot t).tlb = s.tlb := rfl
@[simp] theorem State.setTeam_dieMem (c slot : Nat) (t : Team) : (s.setTeam c slot t).dieMem = s.dieMem := rfl
@[simp] theorem State.setTeam_queues (c slot : Nat) (t : Team) : (s.setTeam c slot t).queues = s.queues := rfl
@[simp] theorem State.setTeam_ptroots (c slot : Nat) (t : Team) : (s.setTeam c slot t).ptroots = s.ptroots := rfl
@[simp] theorem State.setTeam_cmd (c slot : Nat) (t : Team) : (s.setTeam c slot t).cmd = s.cmd := rfl
@[simp] theorem State.setTeam_launches (c slot : Nat) (t : Team) : (s.setTeam c slot t).launches = s.launches := rfl
@[simp] theorem State.setTeam_dies (c slot : Nat) (t : Team) : (s.setTeam c slot t).dies = s.dies := rfl
@[simp] theorem State.setTeam_wlItems (c slot : Nat) (t : Team) : (s.setTeam c slot t).wlItems = s.wlItems := rfl
@[simp] theorem State.setTeam_wlNext (c slot : Nat) (t : Team) : (s.setTeam c slot t).wlNext = s.wlNext := rfl
@[simp] theorem State.setTeam_mgmtOut (c slot : Nat) (t : Team) : (s.setTeam c slot t).mgmtOut = s.mgmtOut := rfl
@[simp] theorem State.setTeam_hostOut (c slot : Nat) (t : Team) : (s.setTeam c slot t).hostOut = s.hostOut := rfl
@[simp] theorem State.setTeam_peerOut (c slot : Nat) (t : Team) : (s.setTeam c slot t).peerOut = s.peerOut := rfl
@[simp] theorem State.setTeam_aer (c slot : Nat) (t : Team) : (s.setTeam c slot t).aer = s.aer := rfl
@[simp] theorem State.setTeam_msix (c slot : Nat) (t : Team) : (s.setTeam c slot t).msix = s.msix := rfl
@[simp] theorem State.setTeam_cur (c slot : Nat) (t : Team) : (s.setTeam c slot t).cur = s.cur := rfl
@[simp] theorem State.setTeam_ag (c slot : Nat) (t : Team) : (s.setTeam c slot t).ag = s.ag := rfl
@[simp] theorem State.setTeam_agenda (c slot : Nat) (t : Team) : (s.setTeam c slot t).agenda = s.agenda := rfl
@[simp] theorem State.setTeam_delayed (c slot : Nat) (t : Team) : (s.setTeam c slot t).delayed = s.delayed := rfl
@[simp] theorem State.setTeam_free (c slot : Nat) (t : Team) : (s.setTeam c slot t).free = s.free := rfl

/-! ### raisePts -/

@[simp] theorem State.raisePts_cclk (c : Nat) (t : DWord) : (s.raisePts c t).cclk = s.cclk := rfl
@[simp] theorem State.raisePts_bts (c : Nat) (t : DWord) : (s.raisePts c t).bts = s.bts := rfl
@[simp] theorem State.raisePts_smc (c : Nat) (t : DWord) : (s.raisePts c t).smc = s.smc := rfl
@[simp] theorem State.raisePts_cfgWin (c : Nat) (t : DWord) : (s.raisePts c t).cfgWin = s.cfgWin := rfl
@[simp] theorem State.raisePts_fwWin (c : Nat) (t : DWord) : (s.raisePts c t).fwWin = s.fwWin := rfl
@[simp] theorem State.raisePts_hostWin (c : Nat) (t : DWord) : (s.raisePts c t).hostWin = s.hostWin := rfl
@[simp] theorem State.raisePts_barLog2 (c : Nat) (t : DWord) : (s.raisePts c t).barLog2 = s.barLog2 := rfl
@[simp] theorem State.raisePts_hostPorts (c : Nat) (t : DWord) : (s.raisePts c t).hostPorts = s.hostPorts := rfl
@[simp] theorem State.raisePts_peerPorts (c : Nat) (t : DWord) : (s.raisePts c t).peerPorts = s.peerPorts := rfl
@[simp] theorem State.raisePts_d2dRetry (c : Nat) (t : DWord) : (s.raisePts c t).d2dRetry = s.d2dRetry := rfl
@[simp] theorem State.raisePts_d2dFailed (c : Nat) (t : DWord) : (s.raisePts c t).d2dFailed = s.d2dFailed := rfl
@[simp] theorem State.raisePts_inReject (c : Nat) (t : DWord) : (s.raisePts c t).inReject = s.inReject := rfl
@[simp] theorem State.raisePts_allow (c : Nat) (t : DWord) : (s.raisePts c t).allow = s.allow := rfl
@[simp] theorem State.raisePts_apertures (c : Nat) (t : DWord) : (s.raisePts c t).apertures = s.apertures := rfl
@[simp] theorem State.raisePts_net (c : Nat) (t : DWord) : (s.raisePts c t).net = s.net := rfl
@[simp] theorem State.raisePts_netNext (c : Nat) (t : DWord) : (s.raisePts c t).netNext = s.netNext := rfl
@[simp] theorem State.raisePts_outTs (c : Nat) (t : DWord) : (s.raisePts c t).outTs = s.outTs := rfl
@[simp] theorem State.raisePts_mem (c : Nat) (t : DWord) : (s.raisePts c t).mem = s.mem := rfl
@[simp] theorem State.raisePts_poison (c : Nat) (t : DWord) : (s.raisePts c t).poison = s.poison := rfl
@[simp] theorem State.raisePts_l2 (c : Nat) (t : DWord) : (s.raisePts c t).l2 = s.l2 := rfl
@[simp] theorem State.raisePts_mts (c : Nat) (t : DWord) : (s.raisePts c t).mts = s.mts := rfl
@[simp] theorem State.raisePts_ownWait (c : Nat) (t : DWord) : (s.raisePts c t).ownWait = s.ownWait := rfl
@[simp] theorem State.raisePts_rmws (c : Nat) (t : DWord) : (s.raisePts c t).rmws = s.rmws := rfl
@[simp] theorem State.raisePts_moors (c : Nat) (t : DWord) : (s.raisePts c t).moors = s.moors := rfl
@[simp] theorem State.raisePts_monitors (c : Nat) (t : DWord) : (s.raisePts c t).monitors = s.monitors := rfl
@[simp] theorem State.raisePts_msc (c : Nat) (t : DWord) : (s.raisePts c t).msc = s.msc := rfl
@[simp] theorem State.raisePts_mscClock (c : Nat) (t : DWord) : (s.raisePts c t).mscClock = s.mscClock := rfl
@[simp] theorem State.raisePts_rowAct (c : Nat) (t : DWord) : (s.raisePts c t).rowAct = s.rowAct := rfl
@[simp] theorem State.raisePts_tlb (c : Nat) (t : DWord) : (s.raisePts c t).tlb = s.tlb := rfl
@[simp] theorem State.raisePts_dieMem (c : Nat) (t : DWord) : (s.raisePts c t).dieMem = s.dieMem := rfl
@[simp] theorem State.raisePts_queues (c : Nat) (t : DWord) : (s.raisePts c t).queues = s.queues := rfl
@[simp] theorem State.raisePts_ptroots (c : Nat) (t : DWord) : (s.raisePts c t).ptroots = s.ptroots := rfl
@[simp] theorem State.raisePts_cmd (c : Nat) (t : DWord) : (s.raisePts c t).cmd = s.cmd := rfl
@[simp] theorem State.raisePts_launches (c : Nat) (t : DWord) : (s.raisePts c t).launches = s.launches := rfl
@[simp] theorem State.raisePts_dies (c : Nat) (t : DWord) : (s.raisePts c t).dies = s.dies := rfl
@[simp] theorem State.raisePts_wlItems (c : Nat) (t : DWord) : (s.raisePts c t).wlItems = s.wlItems := rfl
@[simp] theorem State.raisePts_wlNext (c : Nat) (t : DWord) : (s.raisePts c t).wlNext = s.wlNext := rfl
@[simp] theorem State.raisePts_mgmtOut (c : Nat) (t : DWord) : (s.raisePts c t).mgmtOut = s.mgmtOut := rfl
@[simp] theorem State.raisePts_hostOut (c : Nat) (t : DWord) : (s.raisePts c t).hostOut = s.hostOut := rfl
@[simp] theorem State.raisePts_peerOut (c : Nat) (t : DWord) : (s.raisePts c t).peerOut = s.peerOut := rfl
@[simp] theorem State.raisePts_aer (c : Nat) (t : DWord) : (s.raisePts c t).aer = s.aer := rfl
@[simp] theorem State.raisePts_msix (c : Nat) (t : DWord) : (s.raisePts c t).msix = s.msix := rfl
@[simp] theorem State.raisePts_cur (c : Nat) (t : DWord) : (s.raisePts c t).cur = s.cur := rfl
@[simp] theorem State.raisePts_ag (c : Nat) (t : DWord) : (s.raisePts c t).ag = s.ag := rfl
@[simp] theorem State.raisePts_agenda (c : Nat) (t : DWord) : (s.raisePts c t).agenda = s.agenda := rfl
@[simp] theorem State.raisePts_delayed (c : Nat) (t : DWord) : (s.raisePts c t).delayed = s.delayed := rfl
@[simp] theorem State.raisePts_free (c : Nat) (t : DWord) : (s.raisePts c t).free = s.free := rfl

/-! ### modBarrier -/

@[simp] theorem State.modBarrier_cclk (c e : Nat) (f : Barrier → Barrier) : (s.modBarrier c e f).cclk = s.cclk := rfl
@[simp] theorem State.modBarrier_bts (c e : Nat) (f : Barrier → Barrier) : (s.modBarrier c e f).bts = s.bts := rfl
@[simp] theorem State.modBarrier_smc (c e : Nat) (f : Barrier → Barrier) : (s.modBarrier c e f).smc = s.smc := rfl
@[simp] theorem State.modBarrier_cfgWin (c e : Nat) (f : Barrier → Barrier) : (s.modBarrier c e f).cfgWin = s.cfgWin := rfl
@[simp] theorem State.modBarrier_fwWin (c e : Nat) (f : Barrier → Barrier) : (s.modBarrier c e f).fwWin = s.fwWin := rfl
@[simp] theorem State.modBarrier_hostWin (c e : Nat) (f : Barrier → Barrier) : (s.modBarrier c e f).hostWin = s.hostWin := rfl
@[simp] theorem State.modBarrier_barLog2 (c e : Nat) (f : Barrier → Barrier) : (s.modBarrier c e f).barLog2 = s.barLog2 := rfl
@[simp] theorem State.modBarrier_hostPorts (c e : Nat) (f : Barrier → Barrier) : (s.modBarrier c e f).hostPorts = s.hostPorts := rfl
@[simp] theorem State.modBarrier_peerPorts (c e : Nat) (f : Barrier → Barrier) : (s.modBarrier c e f).peerPorts = s.peerPorts := rfl
@[simp] theorem State.modBarrier_d2dRetry (c e : Nat) (f : Barrier → Barrier) : (s.modBarrier c e f).d2dRetry = s.d2dRetry := rfl
@[simp] theorem State.modBarrier_d2dFailed (c e : Nat) (f : Barrier → Barrier) : (s.modBarrier c e f).d2dFailed = s.d2dFailed := rfl
@[simp] theorem State.modBarrier_inReject (c e : Nat) (f : Barrier → Barrier) : (s.modBarrier c e f).inReject = s.inReject := rfl
@[simp] theorem State.modBarrier_allow (c e : Nat) (f : Barrier → Barrier) : (s.modBarrier c e f).allow = s.allow := rfl
@[simp] theorem State.modBarrier_apertures (c e : Nat) (f : Barrier → Barrier) : (s.modBarrier c e f).apertures = s.apertures := rfl
@[simp] theorem State.modBarrier_net (c e : Nat) (f : Barrier → Barrier) : (s.modBarrier c e f).net = s.net := rfl
@[simp] theorem State.modBarrier_netNext (c e : Nat) (f : Barrier → Barrier) : (s.modBarrier c e f).netNext = s.netNext := rfl
@[simp] theorem State.modBarrier_outTs (c e : Nat) (f : Barrier → Barrier) : (s.modBarrier c e f).outTs = s.outTs := rfl
@[simp] theorem State.modBarrier_mem (c e : Nat) (f : Barrier → Barrier) : (s.modBarrier c e f).mem = s.mem := rfl
@[simp] theorem State.modBarrier_poison (c e : Nat) (f : Barrier → Barrier) : (s.modBarrier c e f).poison = s.poison := rfl
@[simp] theorem State.modBarrier_l2 (c e : Nat) (f : Barrier → Barrier) : (s.modBarrier c e f).l2 = s.l2 := rfl
@[simp] theorem State.modBarrier_mts (c e : Nat) (f : Barrier → Barrier) : (s.modBarrier c e f).mts = s.mts := rfl
@[simp] theorem State.modBarrier_ownWait (c e : Nat) (f : Barrier → Barrier) : (s.modBarrier c e f).ownWait = s.ownWait := rfl
@[simp] theorem State.modBarrier_rmws (c e : Nat) (f : Barrier → Barrier) : (s.modBarrier c e f).rmws = s.rmws := rfl
@[simp] theorem State.modBarrier_moors (c e : Nat) (f : Barrier → Barrier) : (s.modBarrier c e f).moors = s.moors := rfl
@[simp] theorem State.modBarrier_monitors (c e : Nat) (f : Barrier → Barrier) : (s.modBarrier c e f).monitors = s.monitors := rfl
@[simp] theorem State.modBarrier_msc (c e : Nat) (f : Barrier → Barrier) : (s.modBarrier c e f).msc = s.msc := rfl
@[simp] theorem State.modBarrier_mscClock (c e : Nat) (f : Barrier → Barrier) : (s.modBarrier c e f).mscClock = s.mscClock := rfl
@[simp] theorem State.modBarrier_rowAct (c e : Nat) (f : Barrier → Barrier) : (s.modBarrier c e f).rowAct = s.rowAct := rfl
@[simp] theorem State.modBarrier_tlb (c e : Nat) (f : Barrier → Barrier) : (s.modBarrier c e f).tlb = s.tlb := rfl
@[simp] theorem State.modBarrier_dieMem (c e : Nat) (f : Barrier → Barrier) : (s.modBarrier c e f).dieMem = s.dieMem := rfl
@[simp] theorem State.modBarrier_queues (c e : Nat) (f : Barrier → Barrier) : (s.modBarrier c e f).queues = s.queues := rfl
@[simp] theorem State.modBarrier_ptroots (c e : Nat) (f : Barrier → Barrier) : (s.modBarrier c e f).ptroots = s.ptroots := rfl
@[simp] theorem State.modBarrier_cmd (c e : Nat) (f : Barrier → Barrier) : (s.modBarrier c e f).cmd = s.cmd := rfl
@[simp] theorem State.modBarrier_launches (c e : Nat) (f : Barrier → Barrier) : (s.modBarrier c e f).launches = s.launches := rfl
@[simp] theorem State.modBarrier_dies (c e : Nat) (f : Barrier → Barrier) : (s.modBarrier c e f).dies = s.dies := rfl
@[simp] theorem State.modBarrier_wlItems (c e : Nat) (f : Barrier → Barrier) : (s.modBarrier c e f).wlItems = s.wlItems := rfl
@[simp] theorem State.modBarrier_wlNext (c e : Nat) (f : Barrier → Barrier) : (s.modBarrier c e f).wlNext = s.wlNext := rfl
@[simp] theorem State.modBarrier_mgmtOut (c e : Nat) (f : Barrier → Barrier) : (s.modBarrier c e f).mgmtOut = s.mgmtOut := rfl
@[simp] theorem State.modBarrier_hostOut (c e : Nat) (f : Barrier → Barrier) : (s.modBarrier c e f).hostOut = s.hostOut := rfl
@[simp] theorem State.modBarrier_peerOut (c e : Nat) (f : Barrier → Barrier) : (s.modBarrier c e f).peerOut = s.peerOut := rfl
@[simp] theorem State.modBarrier_aer (c e : Nat) (f : Barrier → Barrier) : (s.modBarrier c e f).aer = s.aer := rfl
@[simp] theorem State.modBarrier_msix (c e : Nat) (f : Barrier → Barrier) : (s.modBarrier c e f).msix = s.msix := rfl
@[simp] theorem State.modBarrier_cur (c e : Nat) (f : Barrier → Barrier) : (s.modBarrier c e f).cur = s.cur := rfl
@[simp] theorem State.modBarrier_ag (c e : Nat) (f : Barrier → Barrier) : (s.modBarrier c e f).ag = s.ag := rfl
@[simp] theorem State.modBarrier_agenda (c e : Nat) (f : Barrier → Barrier) : (s.modBarrier c e f).agenda = s.agenda := rfl
@[simp] theorem State.modBarrier_delayed (c e : Nat) (f : Barrier → Barrier) : (s.modBarrier c e f).delayed = s.delayed := rfl
@[simp] theorem State.modBarrier_free (c e : Nat) (f : Barrier → Barrier) : (s.modBarrier c e f).free = s.free := rfl

/-! ### modOp -/

@[simp] theorem State.modOp_cclk (c q : Nat) (n : Word) (f : EngineOp → EngineOp) : (s.modOp c q n f).cclk = s.cclk := rfl
@[simp] theorem State.modOp_bts (c q : Nat) (n : Word) (f : EngineOp → EngineOp) : (s.modOp c q n f).bts = s.bts := rfl
@[simp] theorem State.modOp_smc (c q : Nat) (n : Word) (f : EngineOp → EngineOp) : (s.modOp c q n f).smc = s.smc := rfl
@[simp] theorem State.modOp_cfgWin (c q : Nat) (n : Word) (f : EngineOp → EngineOp) : (s.modOp c q n f).cfgWin = s.cfgWin := rfl
@[simp] theorem State.modOp_fwWin (c q : Nat) (n : Word) (f : EngineOp → EngineOp) : (s.modOp c q n f).fwWin = s.fwWin := rfl
@[simp] theorem State.modOp_hostWin (c q : Nat) (n : Word) (f : EngineOp → EngineOp) : (s.modOp c q n f).hostWin = s.hostWin := rfl
@[simp] theorem State.modOp_barLog2 (c q : Nat) (n : Word) (f : EngineOp → EngineOp) : (s.modOp c q n f).barLog2 = s.barLog2 := rfl
@[simp] theorem State.modOp_hostPorts (c q : Nat) (n : Word) (f : EngineOp → EngineOp) : (s.modOp c q n f).hostPorts = s.hostPorts := rfl
@[simp] theorem State.modOp_peerPorts (c q : Nat) (n : Word) (f : EngineOp → EngineOp) : (s.modOp c q n f).peerPorts = s.peerPorts := rfl
@[simp] theorem State.modOp_d2dRetry (c q : Nat) (n : Word) (f : EngineOp → EngineOp) : (s.modOp c q n f).d2dRetry = s.d2dRetry := rfl
@[simp] theorem State.modOp_d2dFailed (c q : Nat) (n : Word) (f : EngineOp → EngineOp) : (s.modOp c q n f).d2dFailed = s.d2dFailed := rfl
@[simp] theorem State.modOp_inReject (c q : Nat) (n : Word) (f : EngineOp → EngineOp) : (s.modOp c q n f).inReject = s.inReject := rfl
@[simp] theorem State.modOp_allow (c q : Nat) (n : Word) (f : EngineOp → EngineOp) : (s.modOp c q n f).allow = s.allow := rfl
@[simp] theorem State.modOp_apertures (c q : Nat) (n : Word) (f : EngineOp → EngineOp) : (s.modOp c q n f).apertures = s.apertures := rfl
@[simp] theorem State.modOp_net (c q : Nat) (n : Word) (f : EngineOp → EngineOp) : (s.modOp c q n f).net = s.net := rfl
@[simp] theorem State.modOp_netNext (c q : Nat) (n : Word) (f : EngineOp → EngineOp) : (s.modOp c q n f).netNext = s.netNext := rfl
@[simp] theorem State.modOp_outTs (c q : Nat) (n : Word) (f : EngineOp → EngineOp) : (s.modOp c q n f).outTs = s.outTs := rfl
@[simp] theorem State.modOp_mem (c q : Nat) (n : Word) (f : EngineOp → EngineOp) : (s.modOp c q n f).mem = s.mem := rfl
@[simp] theorem State.modOp_poison (c q : Nat) (n : Word) (f : EngineOp → EngineOp) : (s.modOp c q n f).poison = s.poison := rfl
@[simp] theorem State.modOp_l2 (c q : Nat) (n : Word) (f : EngineOp → EngineOp) : (s.modOp c q n f).l2 = s.l2 := rfl
@[simp] theorem State.modOp_mts (c q : Nat) (n : Word) (f : EngineOp → EngineOp) : (s.modOp c q n f).mts = s.mts := rfl
@[simp] theorem State.modOp_ownWait (c q : Nat) (n : Word) (f : EngineOp → EngineOp) : (s.modOp c q n f).ownWait = s.ownWait := rfl
@[simp] theorem State.modOp_rmws (c q : Nat) (n : Word) (f : EngineOp → EngineOp) : (s.modOp c q n f).rmws = s.rmws := rfl
@[simp] theorem State.modOp_moors (c q : Nat) (n : Word) (f : EngineOp → EngineOp) : (s.modOp c q n f).moors = s.moors := rfl
@[simp] theorem State.modOp_monitors (c q : Nat) (n : Word) (f : EngineOp → EngineOp) : (s.modOp c q n f).monitors = s.monitors := rfl
@[simp] theorem State.modOp_msc (c q : Nat) (n : Word) (f : EngineOp → EngineOp) : (s.modOp c q n f).msc = s.msc := rfl
@[simp] theorem State.modOp_mscClock (c q : Nat) (n : Word) (f : EngineOp → EngineOp) : (s.modOp c q n f).mscClock = s.mscClock := rfl
@[simp] theorem State.modOp_rowAct (c q : Nat) (n : Word) (f : EngineOp → EngineOp) : (s.modOp c q n f).rowAct = s.rowAct := rfl
@[simp] theorem State.modOp_tlb (c q : Nat) (n : Word) (f : EngineOp → EngineOp) : (s.modOp c q n f).tlb = s.tlb := rfl
@[simp] theorem State.modOp_dieMem (c q : Nat) (n : Word) (f : EngineOp → EngineOp) : (s.modOp c q n f).dieMem = s.dieMem := rfl
@[simp] theorem State.modOp_queues (c q : Nat) (n : Word) (f : EngineOp → EngineOp) : (s.modOp c q n f).queues = s.queues := rfl
@[simp] theorem State.modOp_ptroots (c q : Nat) (n : Word) (f : EngineOp → EngineOp) : (s.modOp c q n f).ptroots = s.ptroots := rfl
@[simp] theorem State.modOp_cmd (c q : Nat) (n : Word) (f : EngineOp → EngineOp) : (s.modOp c q n f).cmd = s.cmd := rfl
@[simp] theorem State.modOp_launches (c q : Nat) (n : Word) (f : EngineOp → EngineOp) : (s.modOp c q n f).launches = s.launches := rfl
@[simp] theorem State.modOp_dies (c q : Nat) (n : Word) (f : EngineOp → EngineOp) : (s.modOp c q n f).dies = s.dies := rfl
@[simp] theorem State.modOp_wlItems (c q : Nat) (n : Word) (f : EngineOp → EngineOp) : (s.modOp c q n f).wlItems = s.wlItems := rfl
@[simp] theorem State.modOp_wlNext (c q : Nat) (n : Word) (f : EngineOp → EngineOp) : (s.modOp c q n f).wlNext = s.wlNext := rfl
@[simp] theorem State.modOp_mgmtOut (c q : Nat) (n : Word) (f : EngineOp → EngineOp) : (s.modOp c q n f).mgmtOut = s.mgmtOut := rfl
@[simp] theorem State.modOp_hostOut (c q : Nat) (n : Word) (f : EngineOp → EngineOp) : (s.modOp c q n f).hostOut = s.hostOut := rfl
@[simp] theorem State.modOp_peerOut (c q : Nat) (n : Word) (f : EngineOp → EngineOp) : (s.modOp c q n f).peerOut = s.peerOut := rfl
@[simp] theorem State.modOp_aer (c q : Nat) (n : Word) (f : EngineOp → EngineOp) : (s.modOp c q n f).aer = s.aer := rfl
@[simp] theorem State.modOp_msix (c q : Nat) (n : Word) (f : EngineOp → EngineOp) : (s.modOp c q n f).msix = s.msix := rfl
@[simp] theorem State.modOp_cur (c q : Nat) (n : Word) (f : EngineOp → EngineOp) : (s.modOp c q n f).cur = s.cur := rfl
@[simp] theorem State.modOp_ag (c q : Nat) (n : Word) (f : EngineOp → EngineOp) : (s.modOp c q n f).ag = s.ag := rfl
@[simp] theorem State.modOp_agenda (c q : Nat) (n : Word) (f : EngineOp → EngineOp) : (s.modOp c q n f).agenda = s.agenda := rfl
@[simp] theorem State.modOp_delayed (c q : Nat) (n : Word) (f : EngineOp → EngineOp) : (s.modOp c q n f).delayed = s.delayed := rfl
@[simp] theorem State.modOp_free (c q : Nat) (n : Word) (f : EngineOp → EngineOp) : (s.modOp c q n f).free = s.free := rfl

/-! ### modDieMem -/

@[simp] theorem State.modDieMem_cclk (d : Nat) (f : DieMem → DieMem) : (s.modDieMem d f).cclk = s.cclk := rfl
@[simp] theorem State.modDieMem_bts (d : Nat) (f : DieMem → DieMem) : (s.modDieMem d f).bts = s.bts := rfl
@[simp] theorem State.modDieMem_smc (d : Nat) (f : DieMem → DieMem) : (s.modDieMem d f).smc = s.smc := rfl
@[simp] theorem State.modDieMem_cfgWin (d : Nat) (f : DieMem → DieMem) : (s.modDieMem d f).cfgWin = s.cfgWin := rfl
@[simp] theorem State.modDieMem_fwWin (d : Nat) (f : DieMem → DieMem) : (s.modDieMem d f).fwWin = s.fwWin := rfl
@[simp] theorem State.modDieMem_hostWin (d : Nat) (f : DieMem → DieMem) : (s.modDieMem d f).hostWin = s.hostWin := rfl
@[simp] theorem State.modDieMem_barLog2 (d : Nat) (f : DieMem → DieMem) : (s.modDieMem d f).barLog2 = s.barLog2 := rfl
@[simp] theorem State.modDieMem_hostPorts (d : Nat) (f : DieMem → DieMem) : (s.modDieMem d f).hostPorts = s.hostPorts := rfl
@[simp] theorem State.modDieMem_peerPorts (d : Nat) (f : DieMem → DieMem) : (s.modDieMem d f).peerPorts = s.peerPorts := rfl
@[simp] theorem State.modDieMem_d2dRetry (d : Nat) (f : DieMem → DieMem) : (s.modDieMem d f).d2dRetry = s.d2dRetry := rfl
@[simp] theorem State.modDieMem_d2dFailed (d : Nat) (f : DieMem → DieMem) : (s.modDieMem d f).d2dFailed = s.d2dFailed := rfl
@[simp] theorem State.modDieMem_inReject (d : Nat) (f : DieMem → DieMem) : (s.modDieMem d f).inReject = s.inReject := rfl
@[simp] theorem State.modDieMem_allow (d : Nat) (f : DieMem → DieMem) : (s.modDieMem d f).allow = s.allow := rfl
@[simp] theorem State.modDieMem_apertures (d : Nat) (f : DieMem → DieMem) : (s.modDieMem d f).apertures = s.apertures := rfl
@[simp] theorem State.modDieMem_net (d : Nat) (f : DieMem → DieMem) : (s.modDieMem d f).net = s.net := rfl
@[simp] theorem State.modDieMem_netNext (d : Nat) (f : DieMem → DieMem) : (s.modDieMem d f).netNext = s.netNext := rfl
@[simp] theorem State.modDieMem_outTs (d : Nat) (f : DieMem → DieMem) : (s.modDieMem d f).outTs = s.outTs := rfl
@[simp] theorem State.modDieMem_mem (d : Nat) (f : DieMem → DieMem) : (s.modDieMem d f).mem = s.mem := rfl
@[simp] theorem State.modDieMem_poison (d : Nat) (f : DieMem → DieMem) : (s.modDieMem d f).poison = s.poison := rfl
@[simp] theorem State.modDieMem_l2 (d : Nat) (f : DieMem → DieMem) : (s.modDieMem d f).l2 = s.l2 := rfl
@[simp] theorem State.modDieMem_mts (d : Nat) (f : DieMem → DieMem) : (s.modDieMem d f).mts = s.mts := rfl
@[simp] theorem State.modDieMem_ownWait (d : Nat) (f : DieMem → DieMem) : (s.modDieMem d f).ownWait = s.ownWait := rfl
@[simp] theorem State.modDieMem_rmws (d : Nat) (f : DieMem → DieMem) : (s.modDieMem d f).rmws = s.rmws := rfl
@[simp] theorem State.modDieMem_moors (d : Nat) (f : DieMem → DieMem) : (s.modDieMem d f).moors = s.moors := rfl
@[simp] theorem State.modDieMem_monitors (d : Nat) (f : DieMem → DieMem) : (s.modDieMem d f).monitors = s.monitors := rfl
@[simp] theorem State.modDieMem_msc (d : Nat) (f : DieMem → DieMem) : (s.modDieMem d f).msc = s.msc := rfl
@[simp] theorem State.modDieMem_mscClock (d : Nat) (f : DieMem → DieMem) : (s.modDieMem d f).mscClock = s.mscClock := rfl
@[simp] theorem State.modDieMem_rowAct (d : Nat) (f : DieMem → DieMem) : (s.modDieMem d f).rowAct = s.rowAct := rfl
@[simp] theorem State.modDieMem_tlb (d : Nat) (f : DieMem → DieMem) : (s.modDieMem d f).tlb = s.tlb := rfl
@[simp] theorem State.modDieMem_queues (d : Nat) (f : DieMem → DieMem) : (s.modDieMem d f).queues = s.queues := rfl
@[simp] theorem State.modDieMem_ptroots (d : Nat) (f : DieMem → DieMem) : (s.modDieMem d f).ptroots = s.ptroots := rfl
@[simp] theorem State.modDieMem_cmd (d : Nat) (f : DieMem → DieMem) : (s.modDieMem d f).cmd = s.cmd := rfl
@[simp] theorem State.modDieMem_launches (d : Nat) (f : DieMem → DieMem) : (s.modDieMem d f).launches = s.launches := rfl
@[simp] theorem State.modDieMem_dies (d : Nat) (f : DieMem → DieMem) : (s.modDieMem d f).dies = s.dies := rfl
@[simp] theorem State.modDieMem_cores (d : Nat) (f : DieMem → DieMem) : (s.modDieMem d f).cores = s.cores := rfl
@[simp] theorem State.modDieMem_wlItems (d : Nat) (f : DieMem → DieMem) : (s.modDieMem d f).wlItems = s.wlItems := rfl
@[simp] theorem State.modDieMem_wlNext (d : Nat) (f : DieMem → DieMem) : (s.modDieMem d f).wlNext = s.wlNext := rfl
@[simp] theorem State.modDieMem_mgmtOut (d : Nat) (f : DieMem → DieMem) : (s.modDieMem d f).mgmtOut = s.mgmtOut := rfl
@[simp] theorem State.modDieMem_hostOut (d : Nat) (f : DieMem → DieMem) : (s.modDieMem d f).hostOut = s.hostOut := rfl
@[simp] theorem State.modDieMem_peerOut (d : Nat) (f : DieMem → DieMem) : (s.modDieMem d f).peerOut = s.peerOut := rfl
@[simp] theorem State.modDieMem_aer (d : Nat) (f : DieMem → DieMem) : (s.modDieMem d f).aer = s.aer := rfl
@[simp] theorem State.modDieMem_msix (d : Nat) (f : DieMem → DieMem) : (s.modDieMem d f).msix = s.msix := rfl
@[simp] theorem State.modDieMem_cur (d : Nat) (f : DieMem → DieMem) : (s.modDieMem d f).cur = s.cur := rfl
@[simp] theorem State.modDieMem_ag (d : Nat) (f : DieMem → DieMem) : (s.modDieMem d f).ag = s.ag := rfl
@[simp] theorem State.modDieMem_agenda (d : Nat) (f : DieMem → DieMem) : (s.modDieMem d f).agenda = s.agenda := rfl
@[simp] theorem State.modDieMem_delayed (d : Nat) (f : DieMem → DieMem) : (s.modDieMem d f).delayed = s.delayed := rfl
@[simp] theorem State.modDieMem_free (d : Nat) (f : DieMem → DieMem) : (s.modDieMem d f).free = s.free := rfl

/-! ### modAperture -/

@[simp] theorem State.modAperture_cclk (n : Nat) (f : Aperture → Aperture) : (s.modAperture n f).cclk = s.cclk := rfl
@[simp] theorem State.modAperture_bts (n : Nat) (f : Aperture → Aperture) : (s.modAperture n f).bts = s.bts := rfl
@[simp] theorem State.modAperture_smc (n : Nat) (f : Aperture → Aperture) : (s.modAperture n f).smc = s.smc := rfl
@[simp] theorem State.modAperture_cfgWin (n : Nat) (f : Aperture → Aperture) : (s.modAperture n f).cfgWin = s.cfgWin := rfl
@[simp] theorem State.modAperture_fwWin (n : Nat) (f : Aperture → Aperture) : (s.modAperture n f).fwWin = s.fwWin := rfl
@[simp] theorem State.modAperture_hostWin (n : Nat) (f : Aperture → Aperture) : (s.modAperture n f).hostWin = s.hostWin := rfl
@[simp] theorem State.modAperture_barLog2 (n : Nat) (f : Aperture → Aperture) : (s.modAperture n f).barLog2 = s.barLog2 := rfl
@[simp] theorem State.modAperture_hostPorts (n : Nat) (f : Aperture → Aperture) : (s.modAperture n f).hostPorts = s.hostPorts := rfl
@[simp] theorem State.modAperture_peerPorts (n : Nat) (f : Aperture → Aperture) : (s.modAperture n f).peerPorts = s.peerPorts := rfl
@[simp] theorem State.modAperture_d2dRetry (n : Nat) (f : Aperture → Aperture) : (s.modAperture n f).d2dRetry = s.d2dRetry := rfl
@[simp] theorem State.modAperture_d2dFailed (n : Nat) (f : Aperture → Aperture) : (s.modAperture n f).d2dFailed = s.d2dFailed := rfl
@[simp] theorem State.modAperture_inReject (n : Nat) (f : Aperture → Aperture) : (s.modAperture n f).inReject = s.inReject := rfl
@[simp] theorem State.modAperture_allow (n : Nat) (f : Aperture → Aperture) : (s.modAperture n f).allow = s.allow := rfl
@[simp] theorem State.modAperture_net (n : Nat) (f : Aperture → Aperture) : (s.modAperture n f).net = s.net := rfl
@[simp] theorem State.modAperture_netNext (n : Nat) (f : Aperture → Aperture) : (s.modAperture n f).netNext = s.netNext := rfl
@[simp] theorem State.modAperture_outTs (n : Nat) (f : Aperture → Aperture) : (s.modAperture n f).outTs = s.outTs := rfl
@[simp] theorem State.modAperture_mem (n : Nat) (f : Aperture → Aperture) : (s.modAperture n f).mem = s.mem := rfl
@[simp] theorem State.modAperture_poison (n : Nat) (f : Aperture → Aperture) : (s.modAperture n f).poison = s.poison := rfl
@[simp] theorem State.modAperture_l2 (n : Nat) (f : Aperture → Aperture) : (s.modAperture n f).l2 = s.l2 := rfl
@[simp] theorem State.modAperture_mts (n : Nat) (f : Aperture → Aperture) : (s.modAperture n f).mts = s.mts := rfl
@[simp] theorem State.modAperture_ownWait (n : Nat) (f : Aperture → Aperture) : (s.modAperture n f).ownWait = s.ownWait := rfl
@[simp] theorem State.modAperture_rmws (n : Nat) (f : Aperture → Aperture) : (s.modAperture n f).rmws = s.rmws := rfl
@[simp] theorem State.modAperture_moors (n : Nat) (f : Aperture → Aperture) : (s.modAperture n f).moors = s.moors := rfl
@[simp] theorem State.modAperture_monitors (n : Nat) (f : Aperture → Aperture) : (s.modAperture n f).monitors = s.monitors := rfl
@[simp] theorem State.modAperture_msc (n : Nat) (f : Aperture → Aperture) : (s.modAperture n f).msc = s.msc := rfl
@[simp] theorem State.modAperture_mscClock (n : Nat) (f : Aperture → Aperture) : (s.modAperture n f).mscClock = s.mscClock := rfl
@[simp] theorem State.modAperture_rowAct (n : Nat) (f : Aperture → Aperture) : (s.modAperture n f).rowAct = s.rowAct := rfl
@[simp] theorem State.modAperture_tlb (n : Nat) (f : Aperture → Aperture) : (s.modAperture n f).tlb = s.tlb := rfl
@[simp] theorem State.modAperture_dieMem (n : Nat) (f : Aperture → Aperture) : (s.modAperture n f).dieMem = s.dieMem := rfl
@[simp] theorem State.modAperture_queues (n : Nat) (f : Aperture → Aperture) : (s.modAperture n f).queues = s.queues := rfl
@[simp] theorem State.modAperture_ptroots (n : Nat) (f : Aperture → Aperture) : (s.modAperture n f).ptroots = s.ptroots := rfl
@[simp] theorem State.modAperture_cmd (n : Nat) (f : Aperture → Aperture) : (s.modAperture n f).cmd = s.cmd := rfl
@[simp] theorem State.modAperture_launches (n : Nat) (f : Aperture → Aperture) : (s.modAperture n f).launches = s.launches := rfl
@[simp] theorem State.modAperture_dies (n : Nat) (f : Aperture → Aperture) : (s.modAperture n f).dies = s.dies := rfl
@[simp] theorem State.modAperture_cores (n : Nat) (f : Aperture → Aperture) : (s.modAperture n f).cores = s.cores := rfl
@[simp] theorem State.modAperture_wlItems (n : Nat) (f : Aperture → Aperture) : (s.modAperture n f).wlItems = s.wlItems := rfl
@[simp] theorem State.modAperture_wlNext (n : Nat) (f : Aperture → Aperture) : (s.modAperture n f).wlNext = s.wlNext := rfl
@[simp] theorem State.modAperture_mgmtOut (n : Nat) (f : Aperture → Aperture) : (s.modAperture n f).mgmtOut = s.mgmtOut := rfl
@[simp] theorem State.modAperture_hostOut (n : Nat) (f : Aperture → Aperture) : (s.modAperture n f).hostOut = s.hostOut := rfl
@[simp] theorem State.modAperture_peerOut (n : Nat) (f : Aperture → Aperture) : (s.modAperture n f).peerOut = s.peerOut := rfl
@[simp] theorem State.modAperture_aer (n : Nat) (f : Aperture → Aperture) : (s.modAperture n f).aer = s.aer := rfl
@[simp] theorem State.modAperture_msix (n : Nat) (f : Aperture → Aperture) : (s.modAperture n f).msix = s.msix := rfl
@[simp] theorem State.modAperture_cur (n : Nat) (f : Aperture → Aperture) : (s.modAperture n f).cur = s.cur := rfl
@[simp] theorem State.modAperture_ag (n : Nat) (f : Aperture → Aperture) : (s.modAperture n f).ag = s.ag := rfl
@[simp] theorem State.modAperture_agenda (n : Nat) (f : Aperture → Aperture) : (s.modAperture n f).agenda = s.agenda := rfl
@[simp] theorem State.modAperture_delayed (n : Nat) (f : Aperture → Aperture) : (s.modAperture n f).delayed = s.delayed := rfl
@[simp] theorem State.modAperture_free (n : Nat) (f : Aperture → Aperture) : (s.modAperture n f).free = s.free := rfl

/-! ### drawn -/

@[simp] theorem State.drawn_cclk : (s.drawn).cclk = s.cclk := rfl
@[simp] theorem State.drawn_bts : (s.drawn).bts = s.bts := rfl
@[simp] theorem State.drawn_smc : (s.drawn).smc = s.smc := rfl
@[simp] theorem State.drawn_cfgWin : (s.drawn).cfgWin = s.cfgWin := rfl
@[simp] theorem State.drawn_fwWin : (s.drawn).fwWin = s.fwWin := rfl
@[simp] theorem State.drawn_hostWin : (s.drawn).hostWin = s.hostWin := rfl
@[simp] theorem State.drawn_barLog2 : (s.drawn).barLog2 = s.barLog2 := rfl
@[simp] theorem State.drawn_hostPorts : (s.drawn).hostPorts = s.hostPorts := rfl
@[simp] theorem State.drawn_peerPorts : (s.drawn).peerPorts = s.peerPorts := rfl
@[simp] theorem State.drawn_d2dRetry : (s.drawn).d2dRetry = s.d2dRetry := rfl
@[simp] theorem State.drawn_d2dFailed : (s.drawn).d2dFailed = s.d2dFailed := rfl
@[simp] theorem State.drawn_inReject : (s.drawn).inReject = s.inReject := rfl
@[simp] theorem State.drawn_allow : (s.drawn).allow = s.allow := rfl
@[simp] theorem State.drawn_apertures : (s.drawn).apertures = s.apertures := rfl
@[simp] theorem State.drawn_net : (s.drawn).net = s.net := rfl
@[simp] theorem State.drawn_netNext : (s.drawn).netNext = s.netNext := rfl
@[simp] theorem State.drawn_outTs : (s.drawn).outTs = s.outTs := rfl
@[simp] theorem State.drawn_mem : (s.drawn).mem = s.mem := rfl
@[simp] theorem State.drawn_poison : (s.drawn).poison = s.poison := rfl
@[simp] theorem State.drawn_l2 : (s.drawn).l2 = s.l2 := rfl
@[simp] theorem State.drawn_mts : (s.drawn).mts = s.mts := rfl
@[simp] theorem State.drawn_ownWait : (s.drawn).ownWait = s.ownWait := rfl
@[simp] theorem State.drawn_rmws : (s.drawn).rmws = s.rmws := rfl
@[simp] theorem State.drawn_moors : (s.drawn).moors = s.moors := rfl
@[simp] theorem State.drawn_monitors : (s.drawn).monitors = s.monitors := rfl
@[simp] theorem State.drawn_msc : (s.drawn).msc = s.msc := rfl
@[simp] theorem State.drawn_mscClock : (s.drawn).mscClock = s.mscClock := rfl
@[simp] theorem State.drawn_rowAct : (s.drawn).rowAct = s.rowAct := rfl
@[simp] theorem State.drawn_tlb : (s.drawn).tlb = s.tlb := rfl
@[simp] theorem State.drawn_dieMem : (s.drawn).dieMem = s.dieMem := rfl
@[simp] theorem State.drawn_queues : (s.drawn).queues = s.queues := rfl
@[simp] theorem State.drawn_ptroots : (s.drawn).ptroots = s.ptroots := rfl
@[simp] theorem State.drawn_cmd : (s.drawn).cmd = s.cmd := rfl
@[simp] theorem State.drawn_launches : (s.drawn).launches = s.launches := rfl
@[simp] theorem State.drawn_dies : (s.drawn).dies = s.dies := rfl
@[simp] theorem State.drawn_cores : (s.drawn).cores = s.cores := rfl
@[simp] theorem State.drawn_wlItems : (s.drawn).wlItems = s.wlItems := rfl
@[simp] theorem State.drawn_wlNext : (s.drawn).wlNext = s.wlNext := rfl
@[simp] theorem State.drawn_mgmtOut : (s.drawn).mgmtOut = s.mgmtOut := rfl
@[simp] theorem State.drawn_hostOut : (s.drawn).hostOut = s.hostOut := rfl
@[simp] theorem State.drawn_peerOut : (s.drawn).peerOut = s.peerOut := rfl
@[simp] theorem State.drawn_aer : (s.drawn).aer = s.aer := rfl
@[simp] theorem State.drawn_msix : (s.drawn).msix = s.msix := rfl
@[simp] theorem State.drawn_cur : (s.drawn).cur = s.cur := rfl
@[simp] theorem State.drawn_ag : (s.drawn).ag = s.ag := rfl
@[simp] theorem State.drawn_agenda : (s.drawn).agenda = s.agenda := rfl
@[simp] theorem State.drawn_delayed : (s.drawn).delayed = s.delayed := rfl
@[simp] theorem State.drawn_free : (s.drawn).free = s.free + 1 := rfl

/-! ### first -/

@[simp] theorem State.first_cclk (ms : List Move) : (s.first ms).cclk = s.cclk := rfl
@[simp] theorem State.first_bts (ms : List Move) : (s.first ms).bts = s.bts := rfl
@[simp] theorem State.first_smc (ms : List Move) : (s.first ms).smc = s.smc := rfl
@[simp] theorem State.first_cfgWin (ms : List Move) : (s.first ms).cfgWin = s.cfgWin := rfl
@[simp] theorem State.first_fwWin (ms : List Move) : (s.first ms).fwWin = s.fwWin := rfl
@[simp] theorem State.first_hostWin (ms : List Move) : (s.first ms).hostWin = s.hostWin := rfl
@[simp] theorem State.first_barLog2 (ms : List Move) : (s.first ms).barLog2 = s.barLog2 := rfl
@[simp] theorem State.first_hostPorts (ms : List Move) : (s.first ms).hostPorts = s.hostPorts := rfl
@[simp] theorem State.first_peerPorts (ms : List Move) : (s.first ms).peerPorts = s.peerPorts := rfl
@[simp] theorem State.first_d2dRetry (ms : List Move) : (s.first ms).d2dRetry = s.d2dRetry := rfl
@[simp] theorem State.first_d2dFailed (ms : List Move) : (s.first ms).d2dFailed = s.d2dFailed := rfl
@[simp] theorem State.first_inReject (ms : List Move) : (s.first ms).inReject = s.inReject := rfl
@[simp] theorem State.first_allow (ms : List Move) : (s.first ms).allow = s.allow := rfl
@[simp] theorem State.first_apertures (ms : List Move) : (s.first ms).apertures = s.apertures := rfl
@[simp] theorem State.first_net (ms : List Move) : (s.first ms).net = s.net := rfl
@[simp] theorem State.first_netNext (ms : List Move) : (s.first ms).netNext = s.netNext := rfl
@[simp] theorem State.first_outTs (ms : List Move) : (s.first ms).outTs = s.outTs := rfl
@[simp] theorem State.first_mem (ms : List Move) : (s.first ms).mem = s.mem := rfl
@[simp] theorem State.first_poison (ms : List Move) : (s.first ms).poison = s.poison := rfl
@[simp] theorem State.first_l2 (ms : List Move) : (s.first ms).l2 = s.l2 := rfl
@[simp] theorem State.first_mts (ms : List Move) : (s.first ms).mts = s.mts := rfl
@[simp] theorem State.first_ownWait (ms : List Move) : (s.first ms).ownWait = s.ownWait := rfl
@[simp] theorem State.first_rmws (ms : List Move) : (s.first ms).rmws = s.rmws := rfl
@[simp] theorem State.first_moors (ms : List Move) : (s.first ms).moors = s.moors := rfl
@[simp] theorem State.first_monitors (ms : List Move) : (s.first ms).monitors = s.monitors := rfl
@[simp] theorem State.first_msc (ms : List Move) : (s.first ms).msc = s.msc := rfl
@[simp] theorem State.first_mscClock (ms : List Move) : (s.first ms).mscClock = s.mscClock := rfl
@[simp] theorem State.first_rowAct (ms : List Move) : (s.first ms).rowAct = s.rowAct := rfl
@[simp] theorem State.first_tlb (ms : List Move) : (s.first ms).tlb = s.tlb := rfl
@[simp] theorem State.first_dieMem (ms : List Move) : (s.first ms).dieMem = s.dieMem := rfl
@[simp] theorem State.first_queues (ms : List Move) : (s.first ms).queues = s.queues := rfl
@[simp] theorem State.first_ptroots (ms : List Move) : (s.first ms).ptroots = s.ptroots := rfl
@[simp] theorem State.first_cmd (ms : List Move) : (s.first ms).cmd = s.cmd := rfl
@[simp] theorem State.first_launches (ms : List Move) : (s.first ms).launches = s.launches := rfl
@[simp] theorem State.first_dies (ms : List Move) : (s.first ms).dies = s.dies := rfl
@[simp] theorem State.first_cores (ms : List Move) : (s.first ms).cores = s.cores := rfl
@[simp] theorem State.first_wlItems (ms : List Move) : (s.first ms).wlItems = s.wlItems := rfl
@[simp] theorem State.first_wlNext (ms : List Move) : (s.first ms).wlNext = s.wlNext := rfl
@[simp] theorem State.first_mgmtOut (ms : List Move) : (s.first ms).mgmtOut = s.mgmtOut := rfl
@[simp] theorem State.first_hostOut (ms : List Move) : (s.first ms).hostOut = s.hostOut := rfl
@[simp] theorem State.first_peerOut (ms : List Move) : (s.first ms).peerOut = s.peerOut := rfl
@[simp] theorem State.first_aer (ms : List Move) : (s.first ms).aer = s.aer := rfl
@[simp] theorem State.first_msix (ms : List Move) : (s.first ms).msix = s.msix := rfl
@[simp] theorem State.first_cur (ms : List Move) : (s.first ms).cur = s.cur := rfl
@[simp] theorem State.first_ag (ms : List Move) : (s.first ms).ag = s.ag := rfl
@[simp] theorem State.first_agenda (ms : List Move) : (s.first ms).agenda = ms ++ s.agenda := rfl
@[simp] theorem State.first_delayed (ms : List Move) : (s.first ms).delayed = s.delayed := rfl
@[simp] theorem State.first_free (ms : List Move) : (s.first ms).free = s.free := rfl

/-! ### later -/

@[simp] theorem State.later_cclk (ms : List Move) : (s.later ms).cclk = s.cclk := rfl
@[simp] theorem State.later_bts (ms : List Move) : (s.later ms).bts = s.bts := rfl
@[simp] theorem State.later_smc (ms : List Move) : (s.later ms).smc = s.smc := rfl
@[simp] theorem State.later_cfgWin (ms : List Move) : (s.later ms).cfgWin = s.cfgWin := rfl
@[simp] theorem State.later_fwWin (ms : List Move) : (s.later ms).fwWin = s.fwWin := rfl
@[simp] theorem State.later_hostWin (ms : List Move) : (s.later ms).hostWin = s.hostWin := rfl
@[simp] theorem State.later_barLog2 (ms : List Move) : (s.later ms).barLog2 = s.barLog2 := rfl
@[simp] theorem State.later_hostPorts (ms : List Move) : (s.later ms).hostPorts = s.hostPorts := rfl
@[simp] theorem State.later_peerPorts (ms : List Move) : (s.later ms).peerPorts = s.peerPorts := rfl
@[simp] theorem State.later_d2dRetry (ms : List Move) : (s.later ms).d2dRetry = s.d2dRetry := rfl
@[simp] theorem State.later_d2dFailed (ms : List Move) : (s.later ms).d2dFailed = s.d2dFailed := rfl
@[simp] theorem State.later_inReject (ms : List Move) : (s.later ms).inReject = s.inReject := rfl
@[simp] theorem State.later_allow (ms : List Move) : (s.later ms).allow = s.allow := rfl
@[simp] theorem State.later_apertures (ms : List Move) : (s.later ms).apertures = s.apertures := rfl
@[simp] theorem State.later_net (ms : List Move) : (s.later ms).net = s.net := rfl
@[simp] theorem State.later_netNext (ms : List Move) : (s.later ms).netNext = s.netNext := rfl
@[simp] theorem State.later_outTs (ms : List Move) : (s.later ms).outTs = s.outTs := rfl
@[simp] theorem State.later_mem (ms : List Move) : (s.later ms).mem = s.mem := rfl
@[simp] theorem State.later_poison (ms : List Move) : (s.later ms).poison = s.poison := rfl
@[simp] theorem State.later_l2 (ms : List Move) : (s.later ms).l2 = s.l2 := rfl
@[simp] theorem State.later_mts (ms : List Move) : (s.later ms).mts = s.mts := rfl
@[simp] theorem State.later_ownWait (ms : List Move) : (s.later ms).ownWait = s.ownWait := rfl
@[simp] theorem State.later_rmws (ms : List Move) : (s.later ms).rmws = s.rmws := rfl
@[simp] theorem State.later_moors (ms : List Move) : (s.later ms).moors = s.moors := rfl
@[simp] theorem State.later_monitors (ms : List Move) : (s.later ms).monitors = s.monitors := rfl
@[simp] theorem State.later_msc (ms : List Move) : (s.later ms).msc = s.msc := rfl
@[simp] theorem State.later_mscClock (ms : List Move) : (s.later ms).mscClock = s.mscClock := rfl
@[simp] theorem State.later_rowAct (ms : List Move) : (s.later ms).rowAct = s.rowAct := rfl
@[simp] theorem State.later_tlb (ms : List Move) : (s.later ms).tlb = s.tlb := rfl
@[simp] theorem State.later_dieMem (ms : List Move) : (s.later ms).dieMem = s.dieMem := rfl
@[simp] theorem State.later_queues (ms : List Move) : (s.later ms).queues = s.queues := rfl
@[simp] theorem State.later_ptroots (ms : List Move) : (s.later ms).ptroots = s.ptroots := rfl
@[simp] theorem State.later_cmd (ms : List Move) : (s.later ms).cmd = s.cmd := rfl
@[simp] theorem State.later_launches (ms : List Move) : (s.later ms).launches = s.launches := rfl
@[simp] theorem State.later_dies (ms : List Move) : (s.later ms).dies = s.dies := rfl
@[simp] theorem State.later_cores (ms : List Move) : (s.later ms).cores = s.cores := rfl
@[simp] theorem State.later_wlItems (ms : List Move) : (s.later ms).wlItems = s.wlItems := rfl
@[simp] theorem State.later_wlNext (ms : List Move) : (s.later ms).wlNext = s.wlNext := rfl
@[simp] theorem State.later_mgmtOut (ms : List Move) : (s.later ms).mgmtOut = s.mgmtOut := rfl
@[simp] theorem State.later_hostOut (ms : List Move) : (s.later ms).hostOut = s.hostOut := rfl
@[simp] theorem State.later_peerOut (ms : List Move) : (s.later ms).peerOut = s.peerOut := rfl
@[simp] theorem State.later_aer (ms : List Move) : (s.later ms).aer = s.aer := rfl
@[simp] theorem State.later_msix (ms : List Move) : (s.later ms).msix = s.msix := rfl
@[simp] theorem State.later_cur (ms : List Move) : (s.later ms).cur = s.cur := rfl
@[simp] theorem State.later_ag (ms : List Move) : (s.later ms).ag = s.ag := rfl
@[simp] theorem State.later_agenda (ms : List Move) : (s.later ms).agenda = s.agenda ++ ms := rfl
@[simp] theorem State.later_delayed (ms : List Move) : (s.later ms).delayed = s.delayed := rfl
@[simp] theorem State.later_free (ms : List Move) : (s.later ms).free = s.free := rfl

/-! ### pokeBytes -/

@[simp] theorem State.pokeBytes_cclk (pa : Nat) (bs : List Byte) : (s.pokeBytes pa bs).cclk = s.cclk := rfl
@[simp] theorem State.pokeBytes_bts (pa : Nat) (bs : List Byte) : (s.pokeBytes pa bs).bts = s.bts := rfl
@[simp] theorem State.pokeBytes_smc (pa : Nat) (bs : List Byte) : (s.pokeBytes pa bs).smc = s.smc := rfl
@[simp] theorem State.pokeBytes_cfgWin (pa : Nat) (bs : List Byte) : (s.pokeBytes pa bs).cfgWin = s.cfgWin := rfl
@[simp] theorem State.pokeBytes_fwWin (pa : Nat) (bs : List Byte) : (s.pokeBytes pa bs).fwWin = s.fwWin := rfl
@[simp] theorem State.pokeBytes_hostWin (pa : Nat) (bs : List Byte) : (s.pokeBytes pa bs).hostWin = s.hostWin := rfl
@[simp] theorem State.pokeBytes_barLog2 (pa : Nat) (bs : List Byte) : (s.pokeBytes pa bs).barLog2 = s.barLog2 := rfl
@[simp] theorem State.pokeBytes_hostPorts (pa : Nat) (bs : List Byte) : (s.pokeBytes pa bs).hostPorts = s.hostPorts := rfl
@[simp] theorem State.pokeBytes_peerPorts (pa : Nat) (bs : List Byte) : (s.pokeBytes pa bs).peerPorts = s.peerPorts := rfl
@[simp] theorem State.pokeBytes_d2dRetry (pa : Nat) (bs : List Byte) : (s.pokeBytes pa bs).d2dRetry = s.d2dRetry := rfl
@[simp] theorem State.pokeBytes_d2dFailed (pa : Nat) (bs : List Byte) : (s.pokeBytes pa bs).d2dFailed = s.d2dFailed := rfl
@[simp] theorem State.pokeBytes_inReject (pa : Nat) (bs : List Byte) : (s.pokeBytes pa bs).inReject = s.inReject := rfl
@[simp] theorem State.pokeBytes_allow (pa : Nat) (bs : List Byte) : (s.pokeBytes pa bs).allow = s.allow := rfl
@[simp] theorem State.pokeBytes_apertures (pa : Nat) (bs : List Byte) : (s.pokeBytes pa bs).apertures = s.apertures := rfl
@[simp] theorem State.pokeBytes_net (pa : Nat) (bs : List Byte) : (s.pokeBytes pa bs).net = s.net := rfl
@[simp] theorem State.pokeBytes_netNext (pa : Nat) (bs : List Byte) : (s.pokeBytes pa bs).netNext = s.netNext := rfl
@[simp] theorem State.pokeBytes_outTs (pa : Nat) (bs : List Byte) : (s.pokeBytes pa bs).outTs = s.outTs := rfl
@[simp] theorem State.pokeBytes_mem (pa : Nat) (bs : List Byte) : (s.pokeBytes pa bs).mem = putBytes s.mem pa bs := rfl
@[simp] theorem State.pokeBytes_poison (pa : Nat) (bs : List Byte) : (s.pokeBytes pa bs).poison = s.poison := rfl
@[simp] theorem State.pokeBytes_l2 (pa : Nat) (bs : List Byte) : (s.pokeBytes pa bs).l2 = s.l2 := rfl
@[simp] theorem State.pokeBytes_mts (pa : Nat) (bs : List Byte) : (s.pokeBytes pa bs).mts = s.mts := rfl
@[simp] theorem State.pokeBytes_ownWait (pa : Nat) (bs : List Byte) : (s.pokeBytes pa bs).ownWait = s.ownWait := rfl
@[simp] theorem State.pokeBytes_rmws (pa : Nat) (bs : List Byte) : (s.pokeBytes pa bs).rmws = s.rmws := rfl
@[simp] theorem State.pokeBytes_moors (pa : Nat) (bs : List Byte) : (s.pokeBytes pa bs).moors = s.moors := rfl
@[simp] theorem State.pokeBytes_monitors (pa : Nat) (bs : List Byte) : (s.pokeBytes pa bs).monitors = s.monitors := rfl
@[simp] theorem State.pokeBytes_msc (pa : Nat) (bs : List Byte) : (s.pokeBytes pa bs).msc = s.msc := rfl
@[simp] theorem State.pokeBytes_mscClock (pa : Nat) (bs : List Byte) : (s.pokeBytes pa bs).mscClock = s.mscClock := rfl
@[simp] theorem State.pokeBytes_rowAct (pa : Nat) (bs : List Byte) : (s.pokeBytes pa bs).rowAct = s.rowAct := rfl
@[simp] theorem State.pokeBytes_tlb (pa : Nat) (bs : List Byte) : (s.pokeBytes pa bs).tlb = s.tlb := rfl
@[simp] theorem State.pokeBytes_dieMem (pa : Nat) (bs : List Byte) : (s.pokeBytes pa bs).dieMem = s.dieMem := rfl
@[simp] theorem State.pokeBytes_queues (pa : Nat) (bs : List Byte) : (s.pokeBytes pa bs).queues = s.queues := rfl
@[simp] theorem State.pokeBytes_ptroots (pa : Nat) (bs : List Byte) : (s.pokeBytes pa bs).ptroots = s.ptroots := rfl
@[simp] theorem State.pokeBytes_cmd (pa : Nat) (bs : List Byte) : (s.pokeBytes pa bs).cmd = s.cmd := rfl
@[simp] theorem State.pokeBytes_launches (pa : Nat) (bs : List Byte) : (s.pokeBytes pa bs).launches = s.launches := rfl
@[simp] theorem State.pokeBytes_dies (pa : Nat) (bs : List Byte) : (s.pokeBytes pa bs).dies = s.dies := rfl
@[simp] theorem State.pokeBytes_cores (pa : Nat) (bs : List Byte) : (s.pokeBytes pa bs).cores = s.cores := rfl
@[simp] theorem State.pokeBytes_wlItems (pa : Nat) (bs : List Byte) : (s.pokeBytes pa bs).wlItems = s.wlItems := rfl
@[simp] theorem State.pokeBytes_wlNext (pa : Nat) (bs : List Byte) : (s.pokeBytes pa bs).wlNext = s.wlNext := rfl
@[simp] theorem State.pokeBytes_mgmtOut (pa : Nat) (bs : List Byte) : (s.pokeBytes pa bs).mgmtOut = s.mgmtOut := rfl
@[simp] theorem State.pokeBytes_hostOut (pa : Nat) (bs : List Byte) : (s.pokeBytes pa bs).hostOut = s.hostOut := rfl
@[simp] theorem State.pokeBytes_peerOut (pa : Nat) (bs : List Byte) : (s.pokeBytes pa bs).peerOut = s.peerOut := rfl
@[simp] theorem State.pokeBytes_aer (pa : Nat) (bs : List Byte) : (s.pokeBytes pa bs).aer = s.aer := rfl
@[simp] theorem State.pokeBytes_msix (pa : Nat) (bs : List Byte) : (s.pokeBytes pa bs).msix = s.msix := rfl
@[simp] theorem State.pokeBytes_cur (pa : Nat) (bs : List Byte) : (s.pokeBytes pa bs).cur = s.cur := rfl
@[simp] theorem State.pokeBytes_ag (pa : Nat) (bs : List Byte) : (s.pokeBytes pa bs).ag = s.ag := rfl
@[simp] theorem State.pokeBytes_agenda (pa : Nat) (bs : List Byte) : (s.pokeBytes pa bs).agenda = s.agenda := rfl
@[simp] theorem State.pokeBytes_delayed (pa : Nat) (bs : List Byte) : (s.pokeBytes pa bs).delayed = s.delayed := rfl
@[simp] theorem State.pokeBytes_free (pa : Nat) (bs : List Byte) : (s.pokeBytes pa bs).free = s.free := rfl

/-! ### cleanSectors -/

@[simp] theorem State.cleanSectors_cclk (pa n : Nat) : (s.cleanSectors pa n).cclk = s.cclk := rfl
@[simp] theorem State.cleanSectors_bts (pa n : Nat) : (s.cleanSectors pa n).bts = s.bts := rfl
@[simp] theorem State.cleanSectors_smc (pa n : Nat) : (s.cleanSectors pa n).smc = s.smc := rfl
@[simp] theorem State.cleanSectors_cfgWin (pa n : Nat) : (s.cleanSectors pa n).cfgWin = s.cfgWin := rfl
@[simp] theorem State.cleanSectors_fwWin (pa n : Nat) : (s.cleanSectors pa n).fwWin = s.fwWin := rfl
@[simp] theorem State.cleanSectors_hostWin (pa n : Nat) : (s.cleanSectors pa n).hostWin = s.hostWin := rfl
@[simp] theorem State.cleanSectors_barLog2 (pa n : Nat) : (s.cleanSectors pa n).barLog2 = s.barLog2 := rfl
@[simp] theorem State.cleanSectors_hostPorts (pa n : Nat) : (s.cleanSectors pa n).hostPorts = s.hostPorts := rfl
@[simp] theorem State.cleanSectors_peerPorts (pa n : Nat) : (s.cleanSectors pa n).peerPorts = s.peerPorts := rfl
@[simp] theorem State.cleanSectors_d2dRetry (pa n : Nat) : (s.cleanSectors pa n).d2dRetry = s.d2dRetry := rfl
@[simp] theorem State.cleanSectors_d2dFailed (pa n : Nat) : (s.cleanSectors pa n).d2dFailed = s.d2dFailed := rfl
@[simp] theorem State.cleanSectors_inReject (pa n : Nat) : (s.cleanSectors pa n).inReject = s.inReject := rfl
@[simp] theorem State.cleanSectors_allow (pa n : Nat) : (s.cleanSectors pa n).allow = s.allow := rfl
@[simp] theorem State.cleanSectors_apertures (pa n : Nat) : (s.cleanSectors pa n).apertures = s.apertures := rfl
@[simp] theorem State.cleanSectors_net (pa n : Nat) : (s.cleanSectors pa n).net = s.net := rfl
@[simp] theorem State.cleanSectors_netNext (pa n : Nat) : (s.cleanSectors pa n).netNext = s.netNext := rfl
@[simp] theorem State.cleanSectors_outTs (pa n : Nat) : (s.cleanSectors pa n).outTs = s.outTs := rfl
@[simp] theorem State.cleanSectors_mem (pa n : Nat) : (s.cleanSectors pa n).mem = s.mem := rfl
@[simp] theorem State.cleanSectors_l2 (pa n : Nat) : (s.cleanSectors pa n).l2 = s.l2 := rfl
@[simp] theorem State.cleanSectors_mts (pa n : Nat) : (s.cleanSectors pa n).mts = s.mts := rfl
@[simp] theorem State.cleanSectors_ownWait (pa n : Nat) : (s.cleanSectors pa n).ownWait = s.ownWait := rfl
@[simp] theorem State.cleanSectors_rmws (pa n : Nat) : (s.cleanSectors pa n).rmws = s.rmws := rfl
@[simp] theorem State.cleanSectors_moors (pa n : Nat) : (s.cleanSectors pa n).moors = s.moors := rfl
@[simp] theorem State.cleanSectors_monitors (pa n : Nat) : (s.cleanSectors pa n).monitors = s.monitors := rfl
@[simp] theorem State.cleanSectors_msc (pa n : Nat) : (s.cleanSectors pa n).msc = s.msc := rfl
@[simp] theorem State.cleanSectors_mscClock (pa n : Nat) : (s.cleanSectors pa n).mscClock = s.mscClock := rfl
@[simp] theorem State.cleanSectors_rowAct (pa n : Nat) : (s.cleanSectors pa n).rowAct = s.rowAct := rfl
@[simp] theorem State.cleanSectors_tlb (pa n : Nat) : (s.cleanSectors pa n).tlb = s.tlb := rfl
@[simp] theorem State.cleanSectors_dieMem (pa n : Nat) : (s.cleanSectors pa n).dieMem = s.dieMem := rfl
@[simp] theorem State.cleanSectors_queues (pa n : Nat) : (s.cleanSectors pa n).queues = s.queues := rfl
@[simp] theorem State.cleanSectors_ptroots (pa n : Nat) : (s.cleanSectors pa n).ptroots = s.ptroots := rfl
@[simp] theorem State.cleanSectors_cmd (pa n : Nat) : (s.cleanSectors pa n).cmd = s.cmd := rfl
@[simp] theorem State.cleanSectors_launches (pa n : Nat) : (s.cleanSectors pa n).launches = s.launches := rfl
@[simp] theorem State.cleanSectors_dies (pa n : Nat) : (s.cleanSectors pa n).dies = s.dies := rfl
@[simp] theorem State.cleanSectors_cores (pa n : Nat) : (s.cleanSectors pa n).cores = s.cores := rfl
@[simp] theorem State.cleanSectors_wlItems (pa n : Nat) : (s.cleanSectors pa n).wlItems = s.wlItems := rfl
@[simp] theorem State.cleanSectors_wlNext (pa n : Nat) : (s.cleanSectors pa n).wlNext = s.wlNext := rfl
@[simp] theorem State.cleanSectors_mgmtOut (pa n : Nat) : (s.cleanSectors pa n).mgmtOut = s.mgmtOut := rfl
@[simp] theorem State.cleanSectors_hostOut (pa n : Nat) : (s.cleanSectors pa n).hostOut = s.hostOut := rfl
@[simp] theorem State.cleanSectors_peerOut (pa n : Nat) : (s.cleanSectors pa n).peerOut = s.peerOut := rfl
@[simp] theorem State.cleanSectors_aer (pa n : Nat) : (s.cleanSectors pa n).aer = s.aer := rfl
@[simp] theorem State.cleanSectors_msix (pa n : Nat) : (s.cleanSectors pa n).msix = s.msix := rfl
@[simp] theorem State.cleanSectors_cur (pa n : Nat) : (s.cleanSectors pa n).cur = s.cur := rfl
@[simp] theorem State.cleanSectors_ag (pa n : Nat) : (s.cleanSectors pa n).ag = s.ag := rfl
@[simp] theorem State.cleanSectors_agenda (pa n : Nat) : (s.cleanSectors pa n).agenda = s.agenda := rfl
@[simp] theorem State.cleanSectors_delayed (pa n : Nat) : (s.cleanSectors pa n).delayed = s.delayed := rfl
@[simp] theorem State.cleanSectors_free (pa n : Nat) : (s.cleanSectors pa n).free = s.free := rfl

/-! ### modL2 -/

@[simp] theorem State.modL2_cclk (line : Nat) (f : L2Line → L2Line) : (s.modL2 line f).cclk = s.cclk := rfl
@[simp] theorem State.modL2_bts (line : Nat) (f : L2Line → L2Line) : (s.modL2 line f).bts = s.bts := rfl
@[simp] theorem State.modL2_smc (line : Nat) (f : L2Line → L2Line) : (s.modL2 line f).smc = s.smc := rfl
@[simp] theorem State.modL2_cfgWin (line : Nat) (f : L2Line → L2Line) : (s.modL2 line f).cfgWin = s.cfgWin := rfl
@[simp] theorem State.modL2_fwWin (line : Nat) (f : L2Line → L2Line) : (s.modL2 line f).fwWin = s.fwWin := rfl
@[simp] theorem State.modL2_hostWin (line : Nat) (f : L2Line → L2Line) : (s.modL2 line f).hostWin = s.hostWin := rfl
@[simp] theorem State.modL2_barLog2 (line : Nat) (f : L2Line → L2Line) : (s.modL2 line f).barLog2 = s.barLog2 := rfl
@[simp] theorem State.modL2_hostPorts (line : Nat) (f : L2Line → L2Line) : (s.modL2 line f).hostPorts = s.hostPorts := rfl
@[simp] theorem State.modL2_peerPorts (line : Nat) (f : L2Line → L2Line) : (s.modL2 line f).peerPorts = s.peerPorts := rfl
@[simp] theorem State.modL2_d2dRetry (line : Nat) (f : L2Line → L2Line) : (s.modL2 line f).d2dRetry = s.d2dRetry := rfl
@[simp] theorem State.modL2_d2dFailed (line : Nat) (f : L2Line → L2Line) : (s.modL2 line f).d2dFailed = s.d2dFailed := rfl
@[simp] theorem State.modL2_inReject (line : Nat) (f : L2Line → L2Line) : (s.modL2 line f).inReject = s.inReject := rfl
@[simp] theorem State.modL2_allow (line : Nat) (f : L2Line → L2Line) : (s.modL2 line f).allow = s.allow := rfl
@[simp] theorem State.modL2_apertures (line : Nat) (f : L2Line → L2Line) : (s.modL2 line f).apertures = s.apertures := rfl
@[simp] theorem State.modL2_net (line : Nat) (f : L2Line → L2Line) : (s.modL2 line f).net = s.net := rfl
@[simp] theorem State.modL2_netNext (line : Nat) (f : L2Line → L2Line) : (s.modL2 line f).netNext = s.netNext := rfl
@[simp] theorem State.modL2_outTs (line : Nat) (f : L2Line → L2Line) : (s.modL2 line f).outTs = s.outTs := rfl
@[simp] theorem State.modL2_mem (line : Nat) (f : L2Line → L2Line) : (s.modL2 line f).mem = s.mem := rfl
@[simp] theorem State.modL2_poison (line : Nat) (f : L2Line → L2Line) : (s.modL2 line f).poison = s.poison := rfl
@[simp] theorem State.modL2_mts (line : Nat) (f : L2Line → L2Line) : (s.modL2 line f).mts = s.mts := rfl
@[simp] theorem State.modL2_ownWait (line : Nat) (f : L2Line → L2Line) : (s.modL2 line f).ownWait = s.ownWait := rfl
@[simp] theorem State.modL2_rmws (line : Nat) (f : L2Line → L2Line) : (s.modL2 line f).rmws = s.rmws := rfl
@[simp] theorem State.modL2_moors (line : Nat) (f : L2Line → L2Line) : (s.modL2 line f).moors = s.moors := rfl
@[simp] theorem State.modL2_monitors (line : Nat) (f : L2Line → L2Line) : (s.modL2 line f).monitors = s.monitors := rfl
@[simp] theorem State.modL2_msc (line : Nat) (f : L2Line → L2Line) : (s.modL2 line f).msc = s.msc := rfl
@[simp] theorem State.modL2_mscClock (line : Nat) (f : L2Line → L2Line) : (s.modL2 line f).mscClock = s.mscClock := rfl
@[simp] theorem State.modL2_rowAct (line : Nat) (f : L2Line → L2Line) : (s.modL2 line f).rowAct = s.rowAct := rfl
@[simp] theorem State.modL2_tlb (line : Nat) (f : L2Line → L2Line) : (s.modL2 line f).tlb = s.tlb := rfl
@[simp] theorem State.modL2_dieMem (line : Nat) (f : L2Line → L2Line) : (s.modL2 line f).dieMem = s.dieMem := rfl
@[simp] theorem State.modL2_queues (line : Nat) (f : L2Line → L2Line) : (s.modL2 line f).queues = s.queues := rfl
@[simp] theorem State.modL2_ptroots (line : Nat) (f : L2Line → L2Line) : (s.modL2 line f).ptroots = s.ptroots := rfl
@[simp] theorem State.modL2_cmd (line : Nat) (f : L2Line → L2Line) : (s.modL2 line f).cmd = s.cmd := rfl
@[simp] theorem State.modL2_launches (line : Nat) (f : L2Line → L2Line) : (s.modL2 line f).launches = s.launches := rfl
@[simp] theorem State.modL2_dies (line : Nat) (f : L2Line → L2Line) : (s.modL2 line f).dies = s.dies := rfl
@[simp] theorem State.modL2_cores (line : Nat) (f : L2Line → L2Line) : (s.modL2 line f).cores = s.cores := rfl
@[simp] theorem State.modL2_wlItems (line : Nat) (f : L2Line → L2Line) : (s.modL2 line f).wlItems = s.wlItems := rfl
@[simp] theorem State.modL2_wlNext (line : Nat) (f : L2Line → L2Line) : (s.modL2 line f).wlNext = s.wlNext := rfl
@[simp] theorem State.modL2_mgmtOut (line : Nat) (f : L2Line → L2Line) : (s.modL2 line f).mgmtOut = s.mgmtOut := rfl
@[simp] theorem State.modL2_hostOut (line : Nat) (f : L2Line → L2Line) : (s.modL2 line f).hostOut = s.hostOut := rfl
@[simp] theorem State.modL2_peerOut (line : Nat) (f : L2Line → L2Line) : (s.modL2 line f).peerOut = s.peerOut := rfl
@[simp] theorem State.modL2_aer (line : Nat) (f : L2Line → L2Line) : (s.modL2 line f).aer = s.aer := rfl
@[simp] theorem State.modL2_msix (line : Nat) (f : L2Line → L2Line) : (s.modL2 line f).msix = s.msix := rfl
@[simp] theorem State.modL2_cur (line : Nat) (f : L2Line → L2Line) : (s.modL2 line f).cur = s.cur := rfl
@[simp] theorem State.modL2_ag (line : Nat) (f : L2Line → L2Line) : (s.modL2 line f).ag = s.ag := rfl
@[simp] theorem State.modL2_agenda (line : Nat) (f : L2Line → L2Line) : (s.modL2 line f).agenda = s.agenda := rfl
@[simp] theorem State.modL2_delayed (line : Nat) (f : L2Line → L2Line) : (s.modL2 line f).delayed = s.delayed := rfl
@[simp] theorem State.modL2_free (line : Nat) (f : L2Line → L2Line) : (s.modL2 line f).free = s.free := rfl

/-! ### stamp -/

@[simp] theorem State.stamp_cclk (line : Nat) (w : DWord) : (s.stamp line w).cclk = s.cclk := rfl
@[simp] theorem State.stamp_bts (line : Nat) (w : DWord) : (s.stamp line w).bts = s.bts := rfl
@[simp] theorem State.stamp_smc (line : Nat) (w : DWord) : (s.stamp line w).smc = s.smc := rfl
@[simp] theorem State.stamp_cfgWin (line : Nat) (w : DWord) : (s.stamp line w).cfgWin = s.cfgWin := rfl
@[simp] theorem State.stamp_fwWin (line : Nat) (w : DWord) : (s.stamp line w).fwWin = s.fwWin := rfl
@[simp] theorem State.stamp_hostWin (line : Nat) (w : DWord) : (s.stamp line w).hostWin = s.hostWin := rfl
@[simp] theorem State.stamp_barLog2 (line : Nat) (w : DWord) : (s.stamp line w).barLog2 = s.barLog2 := rfl
@[simp] theorem State.stamp_hostPorts (line : Nat) (w : DWord) : (s.stamp line w).hostPorts = s.hostPorts := rfl
@[simp] theorem State.stamp_peerPorts (line : Nat) (w : DWord) : (s.stamp line w).peerPorts = s.peerPorts := rfl
@[simp] theorem State.stamp_d2dRetry (line : Nat) (w : DWord) : (s.stamp line w).d2dRetry = s.d2dRetry := rfl
@[simp] theorem State.stamp_d2dFailed (line : Nat) (w : DWord) : (s.stamp line w).d2dFailed = s.d2dFailed := rfl
@[simp] theorem State.stamp_inReject (line : Nat) (w : DWord) : (s.stamp line w).inReject = s.inReject := rfl
@[simp] theorem State.stamp_allow (line : Nat) (w : DWord) : (s.stamp line w).allow = s.allow := rfl
@[simp] theorem State.stamp_apertures (line : Nat) (w : DWord) : (s.stamp line w).apertures = s.apertures := rfl
@[simp] theorem State.stamp_net (line : Nat) (w : DWord) : (s.stamp line w).net = s.net := rfl
@[simp] theorem State.stamp_netNext (line : Nat) (w : DWord) : (s.stamp line w).netNext = s.netNext := rfl
@[simp] theorem State.stamp_outTs (line : Nat) (w : DWord) : (s.stamp line w).outTs = s.outTs := rfl
@[simp] theorem State.stamp_mem (line : Nat) (w : DWord) : (s.stamp line w).mem = s.mem := rfl
@[simp] theorem State.stamp_poison (line : Nat) (w : DWord) : (s.stamp line w).poison = s.poison := rfl
@[simp] theorem State.stamp_mts (line : Nat) (w : DWord) : (s.stamp line w).mts = s.mts := rfl
@[simp] theorem State.stamp_ownWait (line : Nat) (w : DWord) : (s.stamp line w).ownWait = s.ownWait := rfl
@[simp] theorem State.stamp_rmws (line : Nat) (w : DWord) : (s.stamp line w).rmws = s.rmws := rfl
@[simp] theorem State.stamp_moors (line : Nat) (w : DWord) : (s.stamp line w).moors = s.moors := rfl
@[simp] theorem State.stamp_monitors (line : Nat) (w : DWord) : (s.stamp line w).monitors = s.monitors := rfl
@[simp] theorem State.stamp_msc (line : Nat) (w : DWord) : (s.stamp line w).msc = s.msc := rfl
@[simp] theorem State.stamp_mscClock (line : Nat) (w : DWord) : (s.stamp line w).mscClock = s.mscClock := rfl
@[simp] theorem State.stamp_rowAct (line : Nat) (w : DWord) : (s.stamp line w).rowAct = s.rowAct := rfl
@[simp] theorem State.stamp_tlb (line : Nat) (w : DWord) : (s.stamp line w).tlb = s.tlb := rfl
@[simp] theorem State.stamp_dieMem (line : Nat) (w : DWord) : (s.stamp line w).dieMem = s.dieMem := rfl
@[simp] theorem State.stamp_queues (line : Nat) (w : DWord) : (s.stamp line w).queues = s.queues := rfl
@[simp] theorem State.stamp_ptroots (line : Nat) (w : DWord) : (s.stamp line w).ptroots = s.ptroots := rfl
@[simp] theorem State.stamp_cmd (line : Nat) (w : DWord) : (s.stamp line w).cmd = s.cmd := rfl
@[simp] theorem State.stamp_launches (line : Nat) (w : DWord) : (s.stamp line w).launches = s.launches := rfl
@[simp] theorem State.stamp_dies (line : Nat) (w : DWord) : (s.stamp line w).dies = s.dies := rfl
@[simp] theorem State.stamp_cores (line : Nat) (w : DWord) : (s.stamp line w).cores = s.cores := rfl
@[simp] theorem State.stamp_wlItems (line : Nat) (w : DWord) : (s.stamp line w).wlItems = s.wlItems := rfl
@[simp] theorem State.stamp_wlNext (line : Nat) (w : DWord) : (s.stamp line w).wlNext = s.wlNext := rfl
@[simp] theorem State.stamp_mgmtOut (line : Nat) (w : DWord) : (s.stamp line w).mgmtOut = s.mgmtOut := rfl
@[simp] theorem State.stamp_hostOut (line : Nat) (w : DWord) : (s.stamp line w).hostOut = s.hostOut := rfl
@[simp] theorem State.stamp_peerOut (line : Nat) (w : DWord) : (s.stamp line w).peerOut = s.peerOut := rfl
@[simp] theorem State.stamp_aer (line : Nat) (w : DWord) : (s.stamp line w).aer = s.aer := rfl
@[simp] theorem State.stamp_msix (line : Nat) (w : DWord) : (s.stamp line w).msix = s.msix := rfl
@[simp] theorem State.stamp_cur (line : Nat) (w : DWord) : (s.stamp line w).cur = s.cur := rfl
@[simp] theorem State.stamp_ag (line : Nat) (w : DWord) : (s.stamp line w).ag = s.ag := rfl
@[simp] theorem State.stamp_agenda (line : Nat) (w : DWord) : (s.stamp line w).agenda = s.agenda := rfl
@[simp] theorem State.stamp_delayed (line : Nat) (w : DWord) : (s.stamp line w).delayed = s.delayed := rfl
@[simp] theorem State.stamp_free (line : Nat) (w : DWord) : (s.stamp line w).free = s.free := rfl

end Sys2Proof.Machine
end

