-- ==== Sys2Proof/Laws/Memory.lean ====
section
/-! SUPPORT. What the operations of memory leave of its bytes: those that write none leave every byte, a write at a home
writes the bytes it names and no other, and every one of them keeps the canonical form. -/

namespace Sys2Proof.Machine

/-! ### Folds -/

/-- What every step of a fold keeps, the fold keeps. -/
theorem foldl_keeps {σ α : Type} {P : σ → Prop} {f : σ → α → σ} (h : ∀ s x, P s → P (f s x)) (xs : List α) {s : σ}
    (hs : P s) : P (xs.foldl f s) := by
  induction xs generalizing s with
  | nil => exact hs
  | cons x xs ih => exact ih (h s x hs)

/-- A fold whose steps leave memory leaves memory. -/
theorem foldl_mem {α : Type} {f : State → α → State} (h : ∀ s x, (f s x).mem = s.mem) (xs : List α) (s : State) :
    (xs.foldl f s).mem = s.mem :=
  foldl_keeps (P := fun t => t.mem = s.mem) (fun t x ht => (h t x).trans ht) xs rfl

/-! ### Operations that write no byte -/

variable (s : State)

@[simp] theorem State.putAgent_mem (r : AgentRef) (a : Agent) : (s.putAgent r a).mem = s.mem := by
  cases r <;> simp only [State.putAgent, State.modTeam, State.setTeam, State.modCore] <;> first | rfl | (split <;> rfl)

@[simp] theorem State.modAgent_mem (r : AgentRef) (f : Agent → Agent) : (s.modAgent r f).mem = s.mem := by
  unfold State.modAgent; split <;> simp

@[simp] theorem State.mscAccess_mem (line : Nat) (write : Bool) : (s.mscAccess line write).mem = s.mem := by
  unfold State.mscAccess; dsimp only; rw [apply_ite State.mem]; exact ite_self _

@[simp] theorem State.l2Evict_mem (v : L2Line) : (s.l2Evict v).mem = s.mem := by
  unfold State.l2Evict; dsimp only; split <;> simp

@[simp] theorem State.l2Touch_mem (line : Nat) (hint : Option (BitVec 2)) (write : Bool) :
    (s.l2Touch line hint write).mem = s.mem := by
  simp only [State.l2Touch]
  split
  · rfl
  · simp only [State.mscAccess_mem]
    split
    · rfl
    · split <;> simp

@[simp] theorem State.netCount_mem (pa n : Nat) : (s.netCount pa n).mem = s.mem := rfl

@[simp] theorem State.wakeCond_mem (v w : DWord) (n : Nat) (r : AgentRef) : (s.wakeCond v w n r).mem = s.mem := by
  unfold State.wakeCond
  split
  · split
    · simp [State.raisePts, State.modCore]
    · rfl
  · rfl

@[simp] theorem State.testMonitors_mem (pa n : Nat) : (s.testMonitors pa n).mem = s.mem := by
  unfold State.testMonitors
  refine foldl_mem (fun t m => ?_) _ s
  split
  · dsimp only
    split
    · exact foldl_mem (fun u r => by simp) _ _
    · rfl
  · rfl

@[simp] theorem State.rereadDeps_mem (pa : Nat) : (s.rereadDeps pa).mem = s.mem := by
  unfold State.rereadDeps
  refine foldl_mem (fun t e => ?_) _ s
  split
  · split <;> rfl
  · rfl

@[simp] theorem State.l1Set_mem (c line : Nat) (x : L1Line) : (s.l1Set c line x).mem = s.mem := rfl

@[simp] theorem State.l1Drop_mem (c line : Nat) : (s.l1Drop c line).mem = s.mem := rfl

@[simp] theorem State.reread_mem (pa n : Nat) : (s.reread pa n).mem = s.mem := rfl

@[simp] theorem State.sparing_mem (t : State) (ok : Rmw → Bool) : (s.sparing t ok).mem = t.mem := rfl

@[simp] theorem State.rereadL1_mem (w : Who) (scope : BitVec 2) (c : Nat) (p : Piece) :
    (s.rereadL1 w scope c p).mem = s.mem := rfl

@[simp] theorem State.l1Refresh_mem (c line : Nat) (t : DWord) : (s.l1Refresh c line t).mem = s.mem := by
  unfold State.l1Refresh; split <;> rfl

@[simp] theorem State.l1Update_mem (c : Nat) (p : Piece) (bs : List Byte) : (s.l1Update c p bs).mem = s.mem := by
  unfold State.l1Update; split
  · split <;> rfl
  · rfl

/-! ### Writes -/

/-- A write at a home writes its bytes and no other. -/
@[simp] theorem State.homeWrite_mem (pa : Nat) (bs : List Byte) : (s.homeWrite pa bs).mem = putBytes s.mem pa bs := by
  simp [State.homeWrite]

/-- The byte read at an address after a write at a home. -/
theorem State.byteAt_homeWrite (pa : Nat) (bs : List Byte) (a : Nat) :
    (s.homeWrite pa bs).byteAt a = if pa ≤ a ∧ a < pa + bs.length then bs.getD (a - pa) 0#8 else s.byteAt a := by
  rw [State.byteAt, State.homeWrite_mem]
  exact get_putBytes s.mem pa bs a

/-! ### The canonical form -/

/-- Memory is in its canonical form. -/
abbrev State.memWf (s : State) : Prop := Memory.wf s.mem = true

variable {s : State}

theorem State.memWf_of_eq {t : State} (h : t.mem = s.mem) (hs : s.memWf) : t.memWf := by
  unfold State.memWf at hs ⊢; rw [h]; exact hs

theorem State.pokeBytes_wf (pa : Nat) (bs : List Byte) (h : s.memWf) : (s.pokeBytes pa bs).memWf :=
  Memory.wf_putBytes pa bs h

theorem State.homeWrite_wf (pa : Nat) (bs : List Byte) (h : s.memWf) : (s.homeWrite pa bs).memWf := by
  unfold State.memWf; rw [State.homeWrite_mem]; exact Memory.wf_putBytes pa bs h

theorem State.hostWrite_wf (pa : Nat) (bs : List Byte) (h : s.memWf) : (s.hostWrite pa bs).memWf :=
  State.memWf_of_eq (State.reread_mem _ _ _) (State.pokeBytes_wf pa bs h)

theorem State.writeDst_wf (t : Team) (line : Nat) (ds : List DstByte) (h : s.memWf) : (s.writeDst t line ds).memWf := by
  have h1 : (ds.foldl (fun (s : State) d => s.pokeBytes d.pa [d.value t (s.byteAt d.pa)]) s).memWf :=
    foldl_keeps (fun s d hs => State.pokeBytes_wf _ _ hs) _ h
  simp only [State.writeDst]
  have h2 := State.memWf_of_eq (foldl_mem (f := fun (s : State) (i : Nat) =>
    if (List.range 32).all fun j => ds.any fun d => d.pa == 128 * line + 32 * i + j
    then s.cleanSectors (128 * line + 32 * i) 32 else s) (fun s i => by split <;> rfl) (List.range 4) _) h1
  split
  · exact h2
  · exact State.memWf_of_eq (by simp) h2

theorem State.releaseLine_wf (line : Nat) (h : s.memWf) : (s.releaseLine line).memWf := by
  unfold State.releaseLine
  split
  · exact h
  · rename_i core queue seq _
    have key : ∀ t : State, t.memWf → ((if (t.modL2 line fun l => { l with owner := none }).ownWait.isEmpty then
        t.modL2 line fun l => { l with owner := none } else
        (t.modL2 line fun l => { l with owner := none }).later [.event (.ownershipGrant line)]) : State).memWf := by
      intro t ht
      split
      · exact State.memWf_of_eq (by simp) ht
      · exact State.memWf_of_eq rfl ht
    refine key _ ?_
    split
    · exact h
    · split
      · exact h
      · rename_i o _ _ tm _
        exact State.memWf_of_eq (s := ((s.l2Touch line o.cache true).stamp line (storeTs o.ets (s.l2Line line))).writeDst tm line
            (o.dst.filter fun (d : DstByte) => d.pa / 128 = line)) rfl
          (State.writeDst_wf _ _ _ (State.memWf_of_eq (by simp) h))

theorem State.l1WriteBack_wf (c line : Nat) (h : s.memWf) : (s.l1WriteBack c line).memWf := by
  unfold State.l1WriteBack
  split
  · split
    · refine State.memWf_of_eq (State.l1Set_mem _ _ _ _) ?_
      exact State.homeWrite_wf _ _ (State.memWf_of_eq (State.l2Touch_mem _ _ _ _) (State.releaseLine_wf _ h))
    · exact h
  · exact h

theorem State.l1Clear_wf (c line : Nat) (h : s.memWf) : (s.l1Clear c line).memWf := by
  unfold State.l1Clear; split
  · exact State.memWf_of_eq (State.l1Drop_mem _ _ _) (State.l1WriteBack_wf _ _ h)
  · exact h

theorem State.l1Put_wf (c line : Nat) (x : L1Line) (h : s.memWf) : (s.l1Put c line x).memWf := by
  simp only [State.l1Put]
  refine State.memWf_of_eq (State.l1Set_mem _ _ _ _) ?_
  split
  · exact h
  · exact State.memWf_of_eq (State.l1Drop_mem _ _ _) (State.l1WriteBack_wf _ _ (State.memWf_of_eq rfl h))

theorem State.renew_wf (w : Who) (p : Piece) (hint : Option (BitVec 2)) (h : s.memWf) : (s.renew w p hint).memWf := by
  simp only [State.renew]
  refine State.memWf_of_eq (State.raisePts_mem _ _ _) (State.l1Put_wf _ _ _ ?_)
  refine State.memWf_of_eq (s := ((s.l1Clear (w.l1Core (p.pa / 128)) (p.pa / 128)).releaseLine (p.pa / 128))) ?_
    (State.releaseLine_wf _ (State.l1Clear_wf _ _ h))
  split <;> simp

theorem State.homeLoad_wf (w : Who) (p : Piece) (hint : Option (BitVec 2)) (h : s.memWf) :
    (s.homeLoad w p hint).memWf := by
  simp only [State.homeLoad]
  split <;> exact State.memWf_of_eq (by simp) (State.releaseLine_wf (p.pa / 128) h)

theorem State.l1Fill_wf (w : Who) (p : Piece) (hint : Option (BitVec 2)) (h : s.memWf) : (s.l1Fill w p hint).memWf := by
  simp only [State.l1Fill]
  exact State.l1Put_wf _ _ _ (State.memWf_of_eq
    (s := (s.l1Clear (w.l1Core (p.pa / 128)) (p.pa / 128)).releaseLine (p.pa / 128)) (by simp)
    (State.releaseLine_wf _ (State.l1Clear_wf _ _ h)))

/-- A load keeps the canonical form: it may write back a copy, and no other byte. -/
theorem State.loadLocal_wf (w : Who) (scope : BitVec 2) (hint : Option (BitVec 2)) (p : Piece) (h : s.memWf) :
    (s.loadLocal w scope hint p).1.memWf := by
  unfold State.loadLocal
  split
  · dsimp only; split
    · exact h
    · exact h
  · dsimp only; split
    · exact State.homeLoad_wf _ _ _ h
    · split
      · exact State.renew_wf _ _ _ h
      · exact State.l1Fill_wf _ _ _ h

theorem State.storeHome_wf (w : Who) (p : Piece) (hint : Option (BitVec 2)) (bs : List Byte) (h : s.memWf) :
    (s.storeHome w p hint bs).1.memWf := by
  simp only [State.storeHome]
  have h1 : (((if p.cls = 2 then s.l1Clear (w.l1Core (p.pa / 128)) (p.pa / 128) else s) : State).releaseLine
      (p.pa / 128)).memWf := by
    apply State.releaseLine_wf
    split
    · exact State.l1Clear_wf _ _ h
    · exact h
  by_cases hc : p.cls = 2
  · simp only [hc, if_true] at h1 ⊢
    exact State.memWf_of_eq (State.l1Refresh_mem _ _ _ _)
      (State.homeWrite_wf _ _ (State.memWf_of_eq (by simp) h1))
  · simp only [hc, if_false] at h1 ⊢
    exact State.homeWrite_wf _ _ (State.memWf_of_eq (State.l2Touch_mem _ _ _ _) h1)

theorem State.storeLocal_wf (w : Who) (scope : BitVec 2) (hint : Option (BitVec 2)) (p : Piece) (bs : List Byte)
    (h : s.memWf) : (s.storeLocal w scope hint p bs).1.memWf := by
  simp only [State.storeLocal]
  split
  · have h1 : ((if ((s.l1Line (w.l1Core (p.pa / 128)) (p.pa / 128)).any fun (x : L1Line) => x.cls != 2) = true then s
        else s.l1Fill w p hint) : State).memWf := by
      split
      · exact h
      · exact State.l1Fill_wf _ _ _ h
    split
    · exact State.memWf_of_eq (by rw [State.rereadL1_mem, State.l1Set_mem]) h1
    · exact h1
  · have h1 := State.storeHome_wf w p hint bs h
    dsimp only
    split
    · exact State.memWf_of_eq (State.sparing_mem _ _ _) h1
    · exact State.memWf_of_eq (by rw [State.rereadL1_mem, State.l1Update_mem, State.sparing_mem]) h1

/-! ### Translation -/

theorem State.markPte_wf (addr : Nat) (e : DWord) (write : Bool) (h : s.memWf) : (s.markPte addr e write).1.memWf := by
  simp only [State.markPte]
  by_cases hw : (e ||| if write then 0x300#64 else 0x100#64) = e
  · rw [if_pos hw]; exact h
  · rw [if_neg hw]; dsimp only
    split
    · exact State.homeWrite_wf _ _ (State.memWf_of_eq (by simp) (State.releaseLine_wf (addr / 128) h))
    · exact State.hostWrite_wf _ _ h

/-- A walk that succeeds keeps the canonical form. -/
theorem State.translateWalk_wf {asid va : Nat} {need : Need} {t : State} {m : Mapped} (h : s.memWf)
    (ht : s.translateWalk asid need va = some (t, m)) : t.memWf := by
  simp only [State.translateWalk] at ht
  split at ht
  · cases ht
  · split at ht
    · cases ht
    · split at ht
      · cases ht
      · rename_i addr e level _ _
        cases ht
        exact State.memWf_of_eq rfl (State.markPte_wf addr e need.writes h)

theorem State.translate_wf {asid va : Nat} {need : Need} {t : State} {m : Mapped} (h : s.memWf)
    (ht : s.translate asid need va = some (t, m)) : t.memWf := by
  simp only [State.translate] at ht
  split at ht
  · split at ht
    · cases ht; exact h
    · exact State.translateWalk_wf h ht
  · exact State.translateWalk_wf h ht

theorem State.pieces_wf (asid : Nat) (need : Need) (fuel : Nat) : ∀ (s : State) (va n : Nat), s.memWf →
    (s.pieces asid need fuel va n).1.memWf := by
  induction fuel with
  | zero => intro s va n h; exact h
  | succ fuel ih =>
    intro s va n h
    simp only [State.pieces]
    split
    · exact h
    · split
      · exact h
      · rename_i t m ht
        have h2 := ih t (va + pieceLen 32 va n) (n - pieceLen 32 va n) (State.translate_wf h ht)
        split
        · rename_i u a hu; rw [hu] at h2; exact h2
        · rename_i u ps hu; rw [hu] at h2; exact h2

/-! ### Accesses of a thread -/

theorem State.readied_wf (w : Who) (scope : BitVec 2) (p : Piece) (h : s.memWf) : (s.readied w scope p).memWf := by
  simp only [State.readied]
  split
  · exact h
  · apply State.releaseLine_wf
    split
    · exact State.l1Clear_wf _ _ h
    · exact h

theorem State.ready_wf (w : Who) (scope : BitVec 2) (ps : List Piece) (h : s.memWf) : (s.ready w scope ps).memWf :=
  foldl_keeps (fun _ p hs => State.readied_wf w scope p hs) ps h

theorem State.loadPiece_wf (w : Who) (scope : BitVec 2) (hint : Option (BitVec 2)) (p : Piece) (answer : List Byte)
    (h : s.memWf) : (s.loadPiece w scope hint p answer).1.memWf := by
  unfold State.loadPiece
  split
  · exact State.loadLocal_wf w scope hint p h
  · exact State.memWf_of_eq (State.raisePts_mem _ _ _) h
  · exact State.memWf_of_eq (State.raisePts_mem _ _ _) h

theorem State.loadPieces_wf (w : Who) (scope : BitVec 2) (hint : Option (BitVec 2)) (ps : List Piece) :
    ∀ (s : State) (answers : List Byte), s.memWf → (s.loadPieces w scope hint ps answers).1.memWf := by
  induction ps with
  | nil => intro s _ h; exact h
  | cons p ps ih =>
    intro s answers h
    unfold State.loadPieces
    exact ih _ _ (State.loadPiece_wf w scope hint p _ h)

/-! ### Accesses of the device -/

theorem State.deviceLoad_wf (pa n : Nat) (h : s.memWf) : (s.deviceLoad pa n).1.memWf := by
  simp only [State.deviceLoad]
  split
  · exact State.memWf_of_eq (by simp) (State.releaseLine_wf (pa / 128) h)
  · exact h

theorem State.deviceStoreAt_wf (t : DWord) (pa : Nat) (bs : List Byte) (h : s.memWf) : (s.deviceStoreAt t pa bs).memWf := by
  simp only [State.deviceStoreAt]
  split
  · exact State.homeWrite_wf _ _ (State.memWf_of_eq (by simp) (State.releaseLine_wf (pa / 128) h))
  · exact State.memWf_of_eq rfl (State.hostWrite_wf pa bs h)

theorem State.deviceStore_wf (pa : Nat) (bs : List Byte) (h : s.memWf) : (s.deviceStore pa bs).memWf :=
  State.deviceStoreAt_wf _ _ _ h

theorem State.unitWrite_wf (t : DWord) (pa : Nat) (bs : List Byte) (h : s.memWf) : (s.unitWrite t pa bs).memWf :=
  State.deviceStoreAt_wf _ _ _ h

/-- The machine after reset lists no byte of memory. -/
theorem State.reset_memWf : State.reset.memWf := by decide

end Sys2Proof.Machine
end

