-- ==== Sys2Proof/Laws/PerInstr.lean ====
section
/-! SUPPORT. Decoding gives back what encoding wrote, one instruction at a time. -/

namespace Sys2Proof.Laws

/-! ### Fields of a word laid out from its parts -/

theorem bits_low {n m : Nat} (x : BitVec n) (y : BitVec m) (lo len : Nat) (h : lo + len ≤ m) :
    bits (x ++ y) lo len = bits y lo len := by
  ext i hi
  simp [BitVec.getLsbD_append, show lo + i < m by omega]

theorem bits_high {n m : Nat} (x : BitVec n) (y : BitVec m) (lo len : Nat) (h : m ≤ lo) :
    bits (x ++ y) lo len = bits x (lo - m) len := by
  ext i hi
  simp [BitVec.getLsbD_append, show ¬ lo + i < m by omega]
  congr 1; omega

theorem bits_whole {n : Nat} (x : BitVec n) : bits x 0 n = x := by
  ext i hi
  simp

theorem bits_split (w : Word) (lo n m : Nat) : bits w lo (n + m) = bits w (lo + m) n ++ bits w lo m := by
  ext i hi
  simp only [BitVec.getElem_extractLsb', BitVec.getElem_append]
  split <;> rename_i h
  · rfl
  · congr 1; omega

theorem bits_of_low (w : Word) (n m : Nat) (h : m ≤ n) : bits (bits w 0 n) 0 m = bits w 0 m := by
  ext i hi
  simp [show i < n by omega]

theorem join_two (s : BitVec 2) : s.extractLsb' 1 1 ++ s.extractLsb' 0 1 = s := by revert s; decide

theorem join_twelve (n : BitVec 12) : n.extractLsb' 8 4 ++ n.extractLsb' 0 8 = n := by
  ext i hi
  simp only [BitVec.getElem_append, BitVec.getElem_extractLsb']
  split <;> rename_i h
  · simp [hi]
  · simp [show 8 + (i - 8) = i by omega, hi]

theorem zero_of_append {p : BitVec 3} {s : BitVec 1} : 0#4 = p ++ s → p = 0#3 ∧ s = 0#1 := by revert p s; decide

theorem bv1_cases : ∀ p : BitVec 1, p = 0#1 ∨ p = 1#1 := by decide

theorem bv2_cases : ∀ p : BitVec 2, p = 0#2 ∨ p = 1#2 ∨ p = 2#2 ∨ p = 3#2 := by decide

theorem bv3_cases : ∀ p : BitVec 3, p = 0#3 ∨ p = 1#3 ∨ p = 2#3 ∨ p = 3#3 ∨ p = 4#3 ∨ p = 5#3 ∨ p = 6#3 ∨ p = 7#3 := by
  decide

theorem bv3_small : ∀ p : BitVec 3, p.toNat ≤ 4 → p = 0#3 ∨ p = 1#3 ∨ p = 2#3 ∨ p = 3#3 ∨ p = 4#3 := by decide

theorem fields_7_8_8_8_1 (x0 : BitVec 7) (x1 : BitVec 8) (x2 : BitVec 8) (x3 : BitVec 8) (x4 : BitVec 1) {w : Word}
    (h : w = x0 ++ x1 ++ x2 ++ x3 ++ x4) :
    bits w 25 7 = x0 ∧ bits w 17 8 = x1 ∧ bits w 9 8 = x2 ∧ bits w 1 8 = x3 ∧ bits w 0 1 = x4 := by
  subst h
  refine ⟨?_, ?_, ?_, ?_, ?_⟩ <;> simp (disch := decide) only [bits_high, bits_low, bits_whole] <;> exact bits_whole _

theorem fields_7_8_8_9 (x0 : BitVec 7) (x1 : BitVec 8) (x2 : BitVec 8) (x3 : BitVec 9) {w : Word}
    (h : w = x0 ++ x1 ++ x2 ++ x3) :
    bits w 25 7 = x0 ∧ bits w 17 8 = x1 ∧ bits w 9 8 = x2 ∧ bits w 0 9 = x3 := by
  subst h
  refine ⟨?_, ?_, ?_, ?_⟩ <;> simp (disch := decide) only [bits_high, bits_low, bits_whole] <;> exact bits_whole _

theorem fields_7_8_8_5_4 (x0 : BitVec 7) (x1 : BitVec 8) (x2 : BitVec 8) (x3 : BitVec 5) (x4 : BitVec 4) {w : Word}
    (h : w = x0 ++ x1 ++ x2 ++ x3 ++ x4) :
    bits w 25 7 = x0 ∧ bits w 17 8 = x1 ∧ bits w 9 8 = x2 ∧ bits w 4 5 = x3 ∧ bits w 0 4 = x4 := by
  subst h
  refine ⟨?_, ?_, ?_, ?_, ?_⟩ <;> simp (disch := decide) only [bits_high, bits_low, bits_whole] <;> exact bits_whole _

theorem fields_7_7_1_7_1_7_2 (x0 : BitVec 7) (x1 : BitVec 7) (x2 : BitVec 1) (x3 : BitVec 7) (x4 : BitVec 1) (x5 : BitVec 7) (x6 : BitVec 2) {w : Word}
    (h : w = x0 ++ x1 ++ x2 ++ x3 ++ x4 ++ x5 ++ x6) :
    bits w 25 7 = x0 ∧ bits w 18 7 = x1 ∧ bits w 17 1 = x2 ∧ bits w 10 7 = x3 ∧ bits w 9 1 = x4 ∧ bits w 2 7 = x5 ∧ bits w 0 2 = x6 := by
  subst h
  refine ⟨?_, ?_, ?_, ?_, ?_, ?_, ?_⟩ <;> simp (disch := decide) only [bits_high, bits_low, bits_whole] <;> exact bits_whole _

theorem fields_7_7_1_7_1_8_1 (x0 : BitVec 7) (x1 : BitVec 7) (x2 : BitVec 1) (x3 : BitVec 7) (x4 : BitVec 1) (x5 : BitVec 8) (x6 : BitVec 1) {w : Word}
    (h : w = x0 ++ x1 ++ x2 ++ x3 ++ x4 ++ x5 ++ x6) :
    bits w 25 7 = x0 ∧ bits w 18 7 = x1 ∧ bits w 17 1 = x2 ∧ bits w 10 7 = x3 ∧ bits w 9 1 = x4 ∧ bits w 1 8 = x5 ∧ bits w 0 1 = x6 := by
  subst h
  refine ⟨?_, ?_, ?_, ?_, ?_, ?_, ?_⟩ <;> simp (disch := decide) only [bits_high, bits_low, bits_whole] <;> exact bits_whole _

theorem fields_7_7_4_5_9 (x0 : BitVec 7) (x1 : BitVec 7) (x2 : BitVec 4) (x3 : BitVec 5) (x4 : BitVec 9) {w : Word}
    (h : w = x0 ++ x1 ++ x2 ++ x3 ++ x4) :
    bits w 25 7 = x0 ∧ bits w 18 7 = x1 ∧ bits w 14 4 = x2 ∧ bits w 9 5 = x3 ∧ bits w 0 9 = x4 := by
  subst h
  refine ⟨?_, ?_, ?_, ?_, ?_⟩ <;> simp (disch := decide) only [bits_high, bits_low, bits_whole] <;> exact bits_whole _

theorem fields_4_3_8_8_8_1 (x0 : BitVec 4) (x1 : BitVec 3) (x2 : BitVec 8) (x3 : BitVec 8) (x4 : BitVec 8) (x5 : BitVec 1) {w : Word}
    (h : w = x0 ++ x1 ++ x2 ++ x3 ++ x4 ++ x5) :
    bits w 28 4 = x0 ∧ bits w 25 3 = x1 ∧ bits w 17 8 = x2 ∧ bits w 9 8 = x3 ∧ bits w 1 8 = x4 ∧ bits w 0 1 = x5 := by
  subst h
  refine ⟨?_, ?_, ?_, ?_, ?_, ?_⟩ <;> simp (disch := decide) only [bits_high, bits_low, bits_whole] <;> exact bits_whole _

theorem fields_7_2_3_3_8_8_1 (x0 : BitVec 7) (x1 : BitVec 2) (x2 : BitVec 3) (x3 : BitVec 3) (x4 : BitVec 8) (x5 : BitVec 8) (x6 : BitVec 1) {w : Word}
    (h : w = x0 ++ x1 ++ x2 ++ x3 ++ x4 ++ x5 ++ x6) :
    bits w 25 7 = x0 ∧ bits w 23 2 = x1 ∧ bits w 20 3 = x2 ∧ bits w 17 3 = x3 ∧ bits w 9 8 = x4 ∧ bits w 1 8 = x5 ∧ bits w 0 1 = x6 := by
  subst h
  refine ⟨?_, ?_, ?_, ?_, ?_, ?_, ?_⟩ <;> simp (disch := decide) only [bits_high, bits_low, bits_whole] <;> exact bits_whole _

theorem fields_7_2_3_3_8_9 (x0 : BitVec 7) (x1 : BitVec 2) (x2 : BitVec 3) (x3 : BitVec 3) (x4 : BitVec 8) (x5 : BitVec 9) {w : Word}
    (h : w = x0 ++ x1 ++ x2 ++ x3 ++ x4 ++ x5) :
    bits w 25 7 = x0 ∧ bits w 23 2 = x1 ∧ bits w 20 3 = x2 ∧ bits w 17 3 = x3 ∧ bits w 9 8 = x4 ∧ bits w 0 9 = x5 := by
  subst h
  refine ⟨?_, ?_, ?_, ?_, ?_, ?_⟩ <;> simp (disch := decide) only [bits_high, bits_low, bits_whole] <;> exact bits_whole _

theorem fields_7_5_3_4_1_3_4_1_3_1 (x0 : BitVec 7) (x1 : BitVec 5) (x2 : BitVec 3) (x3 : BitVec 4) (x4 : BitVec 1) (x5 : BitVec 3) (x6 : BitVec 4) (x7 : BitVec 1) (x8 : BitVec 3) (x9 : BitVec 1) {w : Word}
    (h : w = x0 ++ x1 ++ x2 ++ x3 ++ x4 ++ x5 ++ x6 ++ x7 ++ x8 ++ x9) :
    bits w 25 7 = x0 ∧ bits w 20 5 = x1 ∧ bits w 17 3 = x2 ∧ bits w 13 4 = x3 ∧ bits w 12 1 = x4 ∧ bits w 9 3 = x5 ∧ bits w 5 4 = x6 ∧ bits w 4 1 = x7 ∧ bits w 1 3 = x8 ∧ bits w 0 1 = x9 := by
  subst h
  refine ⟨?_, ?_, ?_, ?_, ?_, ?_, ?_, ?_, ?_, ?_⟩ <;> simp (disch := decide) only [bits_high, bits_low, bits_whole] <;> exact bits_whole _

theorem fields_7_5_3_4_1_3_9 (x0 : BitVec 7) (x1 : BitVec 5) (x2 : BitVec 3) (x3 : BitVec 4) (x4 : BitVec 1) (x5 : BitVec 3) (x6 : BitVec 9) {w : Word}
    (h : w = x0 ++ x1 ++ x2 ++ x3 ++ x4 ++ x5 ++ x6) :
    bits w 25 7 = x0 ∧ bits w 20 5 = x1 ∧ bits w 17 3 = x2 ∧ bits w 13 4 = x3 ∧ bits w 12 1 = x4 ∧ bits w 9 3 = x5 ∧ bits w 0 9 = x6 := by
  subst h
  refine ⟨?_, ?_, ?_, ?_, ?_, ?_, ?_⟩ <;> simp (disch := decide) only [bits_high, bits_low, bits_whole] <;> exact bits_whole _

theorem fields_7_8_17 (x0 : BitVec 7) (x1 : BitVec 8) (x2 : BitVec 17) {w : Word}
    (h : w = x0 ++ x1 ++ x2) :
    bits w 25 7 = x0 ∧ bits w 17 8 = x1 ∧ bits w 0 17 = x2 := by
  subst h
  refine ⟨?_, ?_, ?_⟩ <;> simp (disch := decide) only [bits_high, bits_low, bits_whole] <;> exact bits_whole _

theorem fields_7_3_1_21 (x0 : BitVec 7) (x1 : BitVec 3) (x2 : BitVec 1) (x3 : BitVec 21) {w : Word}
    (h : w = x0 ++ x1 ++ x2 ++ x3) :
    bits w 25 7 = x0 ∧ bits w 22 3 = x1 ∧ bits w 21 1 = x2 ∧ bits w 0 21 = x3 := by
  subst h
  refine ⟨?_, ?_, ?_, ?_⟩ <;> simp (disch := decide) only [bits_high, bits_low, bits_whole] <;> exact bits_whole _

theorem fields_7_4_21 (x0 : BitVec 7) (x1 : BitVec 4) (x2 : BitVec 21) {w : Word}
    (h : w = x0 ++ x1 ++ x2) :
    bits w 25 7 = x0 ∧ bits w 21 4 = x1 ∧ bits w 0 21 = x2 := by
  subst h
  refine ⟨?_, ?_, ?_⟩ <;> simp (disch := decide) only [bits_high, bits_low, bits_whole] <;> exact bits_whole _

theorem fields_7_5_3_8_5_4 (x0 : BitVec 7) (x1 : BitVec 5) (x2 : BitVec 3) (x3 : BitVec 8) (x4 : BitVec 5) (x5 : BitVec 4) {w : Word}
    (h : w = x0 ++ x1 ++ x2 ++ x3 ++ x4 ++ x5) :
    bits w 25 7 = x0 ∧ bits w 20 5 = x1 ∧ bits w 17 3 = x2 ∧ bits w 9 8 = x3 ∧ bits w 4 5 = x4 ∧ bits w 0 4 = x5 := by
  subst h
  refine ⟨?_, ?_, ?_, ?_, ?_, ?_⟩ <;> simp (disch := decide) only [bits_high, bits_low, bits_whole] <;> exact bits_whole _

theorem fields_7_8_4_1_3_8_1 (x0 : BitVec 7) (x1 : BitVec 8) (x2 : BitVec 4) (x3 : BitVec 1) (x4 : BitVec 3) (x5 : BitVec 8) (x6 : BitVec 1) {w : Word}
    (h : w = x0 ++ x1 ++ x2 ++ x3 ++ x4 ++ x5 ++ x6) :
    bits w 25 7 = x0 ∧ bits w 17 8 = x1 ∧ bits w 13 4 = x2 ∧ bits w 12 1 = x3 ∧ bits w 9 3 = x4 ∧ bits w 1 8 = x5 ∧ bits w 0 1 = x6 := by
  subst h
  refine ⟨?_, ?_, ?_, ?_, ?_, ?_, ?_⟩ <;> simp (disch := decide) only [bits_high, bits_low, bits_whole] <;> exact bits_whole _

theorem fields_7_5_3_4_1_3_8_1 (x0 : BitVec 7) (x1 : BitVec 5) (x2 : BitVec 3) (x3 : BitVec 4) (x4 : BitVec 1) (x5 : BitVec 3) (x6 : BitVec 8) (x7 : BitVec 1) {w : Word}
    (h : w = x0 ++ x1 ++ x2 ++ x3 ++ x4 ++ x5 ++ x6 ++ x7) :
    bits w 25 7 = x0 ∧ bits w 20 5 = x1 ∧ bits w 17 3 = x2 ∧ bits w 13 4 = x3 ∧ bits w 12 1 = x4 ∧ bits w 9 3 = x5 ∧ bits w 1 8 = x6 ∧ bits w 0 1 = x7 := by
  subst h
  refine ⟨?_, ?_, ?_, ?_, ?_, ?_, ?_, ?_⟩ <;> simp (disch := decide) only [bits_high, bits_low, bits_whole] <;> exact bits_whole _

theorem fields_7_5_3_8_8_1 (x0 : BitVec 7) (x1 : BitVec 5) (x2 : BitVec 3) (x3 : BitVec 8) (x4 : BitVec 8) (x5 : BitVec 1) {w : Word}
    (h : w = x0 ++ x1 ++ x2 ++ x3 ++ x4 ++ x5) :
    bits w 25 7 = x0 ∧ bits w 20 5 = x1 ∧ bits w 17 3 = x2 ∧ bits w 9 8 = x3 ∧ bits w 1 8 = x4 ∧ bits w 0 1 = x5 := by
  subst h
  refine ⟨?_, ?_, ?_, ?_, ?_, ?_⟩ <;> simp (disch := decide) only [bits_high, bits_low, bits_whole] <;> exact bits_whole _

theorem fields_7_8_4_4_8_1 (x0 : BitVec 7) (x1 : BitVec 8) (x2 : BitVec 4) (x3 : BitVec 4) (x4 : BitVec 8) (x5 : BitVec 1) {w : Word}
    (h : w = x0 ++ x1 ++ x2 ++ x3 ++ x4 ++ x5) :
    bits w 25 7 = x0 ∧ bits w 17 8 = x1 ∧ bits w 13 4 = x2 ∧ bits w 9 4 = x3 ∧ bits w 1 8 = x4 ∧ bits w 0 1 = x5 := by
  subst h
  refine ⟨?_, ?_, ?_, ?_, ?_, ?_⟩ <;> simp (disch := decide) only [bits_high, bits_low, bits_whole] <;> exact bits_whole _

theorem fields_5_2_8_8_8_1 (x0 : BitVec 5) (x1 : BitVec 2) (x2 : BitVec 8) (x3 : BitVec 8) (x4 : BitVec 8) (x5 : BitVec 1) {w : Word}
    (h : w = x0 ++ x1 ++ x2 ++ x3 ++ x4 ++ x5) :
    bits w 27 5 = x0 ∧ bits w 25 2 = x1 ∧ bits w 17 8 = x2 ∧ bits w 9 8 = x3 ∧ bits w 1 8 = x4 ∧ bits w 0 1 = x5 := by
  subst h
  refine ⟨?_, ?_, ?_, ?_, ?_, ?_⟩ <;> simp (disch := decide) only [bits_high, bits_low, bits_whole] <;> exact bits_whole _

theorem fields_7_2_3_3_7_1_7_2 (x0 : BitVec 7) (x1 : BitVec 2) (x2 : BitVec 3) (x3 : BitVec 3) (x4 : BitVec 7) (x5 : BitVec 1) (x6 : BitVec 7) (x7 : BitVec 2) {w : Word}
    (h : w = x0 ++ x1 ++ x2 ++ x3 ++ x4 ++ x5 ++ x6 ++ x7) :
    bits w 25 7 = x0 ∧ bits w 23 2 = x1 ∧ bits w 20 3 = x2 ∧ bits w 17 3 = x3 ∧ bits w 10 7 = x4 ∧ bits w 9 1 = x5 ∧ bits w 2 7 = x6 ∧ bits w 0 2 = x7 := by
  subst h
  refine ⟨?_, ?_, ?_, ?_, ?_, ?_, ?_, ?_⟩ <;> simp (disch := decide) only [bits_high, bits_low, bits_whole] <;> exact bits_whole _

theorem fields_7_1_1_3_2_1_8_8_1 (x0 : BitVec 7) (x1 : BitVec 1) (x2 : BitVec 1) (x3 : BitVec 3) (x4 : BitVec 2) (x5 : BitVec 1) (x6 : BitVec 8) (x7 : BitVec 8) (x8 : BitVec 1) {w : Word}
    (h : w = x0 ++ x1 ++ x2 ++ x3 ++ x4 ++ x5 ++ x6 ++ x7 ++ x8) :
    bits w 25 7 = x0 ∧ bits w 24 1 = x1 ∧ bits w 23 1 = x2 ∧ bits w 20 3 = x3 ∧ bits w 18 2 = x4 ∧ bits w 17 1 = x5 ∧ bits w 9 8 = x6 ∧ bits w 1 8 = x7 ∧ bits w 0 1 = x8 := by
  subst h
  refine ⟨?_, ?_, ?_, ?_, ?_, ?_, ?_, ?_, ?_⟩ <;> simp (disch := decide) only [bits_high, bits_low, bits_whole] <;> exact bits_whole _

theorem fields_7_8_8_5_1_3 (x0 : BitVec 7) (x1 : BitVec 8) (x2 : BitVec 8) (x3 : BitVec 5) (x4 : BitVec 1) (x5 : BitVec 3) {w : Word}
    (h : w = x0 ++ x1 ++ x2 ++ x3 ++ x4 ++ x5) :
    bits w 25 7 = x0 ∧ bits w 17 8 = x1 ∧ bits w 9 8 = x2 ∧ bits w 4 5 = x3 ∧ bits w 3 1 = x4 ∧ bits w 0 3 = x5 := by
  subst h
  refine ⟨?_, ?_, ?_, ?_, ?_, ?_⟩ <;> simp (disch := decide) only [bits_high, bits_low, bits_whole] <;> exact bits_whole _

theorem fields_7_8_8_5_2_2 (x0 : BitVec 7) (x1 : BitVec 8) (x2 : BitVec 8) (x3 : BitVec 5) (x4 : BitVec 2) (x5 : BitVec 2) {w : Word}
    (h : w = x0 ++ x1 ++ x2 ++ x3 ++ x4 ++ x5) :
    bits w 25 7 = x0 ∧ bits w 17 8 = x1 ∧ bits w 9 8 = x2 ∧ bits w 4 5 = x3 ∧ bits w 2 2 = x4 ∧ bits w 0 2 = x5 := by
  subst h
  refine ⟨?_, ?_, ?_, ?_, ?_, ?_⟩ <;> simp (disch := decide) only [bits_high, bits_low, bits_whole] <;> exact bits_whole _

theorem fields_7_7_1_7_1_5_1_3 (x0 : BitVec 7) (x1 : BitVec 7) (x2 : BitVec 1) (x3 : BitVec 7) (x4 : BitVec 1) (x5 : BitVec 5) (x6 : BitVec 1) (x7 : BitVec 3) {w : Word}
    (h : w = x0 ++ x1 ++ x2 ++ x3 ++ x4 ++ x5 ++ x6 ++ x7) :
    bits w 25 7 = x0 ∧ bits w 18 7 = x1 ∧ bits w 17 1 = x2 ∧ bits w 10 7 = x3 ∧ bits w 9 1 = x4 ∧ bits w 4 5 = x5 ∧ bits w 3 1 = x6 ∧ bits w 0 3 = x7 := by
  subst h
  refine ⟨?_, ?_, ?_, ?_, ?_, ?_, ?_, ?_⟩ <;> simp (disch := decide) only [bits_high, bits_low, bits_whole] <;> exact bits_whole _

theorem fields_4_3_8_8_4_4_1 (x0 : BitVec 4) (x1 : BitVec 3) (x2 : BitVec 8) (x3 : BitVec 8) (x4 : BitVec 4) (x5 : BitVec 4) (x6 : BitVec 1) {w : Word}
    (h : w = x0 ++ x1 ++ x2 ++ x3 ++ x4 ++ x5 ++ x6) :
    bits w 28 4 = x0 ∧ bits w 25 3 = x1 ∧ bits w 17 8 = x2 ∧ bits w 9 8 = x3 ∧ bits w 5 4 = x4 ∧ bits w 1 4 = x5 ∧ bits w 0 1 = x6 := by
  subst h
  refine ⟨?_, ?_, ?_, ?_, ?_, ?_, ?_⟩ <;> simp (disch := decide) only [bits_high, bits_low, bits_whole] <;> exact bits_whole _

theorem fields_7_8_7_1_7_2 (x0 : BitVec 7) (x1 : BitVec 8) (x2 : BitVec 7) (x3 : BitVec 1) (x4 : BitVec 7) (x5 : BitVec 2) {w : Word}
    (h : w = x0 ++ x1 ++ x2 ++ x3 ++ x4 ++ x5) :
    bits w 25 7 = x0 ∧ bits w 17 8 = x1 ∧ bits w 10 7 = x2 ∧ bits w 9 1 = x3 ∧ bits w 2 7 = x4 ∧ bits w 0 2 = x5 := by
  subst h
  refine ⟨?_, ?_, ?_, ?_, ?_, ?_⟩ <;> simp (disch := decide) only [bits_high, bits_low, bits_whole] <;> exact bits_whole _

theorem fields_7_8_8_3_1_1_1_3 (x0 : BitVec 7) (x1 : BitVec 8) (x2 : BitVec 8) (x3 : BitVec 3) (x4 : BitVec 1) (x5 : BitVec 1) (x6 : BitVec 1) (x7 : BitVec 3) {w : Word}
    (h : w = x0 ++ x1 ++ x2 ++ x3 ++ x4 ++ x5 ++ x6 ++ x7) :
    bits w 25 7 = x0 ∧ bits w 17 8 = x1 ∧ bits w 9 8 = x2 ∧ bits w 6 3 = x3 ∧ bits w 5 1 = x4 ∧ bits w 4 1 = x5 ∧ bits w 3 1 = x6 ∧ bits w 0 3 = x7 := by
  subst h
  refine ⟨?_, ?_, ?_, ?_, ?_, ?_, ?_, ?_⟩ <;> simp (disch := decide) only [bits_high, bits_low, bits_whole] <;> exact bits_whole _

theorem fields_7_8_7_1_3_6 (x0 : BitVec 7) (x1 : BitVec 8) (x2 : BitVec 7) (x3 : BitVec 1) (x4 : BitVec 3) (x5 : BitVec 6) {w : Word}
    (h : w = x0 ++ x1 ++ x2 ++ x3 ++ x4 ++ x5) :
    bits w 25 7 = x0 ∧ bits w 17 8 = x1 ∧ bits w 10 7 = x2 ∧ bits w 9 1 = x3 ∧ bits w 6 3 = x4 ∧ bits w 0 6 = x5 := by
  subst h
  refine ⟨?_, ?_, ?_, ?_, ?_, ?_⟩ <;> simp (disch := decide) only [bits_high, bits_low, bits_whole] <;> exact bits_whole _

theorem fields_7_8_7_3_1_6 (x0 : BitVec 7) (x1 : BitVec 8) (x2 : BitVec 7) (x3 : BitVec 3) (x4 : BitVec 1) (x5 : BitVec 6) {w : Word}
    (h : w = x0 ++ x1 ++ x2 ++ x3 ++ x4 ++ x5) :
    bits w 25 7 = x0 ∧ bits w 17 8 = x1 ∧ bits w 10 7 = x2 ∧ bits w 7 3 = x3 ∧ bits w 6 1 = x4 ∧ bits w 0 6 = x5 := by
  subst h
  refine ⟨?_, ?_, ?_, ?_, ?_, ?_⟩ <;> simp (disch := decide) only [bits_high, bits_low, bits_whole] <;> exact bits_whole _

theorem fields_7_8_8_3_6 (x0 : BitVec 7) (x1 : BitVec 8) (x2 : BitVec 8) (x3 : BitVec 3) (x4 : BitVec 6) {w : Word}
    (h : w = x0 ++ x1 ++ x2 ++ x3 ++ x4) :
    bits w 25 7 = x0 ∧ bits w 17 8 = x1 ∧ bits w 9 8 = x2 ∧ bits w 6 3 = x3 ∧ bits w 0 6 = x4 := by
  subst h
  refine ⟨?_, ?_, ?_, ?_, ?_⟩ <;> simp (disch := decide) only [bits_high, bits_low, bits_whole] <;> exact bits_whole _

theorem fields_7_8_8_2_1_6 (x0 : BitVec 7) (x1 : BitVec 8) (x2 : BitVec 8) (x3 : BitVec 2) (x4 : BitVec 1) (x5 : BitVec 6) {w : Word}
    (h : w = x0 ++ x1 ++ x2 ++ x3 ++ x4 ++ x5) :
    bits w 25 7 = x0 ∧ bits w 17 8 = x1 ∧ bits w 9 8 = x2 ∧ bits w 7 2 = x3 ∧ bits w 6 1 = x4 ∧ bits w 0 6 = x5 := by
  subst h
  refine ⟨?_, ?_, ?_, ?_, ?_, ?_⟩ <;> simp (disch := decide) only [bits_high, bits_low, bits_whole] <;> exact bits_whole _

theorem fields_7_8_8_7_2 (x0 : BitVec 7) (x1 : BitVec 8) (x2 : BitVec 8) (x3 : BitVec 7) (x4 : BitVec 2) {w : Word}
    (h : w = x0 ++ x1 ++ x2 ++ x3 ++ x4) :
    bits w 25 7 = x0 ∧ bits w 17 8 = x1 ∧ bits w 9 8 = x2 ∧ bits w 2 7 = x3 ∧ bits w 0 2 = x4 := by
  subst h
  refine ⟨?_, ?_, ?_, ?_, ?_⟩ <;> simp (disch := decide) only [bits_high, bits_low, bits_whole] <;> exact bits_whole _

theorem fields_7_8_7_1_5_4 (x0 : BitVec 7) (x1 : BitVec 8) (x2 : BitVec 7) (x3 : BitVec 1) (x4 : BitVec 5) (x5 : BitVec 4) {w : Word}
    (h : w = x0 ++ x1 ++ x2 ++ x3 ++ x4 ++ x5) :
    bits w 25 7 = x0 ∧ bits w 17 8 = x1 ∧ bits w 10 7 = x2 ∧ bits w 9 1 = x3 ∧ bits w 4 5 = x4 ∧ bits w 0 4 = x5 := by
  subst h
  refine ⟨?_, ?_, ?_, ?_, ?_, ?_⟩ <;> simp (disch := decide) only [bits_high, bits_low, bits_whole] <;> exact bits_whole _

theorem fields_7_8_8_4_2_2_1 (x0 : BitVec 7) (x1 : BitVec 8) (x2 : BitVec 8) (x3 : BitVec 4) (x4 : BitVec 2) (x5 : BitVec 2) (x6 : BitVec 1) {w : Word}
    (h : w = x0 ++ x1 ++ x2 ++ x3 ++ x4 ++ x5 ++ x6) :
    bits w 25 7 = x0 ∧ bits w 17 8 = x1 ∧ bits w 9 8 = x2 ∧ bits w 5 4 = x3 ∧ bits w 3 2 = x4 ∧ bits w 1 2 = x5 ∧ bits w 0 1 = x6 := by
  subst h
  refine ⟨?_, ?_, ?_, ?_, ?_, ?_, ?_⟩ <;> simp (disch := decide) only [bits_high, bits_low, bits_whole] <;> exact bits_whole _

theorem fields_7_8_7_1_4_2_3 (x0 : BitVec 7) (x1 : BitVec 8) (x2 : BitVec 7) (x3 : BitVec 1) (x4 : BitVec 4) (x5 : BitVec 2) (x6 : BitVec 3) {w : Word}
    (h : w = x0 ++ x1 ++ x2 ++ x3 ++ x4 ++ x5 ++ x6) :
    bits w 25 7 = x0 ∧ bits w 17 8 = x1 ∧ bits w 10 7 = x2 ∧ bits w 9 1 = x3 ∧ bits w 5 4 = x4 ∧ bits w 3 2 = x5 ∧ bits w 0 3 = x6 := by
  subst h
  refine ⟨?_, ?_, ?_, ?_, ?_, ?_, ?_⟩ <;> simp (disch := decide) only [bits_high, bits_low, bits_whole] <;> exact bits_whole _

theorem fields_7_8_5_3_9 (x0 : BitVec 7) (x1 : BitVec 8) (x2 : BitVec 5) (x3 : BitVec 3) (x4 : BitVec 9) {w : Word}
    (h : w = x0 ++ x1 ++ x2 ++ x3 ++ x4) :
    bits w 25 7 = x0 ∧ bits w 17 8 = x1 ∧ bits w 12 5 = x2 ∧ bits w 9 3 = x3 ∧ bits w 0 9 = x4 := by
  subst h
  refine ⟨?_, ?_, ?_, ?_, ?_⟩ <;> simp (disch := decide) only [bits_high, bits_low, bits_whole] <;> exact bits_whole _

theorem fields_7_7_1_8_5_1_3 (x0 : BitVec 7) (x1 : BitVec 7) (x2 : BitVec 1) (x3 : BitVec 8) (x4 : BitVec 5) (x5 : BitVec 1) (x6 : BitVec 3) {w : Word}
    (h : w = x0 ++ x1 ++ x2 ++ x3 ++ x4 ++ x5 ++ x6) :
    bits w 25 7 = x0 ∧ bits w 18 7 = x1 ∧ bits w 17 1 = x2 ∧ bits w 9 8 = x3 ∧ bits w 4 5 = x4 ∧ bits w 3 1 = x5 ∧ bits w 0 3 = x6 := by
  subst h
  refine ⟨?_, ?_, ?_, ?_, ?_, ?_, ?_⟩ <;> simp (disch := decide) only [bits_high, bits_low, bits_whole] <;> exact bits_whole _

theorem fields_7_8_7_1_5_1_3 (x0 : BitVec 7) (x1 : BitVec 8) (x2 : BitVec 7) (x3 : BitVec 1) (x4 : BitVec 5) (x5 : BitVec 1) (x6 : BitVec 3) {w : Word}
    (h : w = x0 ++ x1 ++ x2 ++ x3 ++ x4 ++ x5 ++ x6) :
    bits w 25 7 = x0 ∧ bits w 17 8 = x1 ∧ bits w 10 7 = x2 ∧ bits w 9 1 = x3 ∧ bits w 4 5 = x4 ∧ bits w 3 1 = x5 ∧ bits w 0 3 = x6 := by
  subst h
  refine ⟨?_, ?_, ?_, ?_, ?_, ?_, ?_⟩ <;> simp (disch := decide) only [bits_high, bits_low, bits_whole] <;> exact bits_whole _

theorem fields_7_6_2_7_1_5_1_3 (x0 : BitVec 7) (x1 : BitVec 6) (x2 : BitVec 2) (x3 : BitVec 7) (x4 : BitVec 1) (x5 : BitVec 5) (x6 : BitVec 1) (x7 : BitVec 3) {w : Word}
    (h : w = x0 ++ x1 ++ x2 ++ x3 ++ x4 ++ x5 ++ x6 ++ x7) :
    bits w 25 7 = x0 ∧ bits w 19 6 = x1 ∧ bits w 17 2 = x2 ∧ bits w 10 7 = x3 ∧ bits w 9 1 = x4 ∧ bits w 4 5 = x5 ∧ bits w 3 1 = x6 ∧ bits w 0 3 = x7 := by
  subst h
  refine ⟨?_, ?_, ?_, ?_, ?_, ?_, ?_, ?_⟩ <;> simp (disch := decide) only [bits_high, bits_low, bits_whole] <;> exact bits_whole _

theorem fields_7_7_1_7_1_5_4 (x0 : BitVec 7) (x1 : BitVec 7) (x2 : BitVec 1) (x3 : BitVec 7) (x4 : BitVec 1) (x5 : BitVec 5) (x6 : BitVec 4) {w : Word}
    (h : w = x0 ++ x1 ++ x2 ++ x3 ++ x4 ++ x5 ++ x6) :
    bits w 25 7 = x0 ∧ bits w 18 7 = x1 ∧ bits w 17 1 = x2 ∧ bits w 10 7 = x3 ∧ bits w 9 1 = x4 ∧ bits w 4 5 = x5 ∧ bits w 0 4 = x6 := by
  subst h
  refine ⟨?_, ?_, ?_, ?_, ?_, ?_, ?_⟩ <;> simp (disch := decide) only [bits_high, bits_low, bits_whole] <;> exact bits_whole _

theorem fields_7_6_2_7_1_5_4 (x0 : BitVec 7) (x1 : BitVec 6) (x2 : BitVec 2) (x3 : BitVec 7) (x4 : BitVec 1) (x5 : BitVec 5) (x6 : BitVec 4) {w : Word}
    (h : w = x0 ++ x1 ++ x2 ++ x3 ++ x4 ++ x5 ++ x6) :
    bits w 25 7 = x0 ∧ bits w 19 6 = x1 ∧ bits w 17 2 = x2 ∧ bits w 10 7 = x3 ∧ bits w 9 1 = x4 ∧ bits w 4 5 = x5 ∧ bits w 0 4 = x6 := by
  subst h
  refine ⟨?_, ?_, ?_, ?_, ?_, ?_, ?_⟩ <;> simp (disch := decide) only [bits_high, bits_low, bits_whole] <;> exact bits_whole _

theorem fields_7_6_2_7_1_5_3_1 (x0 : BitVec 7) (x1 : BitVec 6) (x2 : BitVec 2) (x3 : BitVec 7) (x4 : BitVec 1) (x5 : BitVec 5) (x6 : BitVec 3) (x7 : BitVec 1) {w : Word}
    (h : w = x0 ++ x1 ++ x2 ++ x3 ++ x4 ++ x5 ++ x6 ++ x7) :
    bits w 25 7 = x0 ∧ bits w 19 6 = x1 ∧ bits w 17 2 = x2 ∧ bits w 10 7 = x3 ∧ bits w 9 1 = x4 ∧ bits w 4 5 = x5 ∧ bits w 1 3 = x6 ∧ bits w 0 1 = x7 := by
  subst h
  refine ⟨?_, ?_, ?_, ?_, ?_, ?_, ?_, ?_⟩ <;> simp (disch := decide) only [bits_high, bits_low, bits_whole] <;> exact bits_whole _

theorem fields_7_6_2_8_5_1_3 (x0 : BitVec 7) (x1 : BitVec 6) (x2 : BitVec 2) (x3 : BitVec 8) (x4 : BitVec 5) (x5 : BitVec 1) (x6 : BitVec 3) {w : Word}
    (h : w = x0 ++ x1 ++ x2 ++ x3 ++ x4 ++ x5 ++ x6) :
    bits w 25 7 = x0 ∧ bits w 19 6 = x1 ∧ bits w 17 2 = x2 ∧ bits w 9 8 = x3 ∧ bits w 4 5 = x4 ∧ bits w 3 1 = x5 ∧ bits w 0 3 = x6 := by
  subst h
  refine ⟨?_, ?_, ?_, ?_, ?_, ?_, ?_⟩ <;> simp (disch := decide) only [bits_high, bits_low, bits_whole] <;> exact bits_whole _

theorem fields_7_4_17_1_3 (x0 : BitVec 7) (x1 : BitVec 4) (x2 : BitVec 17) (x3 : BitVec 1) (x4 : BitVec 3) {w : Word}
    (h : w = x0 ++ x1 ++ x2 ++ x3 ++ x4) :
    bits w 25 7 = x0 ∧ bits w 21 4 = x1 ∧ bits w 4 17 = x2 ∧ bits w 3 1 = x3 ∧ bits w 0 3 = x4 := by
  subst h
  refine ⟨?_, ?_, ?_, ?_, ?_⟩ <;> simp (disch := decide) only [bits_high, bits_low, bits_whole] <;> exact bits_whole _

theorem fields_7_4_13_8 (x0 : BitVec 7) (x1 : BitVec 4) (x2 : BitVec 13) (x3 : BitVec 8) {w : Word}
    (h : w = x0 ++ x1 ++ x2 ++ x3) :
    bits w 25 7 = x0 ∧ bits w 21 4 = x1 ∧ bits w 8 13 = x2 ∧ bits w 0 8 = x3 := by
  subst h
  refine ⟨?_, ?_, ?_, ?_⟩ <;> simp (disch := decide) only [bits_high, bits_low, bits_whole] <;> exact bits_whole _

theorem fields_7_4_19_2 (x0 : BitVec 7) (x1 : BitVec 4) (x2 : BitVec 19) (x3 : BitVec 2) {w : Word}
    (h : w = x0 ++ x1 ++ x2 ++ x3) :
    bits w 25 7 = x0 ∧ bits w 21 4 = x1 ∧ bits w 2 19 = x2 ∧ bits w 0 2 = x3 := by
  subst h
  refine ⟨?_, ?_, ?_, ?_⟩ <;> simp (disch := decide) only [bits_high, bits_low, bits_whole] <;> exact bits_whole _

theorem fields_7_4_17_4 (x0 : BitVec 7) (x1 : BitVec 4) (x2 : BitVec 17) (x3 : BitVec 4) {w : Word}
    (h : w = x0 ++ x1 ++ x2 ++ x3) :
    bits w 25 7 = x0 ∧ bits w 21 4 = x1 ∧ bits w 4 17 = x2 ∧ bits w 0 4 = x3 := by
  subst h
  refine ⟨?_, ?_, ?_, ?_⟩ <;> simp (disch := decide) only [bits_high, bits_low, bits_whole] <;> exact bits_whole _

/-! ### The four parts of the opcode table -/

theorem decode_of_row {w : Word} {i : Instr} (h : decodeRow w = .ok i) (hf : i.wellFormed = true) :
    decode w = .ok i := by
  simp [decode, h, hf]

theorem decode_integer {w : Word} {i : Instr} (h : opcode w < 0x40) (hd : decodeInteger w = .ok i)
    (hf : i.wellFormed = true) : decode w = .ok i :=
  decode_of_row (by simp [decodeRow, h, hd]) hf

theorem decode_float {w : Word} {i : Instr} (h : 0x40 ≤ opcode w ∧ opcode w < 0x60) (hd : decodeFloat w = .ok i)
    (hf : i.wellFormed = true) : decode w = .ok i :=
  decode_of_row (by simp [decodeRow, h.2, hd, Nat.not_lt.2 h.1]) hf

theorem decode_memory {w : Word} {i : Instr} (h : 0x60 ≤ opcode w ∧ opcode w < 0x78) (hd : decodeMemory w = .ok i)
    (hf : i.wellFormed = true) : decode w = .ok i :=
  decode_of_row (by simp [decodeRow, h.2, hd, Nat.not_lt.2 h.1, show ¬ opcode w < 0x40 by omega]) hf

theorem decode_system {w : Word} {i : Instr} (h : 0x78 ≤ opcode w) (hd : decodeSystem w = .ok i)
    (hf : i.wellFormed = true) : decode w = .ok i :=
  decode_of_row (by
    simp [decodeRow, hd, Nat.not_lt.2 h, show ¬ opcode w < 0x40 by omega, show ¬ opcode w < 0x60 by omega]) hf

/-! ### One instruction at a time -/

/-- Decoding the word of a well-formed instruction gives that instruction, every operand at every value. -/
def Encoding.Statement (i : Instr) : Prop :=
  i.hasWord = true → i.wellFormed = true → decode (encode i) = .ok i

theorem Encoding.iadd (d : BitVec 8) (a : BitVec 8) (b : BitVec 8) : Encoding.Statement (.iadd d a b) := by
  intro _ hf
  obtain ⟨e0, e1, e2, e3, e4⟩ := fields_7_8_8_8_1 0x1#7 d a b 0x0#1 (w := encode (.iadd d a b)) rfl
  generalize encode (.iadd d a b) = w at *
  refine decode_integer (by simp only [opcode, e0]; decide) ?_ hf
  delta decodeInteger opcode
  rw [e0, e1, e2, e3, e4]
  rfl

theorem Encoding.iaddi (d : BitVec 8) (a : BitVec 8) (i : BitVec 9) : Encoding.Statement (.iaddi d a i) := by
  intro _ hf
  obtain ⟨e0, e1, e2, e3⟩ := fields_7_8_8_9 0x2#7 d a i (w := encode (.iaddi d a i)) rfl
  generalize encode (.iaddi d a i) = w at *
  refine decode_integer (by simp only [opcode, e0]; decide) ?_ hf
  delta decodeInteger opcode
  rw [e0, e1, e2, e3]
  rfl

theorem Encoding.isub (d : BitVec 8) (a : BitVec 8) (b : BitVec 8) : Encoding.Statement (.isub d a b) := by
  intro _ hf
  obtain ⟨e0, e1, e2, e3, e4⟩ := fields_7_8_8_8_1 0x3#7 d a b 0x0#1 (w := encode (.isub d a b)) rfl
  generalize encode (.isub d a b) = w at *
  refine decode_integer (by simp only [opcode, e0]; decide) ?_ hf
  delta decodeInteger opcode
  rw [e0, e1, e2, e3, e4]
  rfl

theorem Encoding.imul (d : BitVec 8) (a : BitVec 8) (b : BitVec 8) : Encoding.Statement (.imul d a b) := by
  intro _ hf
  obtain ⟨e0, e1, e2, e3, e4⟩ := fields_7_8_8_8_1 0x4#7 d a b 0x0#1 (w := encode (.imul d a b)) rfl
  generalize encode (.imul d a b) = w at *
  refine decode_integer (by simp only [opcode, e0]; decide) ?_ hf
  delta decodeInteger opcode
  rw [e0, e1, e2, e3, e4]
  rfl

theorem Encoding.imulh (d : BitVec 8) (a : BitVec 8) (b : BitVec 8) (m : BitVec 1) : Encoding.Statement (.imulh d a b m) := by
  intro _ hf
  obtain ⟨e0, e1, e2, e3, e4⟩ := fields_7_8_8_8_1 0x5#7 d a b m (w := encode (.imulh d a b m)) rfl
  generalize encode (.imulh d a b m) = w at *
  refine decode_integer (by simp only [opcode, e0]; decide) ?_ hf
  delta decodeInteger opcode
  rw [e0, e1, e2, e3, e4]
  rfl

theorem Encoding.imad (d : BitVec 8) (a : BitVec 8) (b : BitVec 8) : Encoding.Statement (.imad d a b) := by
  intro _ hf
  obtain ⟨e0, e1, e2, e3, e4⟩ := fields_7_8_8_8_1 0x6#7 d a b 0x0#1 (w := encode (.imad d a b)) rfl
  generalize encode (.imad d a b) = w at *
  refine decode_integer (by simp only [opcode, e0]; decide) ?_ hf
  delta decodeInteger opcode
  rw [e0, e1, e2, e3, e4]
  rfl

theorem Encoding.imin (d : BitVec 8) (a : BitVec 8) (b : BitVec 8) (m : BitVec 1) : Encoding.Statement (.imin d a b m) := by
  intro _ hf
  obtain ⟨e0, e1, e2, e3, e4⟩ := fields_7_8_8_8_1 0x7#7 d a b m (w := encode (.imin d a b m)) rfl
  generalize encode (.imin d a b m) = w at *
  refine decode_integer (by simp only [opcode, e0]; decide) ?_ hf
  delta decodeInteger opcode
  rw [e0, e1, e2, e3, e4]
  rfl

theorem Encoding.imax (d : BitVec 8) (a : BitVec 8) (b : BitVec 8) (m : BitVec 1) : Encoding.Statement (.imax d a b m) := by
  intro _ hf
  obtain ⟨e0, e1, e2, e3, e4⟩ := fields_7_8_8_8_1 0x8#7 d a b m (w := encode (.imax d a b m)) rfl
  generalize encode (.imax d a b m) = w at *
  refine decode_integer (by simp only [opcode, e0]; decide) ?_ hf
  delta decodeInteger opcode
  rw [e0, e1, e2, e3, e4]
  rfl

theorem Encoding.iand (d : BitVec 8) (a : BitVec 8) (b : BitVec 8) : Encoding.Statement (.iand d a b) := by
  intro _ hf
  obtain ⟨e0, e1, e2, e3, e4⟩ := fields_7_8_8_8_1 0x9#7 d a b 0x0#1 (w := encode (.iand d a b)) rfl
  generalize encode (.iand d a b) = w at *
  refine decode_integer (by simp only [opcode, e0]; decide) ?_ hf
  delta decodeInteger opcode
  rw [e0, e1, e2, e3, e4]
  rfl

theorem Encoding.iandi (d : BitVec 8) (a : BitVec 8) (i : BitVec 9) : Encoding.Statement (.iandi d a i) := by
  intro _ hf
  obtain ⟨e0, e1, e2, e3⟩ := fields_7_8_8_9 0xa#7 d a i (w := encode (.iandi d a i)) rfl
  generalize encode (.iandi d a i) = w at *
  refine decode_integer (by simp only [opcode, e0]; decide) ?_ hf
  delta decodeInteger opcode
  rw [e0, e1, e2, e3]
  rfl

theorem Encoding.ior (d : BitVec 8) (a : BitVec 8) (b : BitVec 8) : Encoding.Statement (.ior d a b) := by
  intro _ hf
  obtain ⟨e0, e1, e2, e3, e4⟩ := fields_7_8_8_8_1 0xb#7 d a b 0x0#1 (w := encode (.ior d a b)) rfl
  generalize encode (.ior d a b) = w at *
  refine decode_integer (by simp only [opcode, e0]; decide) ?_ hf
  delta decodeInteger opcode
  rw [e0, e1, e2, e3, e4]
  rfl

theorem Encoding.iori (d : BitVec 8) (a : BitVec 8) (i : BitVec 9) : Encoding.Statement (.iori d a i) := by
  intro _ hf
  obtain ⟨e0, e1, e2, e3⟩ := fields_7_8_8_9 0xc#7 d a i (w := encode (.iori d a i)) rfl
  generalize encode (.iori d a i) = w at *
  refine decode_integer (by simp only [opcode, e0]; decide) ?_ hf
  delta decodeInteger opcode
  rw [e0, e1, e2, e3]
  rfl

theorem Encoding.ixor (d : BitVec 8) (a : BitVec 8) (b : BitVec 8) : Encoding.Statement (.ixor d a b) := by
  intro _ hf
  obtain ⟨e0, e1, e2, e3, e4⟩ := fields_7_8_8_8_1 0xd#7 d a b 0x0#1 (w := encode (.ixor d a b)) rfl
  generalize encode (.ixor d a b) = w at *
  refine decode_integer (by simp only [opcode, e0]; decide) ?_ hf
  delta decodeInteger opcode
  rw [e0, e1, e2, e3, e4]
  rfl

theorem Encoding.ixori (d : BitVec 8) (a : BitVec 8) (i : BitVec 9) : Encoding.Statement (.ixori d a i) := by
  intro _ hf
  obtain ⟨e0, e1, e2, e3⟩ := fields_7_8_8_9 0xe#7 d a i (w := encode (.ixori d a i)) rfl
  generalize encode (.ixori d a i) = w at *
  refine decode_integer (by simp only [opcode, e0]; decide) ?_ hf
  delta decodeInteger opcode
  rw [e0, e1, e2, e3]
  rfl

theorem Encoding.ishl (d : BitVec 8) (a : BitVec 8) (b : BitVec 8) : Encoding.Statement (.ishl d a b) := by
  intro _ hf
  obtain ⟨e0, e1, e2, e3, e4⟩ := fields_7_8_8_8_1 0xf#7 d a b 0x0#1 (w := encode (.ishl d a b)) rfl
  generalize encode (.ishl d a b) = w at *
  refine decode_integer (by simp only [opcode, e0]; decide) ?_ hf
  delta decodeInteger opcode
  rw [e0, e1, e2, e3, e4]
  rfl

theorem Encoding.ishli (d : BitVec 8) (a : BitVec 8) (i : BitVec 9) : Encoding.Statement (.ishli d a i) := by
  intro _ hf
  obtain ⟨e0, e1, e2, e3⟩ := fields_7_8_8_9 0x10#7 d a i (w := encode (.ishli d a i)) rfl
  generalize encode (.ishli d a i) = w at *
  refine decode_integer (by simp only [opcode, e0]; decide) ?_ hf
  delta decodeInteger opcode
  rw [e0, e1, e2, e3]
  rfl

theorem Encoding.ishr (d : BitVec 8) (a : BitVec 8) (b : BitVec 8) : Encoding.Statement (.ishr d a b) := by
  intro _ hf
  obtain ⟨e0, e1, e2, e3, e4⟩ := fields_7_8_8_8_1 0x11#7 d a b 0x0#1 (w := encode (.ishr d a b)) rfl
  generalize encode (.ishr d a b) = w at *
  refine decode_integer (by simp only [opcode, e0]; decide) ?_ hf
  delta decodeInteger opcode
  rw [e0, e1, e2, e3, e4]
  rfl

theorem Encoding.ishri (d : BitVec 8) (a : BitVec 8) (i : BitVec 9) : Encoding.Statement (.ishri d a i) := by
  intro _ hf
  obtain ⟨e0, e1, e2, e3⟩ := fields_7_8_8_9 0x12#7 d a i (w := encode (.ishri d a i)) rfl
  generalize encode (.ishri d a i) = w at *
  refine decode_integer (by simp only [opcode, e0]; decide) ?_ hf
  delta decodeInteger opcode
  rw [e0, e1, e2, e3]
  rfl

theorem Encoding.isar (d : BitVec 8) (a : BitVec 8) (b : BitVec 8) : Encoding.Statement (.isar d a b) := by
  intro _ hf
  obtain ⟨e0, e1, e2, e3, e4⟩ := fields_7_8_8_8_1 0x13#7 d a b 0x0#1 (w := encode (.isar d a b)) rfl
  generalize encode (.isar d a b) = w at *
  refine decode_integer (by simp only [opcode, e0]; decide) ?_ hf
  delta decodeInteger opcode
  rw [e0, e1, e2, e3, e4]
  rfl

theorem Encoding.isari (d : BitVec 8) (a : BitVec 8) (i : BitVec 9) : Encoding.Statement (.isari d a i) := by
  intro _ hf
  obtain ⟨e0, e1, e2, e3⟩ := fields_7_8_8_9 0x14#7 d a i (w := encode (.isari d a i)) rfl
  generalize encode (.isari d a i) = w at *
  refine decode_integer (by simp only [opcode, e0]; decide) ?_ hf
  delta decodeInteger opcode
  rw [e0, e1, e2, e3]
  rfl

theorem Encoding.irol (d : BitVec 8) (a : BitVec 8) (b : BitVec 8) : Encoding.Statement (.irol d a b) := by
  intro _ hf
  obtain ⟨e0, e1, e2, e3, e4⟩ := fields_7_8_8_8_1 0x15#7 d a b 0x0#1 (w := encode (.irol d a b)) rfl
  generalize encode (.irol d a b) = w at *
  refine decode_integer (by simp only [opcode, e0]; decide) ?_ hf
  delta decodeInteger opcode
  rw [e0, e1, e2, e3, e4]
  rfl

theorem Encoding.inot (d : BitVec 8) (a : BitVec 8) : Encoding.Statement (.inot d a) := by
  intro _ hf
  obtain ⟨e0, e1, e2, e3, e4⟩ := fields_7_8_8_5_4 0x16#7 d a 0x0#5 0x0#4 (w := encode (.inot d a)) rfl
  generalize encode (.inot d a) = w at *
  refine decode_integer (by simp only [opcode, e0]; decide) ?_ hf
  delta decodeInteger opcode
  rw [e0, e1, e2, e3, e4]
  rfl

theorem Encoding.iabs (d : BitVec 8) (a : BitVec 8) : Encoding.Statement (.iabs d a) := by
  intro _ hf
  obtain ⟨e0, e1, e2, e3, e4⟩ := fields_7_8_8_5_4 0x16#7 d a 0x1#5 0x0#4 (w := encode (.iabs d a)) rfl
  generalize encode (.iabs d a) = w at *
  refine decode_integer (by simp only [opcode, e0]; decide) ?_ hf
  delta decodeInteger opcode
  rw [e0, e1, e2, e3, e4]
  rfl

theorem Encoding.ipopc (d : BitVec 8) (a : BitVec 8) : Encoding.Statement (.ipopc d a) := by
  intro _ hf
  obtain ⟨e0, e1, e2, e3, e4⟩ := fields_7_8_8_5_4 0x16#7 d a 0x2#5 0x0#4 (w := encode (.ipopc d a)) rfl
  generalize encode (.ipopc d a) = w at *
  refine decode_integer (by simp only [opcode, e0]; decide) ?_ hf
  delta decodeInteger opcode
  rw [e0, e1, e2, e3, e4]
  rfl

theorem Encoding.iclz (d : BitVec 8) (a : BitVec 8) : Encoding.Statement (.iclz d a) := by
  intro _ hf
  obtain ⟨e0, e1, e2, e3, e4⟩ := fields_7_8_8_5_4 0x16#7 d a 0x3#5 0x0#4 (w := encode (.iclz d a)) rfl
  generalize encode (.iclz d a) = w at *
  refine decode_integer (by simp only [opcode, e0]; decide) ?_ hf
  delta decodeInteger opcode
  rw [e0, e1, e2, e3, e4]
  rfl

theorem Encoding.ibrev (d : BitVec 8) (a : BitVec 8) : Encoding.Statement (.ibrev d a) := by
  intro _ hf
  obtain ⟨e0, e1, e2, e3, e4⟩ := fields_7_8_8_5_4 0x16#7 d a 0x4#5 0x0#4 (w := encode (.ibrev d a)) rfl
  generalize encode (.ibrev d a) = w at *
  refine decode_integer (by simp only [opcode, e0]; decide) ?_ hf
  delta decodeInteger opcode
  rw [e0, e1, e2, e3, e4]
  rfl

theorem Encoding.ibfx (d : BitVec 8) (a : BitVec 8) (b : BitVec 8) (m : BitVec 1) : Encoding.Statement (.ibfx d a b m) := by
  intro _ hf
  obtain ⟨e0, e1, e2, e3, e4⟩ := fields_7_8_8_8_1 0x17#7 d a b m (w := encode (.ibfx d a b m)) rfl
  generalize encode (.ibfx d a b m) = w at *
  refine decode_integer (by simp only [opcode, e0]; decide) ?_ hf
  delta decodeInteger opcode
  rw [e0, e1, e2, e3, e4]
  rfl

theorem Encoding.ibfi (d : BitVec 8) (a : BitVec 8) (b : BitVec 8) : Encoding.Statement (.ibfi d a b) := by
  intro _ hf
  obtain ⟨e0, e1, e2, e3, e4⟩ := fields_7_8_8_8_1 0x18#7 d a b 0x0#1 (w := encode (.ibfi d a b)) rfl
  generalize encode (.ibfi d a b) = w at *
  refine decode_integer (by simp only [opcode, e0]; decide) ?_ hf
  delta decodeInteger opcode
  rw [e0, e1, e2, e3, e4]
  rfl

theorem Encoding.iadd64 (d : BitVec 7) (a : BitVec 7) (b : BitVec 7) : Encoding.Statement (.iadd64 d a b) := by
  intro _ hf
  obtain ⟨e0, e1, e2, e3, e4, e5, e6⟩ := fields_7_7_1_7_1_7_2 0x19#7 d 0x0#1 a 0x0#1 b 0x0#2 (w := encode (.iadd64 d a b)) rfl
  generalize encode (.iadd64 d a b) = w at *
  refine decode_integer (by simp only [opcode, e0]; decide) ?_ hf
  delta decodeInteger opcode
  rw [e0, e1, e2, e3, e4, e5, e6]
  rfl

theorem Encoding.isub64 (d : BitVec 7) (a : BitVec 7) (b : BitVec 7) : Encoding.Statement (.isub64 d a b) := by
  intro _ hf
  obtain ⟨e0, e1, e2, e3, e4, e5, e6⟩ := fields_7_7_1_7_1_7_2 0x1a#7 d 0x0#1 a 0x0#1 b 0x0#2 (w := encode (.isub64 d a b)) rfl
  generalize encode (.isub64 d a b) = w at *
  refine decode_integer (by simp only [opcode, e0]; decide) ?_ hf
  delta decodeInteger opcode
  rw [e0, e1, e2, e3, e4, e5, e6]
  rfl

theorem Encoding.imul64 (d : BitVec 7) (a : BitVec 7) (b : BitVec 7) : Encoding.Statement (.imul64 d a b) := by
  intro _ hf
  obtain ⟨e0, e1, e2, e3, e4, e5, e6⟩ := fields_7_7_1_7_1_7_2 0x1b#7 d 0x0#1 a 0x0#1 b 0x0#2 (w := encode (.imul64 d a b)) rfl
  generalize encode (.imul64 d a b) = w at *
  refine decode_integer (by simp only [opcode, e0]; decide) ?_ hf
  delta decodeInteger opcode
  rw [e0, e1, e2, e3, e4, e5, e6]
  rfl

theorem Encoding.lea (d : BitVec 7) (s : BitVec 2) (a : BitVec 7) (b : BitVec 8) (m : BitVec 1) : Encoding.Statement (.lea d s a b m) := by
  intro _ hf
  obtain ⟨e0, e1, e2, e3, e4, e5, e6⟩ := fields_7_7_1_7_1_8_1 0x1c#7 d (s.extractLsb' 1 1) a (s.extractLsb' 0 1) b m (w := encode (.lea d s a b m)) rfl
  generalize encode (.lea d s a b m) = w at *
  refine decode_integer (by simp only [opcode, e0]; decide) ?_ hf
  delta decodeInteger opcode
  rw [e0, e1, e2, e3, e4, e5, e6]
  exact congrArg (fun q => Except.ok (Instr.lea d q a b m)) (join_two s)

theorem Encoding.mov (d : BitVec 8) (a : BitVec 8) : Encoding.Statement (.mov d a) := by
  intro _ hf
  obtain ⟨e0, e1, e2, e3⟩ := fields_7_8_8_9 0x1d#7 d a 0x0#9 (w := encode (.mov d a)) rfl
  generalize encode (.mov d a) = w at *
  refine decode_integer (by simp only [opcode, e0]; decide) ?_ hf
  delta decodeInteger opcode
  rw [e0, e1, e2, e3]
  rfl

theorem Encoding.movi (d : BitVec 8) (i : BitVec 9) : Encoding.Statement (.movi d i) := by
  intro _ hf
  obtain ⟨e0, e1, e2, e3⟩ := fields_7_8_8_9 0x1e#7 d 0x0#8 i (w := encode (.movi d i)) rfl
  generalize encode (.movi d i) = w at *
  refine decode_integer (by simp only [opcode, e0]; decide) ?_ hf
  delta decodeInteger opcode
  rw [e0, e1, e2, e3]
  rfl

theorem Encoding.movk (d : BitVec 7) (k : BitVec 5) : Encoding.Statement (.movk d k) := by
  intro _ hf
  obtain ⟨e0, e1, e2, e3, e4⟩ := fields_7_7_4_5_9 0x1f#7 d 0x0#4 k 0x0#9 (w := encode (.movk d k)) rfl
  generalize encode (.movk d k) = w at *
  refine decode_integer (by simp only [opcode, e0]; decide) ?_ hf
  delta decodeInteger opcode
  rw [e0, e1, e2, e3, e4]
  rfl

theorem Encoding.isel (p : BitVec 3) (d : BitVec 8) (a : BitVec 8) (b : BitVec 8) (m : BitVec 1) : Encoding.Statement (.isel p d a b m) := by
  intro _ hf
  obtain ⟨e0, e1, e2, e3, e4, e5⟩ := fields_4_3_8_8_8_1 0x4#4 p d a b m (w := encode (.isel p d a b m)) rfl
  generalize encode (.isel p d a b m) = w at *
  have e : bits w 25 7 = 0x4#4 ++ p := by rw [← e0, ← e1]; exact bits_split w 25 4 3
  rcases bv3_cases p with rfl | rfl | rfl | rfl | rfl | rfl | rfl | rfl <;>
    · refine decode_integer (by simp only [opcode, e]; decide) ?_ hf
      delta decodeInteger opcode
      rw [e, e1, e2, e3, e4, e5]
      rfl

theorem Encoding.icmp (t : BitVec 2) (c : BitVec 3) (p : BitVec 3) (a : BitVec 8) (b : BitVec 8) : Encoding.Statement (.icmp t c p a b) := by
  intro _ hf
  obtain ⟨e0, e1, e2, e3, e4, e5, e6⟩ := fields_7_2_3_3_8_8_1 0x28#7 t c p a b 0x0#1 (w := encode (.icmp t c p a b)) rfl
  generalize encode (.icmp t c p a b) = w at *
  refine decode_integer (by simp only [opcode, e0]; decide) ?_ hf
  delta decodeInteger opcode
  rw [e0, e1, e2, e3, e4, e5, e6]
  rfl

theorem Encoding.icmpi (t : BitVec 2) (c : BitVec 3) (p : BitVec 3) (a : BitVec 8) (i : BitVec 9) : Encoding.Statement (.icmpi t c p a i) := by
  intro _ hf
  obtain ⟨e0, e1, e2, e3, e4, e5⟩ := fields_7_2_3_3_8_9 0x29#7 t c p a i (w := encode (.icmpi t c p a i)) rfl
  generalize encode (.icmpi t c p a i) = w at *
  refine decode_integer (by simp only [opcode, e0]; decide) ?_ hf
  delta decodeInteger opcode
  rw [e0, e1, e2, e3, e4, e5]
  rfl

theorem Encoding.pand (p : BitVec 3) (x : BitVec 1) (q : BitVec 3) (y : BitVec 1) (r : BitVec 3) : Encoding.Statement (.pand p x q y r) := by
  intro _ hf
  obtain ⟨e0, e1, e2, e3, e4, e5, e6, e7, e8, e9⟩ := fields_7_5_3_4_1_3_4_1_3_1 0x2a#7 0x0#5 p 0x0#4 x q 0x0#4 y r 0x0#1 (w := encode (.pand p x q y r)) rfl
  generalize encode (.pand p x q y r) = w at *
  refine decode_integer (by simp only [opcode, e0]; decide) ?_ hf
  delta decodeInteger opcode
  rw [e0, e1, e2, e3, e4, e5, e6, e7, e8, e9]
  rfl

theorem Encoding.por (p : BitVec 3) (x : BitVec 1) (q : BitVec 3) (y : BitVec 1) (r : BitVec 3) : Encoding.Statement (.por p x q y r) := by
  intro _ hf
  obtain ⟨e0, e1, e2, e3, e4, e5, e6, e7, e8, e9⟩ := fields_7_5_3_4_1_3_4_1_3_1 0x2a#7 0x1#5 p 0x0#4 x q 0x0#4 y r 0x0#1 (w := encode (.por p x q y r)) rfl
  generalize encode (.por p x q y r) = w at *
  refine decode_integer (by simp only [opcode, e0]; decide) ?_ hf
  delta decodeInteger opcode
  rw [e0, e1, e2, e3, e4, e5, e6, e7, e8, e9]
  rfl

theorem Encoding.pxor (p : BitVec 3) (x : BitVec 1) (q : BitVec 3) (y : BitVec 1) (r : BitVec 3) : Encoding.Statement (.pxor p x q y r) := by
  intro _ hf
  obtain ⟨e0, e1, e2, e3, e4, e5, e6, e7, e8, e9⟩ := fields_7_5_3_4_1_3_4_1_3_1 0x2a#7 0x2#5 p 0x0#4 x q 0x0#4 y r 0x0#1 (w := encode (.pxor p x q y r)) rfl
  generalize encode (.pxor p x q y r) = w at *
  refine decode_integer (by simp only [opcode, e0]; decide) ?_ hf
  delta decodeInteger opcode
  rw [e0, e1, e2, e3, e4, e5, e6, e7, e8, e9]
  rfl

theorem Encoding.pnot (p : BitVec 3) (x : BitVec 1) (q : BitVec 3) : Encoding.Statement (.pnot p x q) := by
  intro _ hf
  obtain ⟨e0, e1, e2, e3, e4, e5, e6⟩ := fields_7_5_3_4_1_3_9 0x2a#7 0x3#5 p 0x0#4 x q 0x0#9 (w := encode (.pnot p x q)) rfl
  generalize encode (.pnot p x q) = w at *
  refine decode_integer (by simp only [opcode, e0]; decide) ?_ hf
  delta decodeInteger opcode
  rw [e0, e1, e2, e3, e4, e5, e6]
  rfl

theorem Encoding.pget (d : BitVec 8) : Encoding.Statement (.pget d) := by
  intro _ hf
  obtain ⟨e0, e1, e2⟩ := fields_7_8_17 0x2b#7 d 0x0#17 (w := encode (.pget d)) rfl
  generalize encode (.pget d) = w at *
  refine decode_integer (by simp only [opcode, e0]; decide) ?_ hf
  delta decodeInteger opcode
  rw [e0, e1, e2]
  rfl

theorem Encoding.pset (a : BitVec 8) : Encoding.Statement (.pset a) := by
  intro _ hf
  obtain ⟨e0, e1, e2, e3⟩ := fields_7_8_8_9 0x2b#7 0x0#8 a 0x1#9 (w := encode (.pset a)) rfl
  generalize encode (.pset a) = w at *
  refine decode_integer (by simp only [opcode, e0]; decide) ?_ hf
  have hz : bits w 0 17 ≠ 0#17 := fun h => by
    have := bits_of_low w 17 9 (by decide)
    rw [h, e3] at this; exact absurd this (by decide)
  delta decodeInteger opcode
  rw [e0, e1, e2, e3, if_neg hz]
  rfl

theorem Encoding.brp (p : BitVec 3) (s : BitVec 1) (o : BitVec 21) : Encoding.Statement (.brp p s o) := by
  intro _ hf
  obtain ⟨e0, e1, e2, e3⟩ := fields_7_3_1_21 0x30#7 p s o (w := encode (.brp p s o)) rfl
  generalize encode (.brp p s o) = w at *
  refine decode_integer (by simp only [opcode, e0]; decide) ?_ hf
  have hz : bits w 21 4 ≠ 0#4 := fun h => by
    have := bits_split w 21 3 1
    rw [e1, e2] at this; rw [show bits w 21 (3 + 1) = 0#4 from h] at this
    obtain ⟨hp, hs⟩ := zero_of_append this; subst hp hs; exact absurd hf Bool.false_ne_true
  delta decodeInteger opcode
  rw [e0, e1, e2, e3, if_neg hz]
  rfl

theorem Encoding.br (o : BitVec 21) : Encoding.Statement (.br o) := by
  intro _ hf
  obtain ⟨e0, e1, e2⟩ := fields_7_4_21 0x30#7 0x0#4 o (w := encode (.br o)) rfl
  generalize encode (.br o) = w at *
  refine decode_integer (by simp only [opcode, e0]; decide) ?_ hf
  delta decodeInteger opcode
  rw [e0, e1, e2]
  rfl

theorem Encoding.call (o : BitVec 21) : Encoding.Statement (.call o) := by
  intro _ hf
  obtain ⟨e0, e1, e2⟩ := fields_7_4_21 0x31#7 0x0#4 o (w := encode (.call o)) rfl
  generalize encode (.call o) = w at *
  refine decode_integer (by simp only [opcode, e0]; decide) ?_ hf
  delta decodeInteger opcode
  rw [e0, e1, e2]
  rfl

theorem Encoding.brx (a : BitVec 8) : Encoding.Statement (.brx a) := by
  intro _ hf
  obtain ⟨e0, e1, e2, e3, e4⟩ := fields_7_8_8_5_4 0x32#7 0x0#8 a 0x0#5 0x0#4 (w := encode (.brx a)) rfl
  generalize encode (.brx a) = w at *
  refine decode_integer (by simp only [opcode, e0]; decide) ?_ hf
  delta decodeInteger opcode
  rw [e0, e1, e2, e3, e4]
  rfl

theorem Encoding.callx (p : BitVec 3) (a : BitVec 8) : Encoding.Statement (.callx p a) := by
  intro _ hf
  obtain ⟨e0, e1, e2, e3, e4, e5⟩ := fields_7_5_3_8_5_4 0x33#7 0x0#5 p a 0x0#5 0x0#4 (w := encode (.callx p a)) rfl
  generalize encode (.callx p a) = w at *
  refine decode_integer (by simp only [opcode, e0]; decide) ?_ hf
  delta decodeInteger opcode
  rw [e0, e1, e2, e3, e4, e5]
  rfl

theorem Encoding.nop : Encoding.Statement (.nop) := by
  intro _ hf
  obtain ⟨e0, e1, e2, e3, e4⟩ := fields_7_8_8_5_4 0x34#7 0x0#8 0x0#8 0x0#5 0x0#4 (w := encode (.nop)) rfl
  generalize encode (.nop) = w at *
  refine decode_integer (by simp only [opcode, e0]; decide) ?_ hf
  delta decodeInteger opcode
  rw [e0, e1, e2, e3, e4]
  rfl

theorem Encoding.ret : Encoding.Statement (.ret) := by
  intro _ hf
  obtain ⟨e0, e1, e2, e3, e4⟩ := fields_7_8_8_5_4 0x34#7 0x0#8 0x0#8 0x1#5 0x0#4 (w := encode (.ret)) rfl
  generalize encode (.ret) = w at *
  refine decode_integer (by simp only [opcode, e0]; decide) ?_ hf
  delta decodeInteger opcode
  rw [e0, e1, e2, e3, e4]
  rfl

theorem Encoding.exit : Encoding.Statement (.exit) := by
  intro _ hf
  obtain ⟨e0, e1, e2, e3, e4⟩ := fields_7_8_8_5_4 0x34#7 0x0#8 0x0#8 0x2#5 0x0#4 (w := encode (.exit)) rfl
  generalize encode (.exit) = w at *
  refine decode_integer (by simp only [opcode, e0]; decide) ?_ hf
  delta decodeInteger opcode
  rw [e0, e1, e2, e3, e4]
  rfl

theorem Encoding.yield : Encoding.Statement (.yield) := by
  intro _ hf
  obtain ⟨e0, e1, e2, e3, e4⟩ := fields_7_8_8_5_4 0x34#7 0x0#8 0x0#8 0x3#5 0x0#4 (w := encode (.yield)) rfl
  generalize encode (.yield) = w at *
  refine decode_integer (by simp only [opcode, e0]; decide) ?_ hf
  delta decodeInteger opcode
  rw [e0, e1, e2, e3, e4]
  rfl

theorem Encoding.jset (j : BitVec 4) : Encoding.Statement (.jset j) := by
  intro _ hf
  obtain ⟨e0, e1, e2, e3, e4⟩ := fields_7_8_8_5_4 0x35#7 0x0#8 0x0#8 0x0#5 j (w := encode (.jset j)) rfl
  generalize encode (.jset j) = w at *
  refine decode_integer (by simp only [opcode, e0]; decide) ?_ hf
  delta decodeInteger opcode
  rw [e0, e1, e2, e3, e4]
  rfl

theorem Encoding.jclr (j : BitVec 4) : Encoding.Statement (.jclr j) := by
  intro _ hf
  obtain ⟨e0, e1, e2, e3, e4⟩ := fields_7_8_8_5_4 0x35#7 0x0#8 0x0#8 0x1#5 j (w := encode (.jclr j)) rfl
  generalize encode (.jclr j) = w at *
  refine decode_integer (by simp only [opcode, e0]; decide) ?_ hf
  delta decodeInteger opcode
  rw [e0, e1, e2, e3, e4]
  rfl

theorem Encoding.jwait (j : BitVec 4) : Encoding.Statement (.jwait j) := by
  intro _ hf
  obtain ⟨e0, e1, e2, e3, e4⟩ := fields_7_8_8_5_4 0x35#7 0x0#8 0x0#8 0x2#5 j (w := encode (.jwait j)) rfl
  generalize encode (.jwait j) = w at *
  refine decode_integer (by simp only [opcode, e0]; decide) ?_ hf
  delta decodeInteger opcode
  rw [e0, e1, e2, e3, e4]
  rfl

theorem Encoding.jdrop (j : BitVec 4) : Encoding.Statement (.jdrop j) := by
  intro _ hf
  obtain ⟨e0, e1, e2, e3, e4⟩ := fields_7_8_8_5_4 0x35#7 0x0#8 0x0#8 0x3#5 j (w := encode (.jdrop j)) rfl
  generalize encode (.jdrop j) = w at *
  refine decode_integer (by simp only [opcode, e0]; decide) ?_ hf
  delta decodeInteger opcode
  rw [e0, e1, e2, e3, e4]
  rfl

theorem Encoding.jmask (d : BitVec 8) (j : BitVec 4) : Encoding.Statement (.jmask d j) := by
  intro _ hf
  obtain ⟨e0, e1, e2, e3, e4⟩ := fields_7_8_8_5_4 0x35#7 d 0x0#8 0x4#5 j (w := encode (.jmask d j)) rfl
  generalize encode (.jmask d j) = w at *
  refine decode_integer (by simp only [opcode, e0]; decide) ?_ hf
  delta decodeInteger opcode
  rw [e0, e1, e2, e3, e4]
  rfl

theorem Encoding.vshfl (d : BitVec 8) (a : BitVec 8) (b : BitVec 8) (m : BitVec 1) : Encoding.Statement (.vshfl d a b m) := by
  intro _ hf
  obtain ⟨e0, e1, e2, e3, e4⟩ := fields_7_8_8_8_1 0x36#7 d a b m (w := encode (.vshfl d a b m)) rfl
  generalize encode (.vshfl d a b m) = w at *
  refine decode_integer (by simp only [opcode, e0]; decide) ?_ hf
  delta decodeInteger opcode
  rw [e0, e1, e2, e3, e4]
  rfl

theorem Encoding.vbal (d : BitVec 8) (x : BitVec 1) (p : BitVec 3) (b : BitVec 8) : Encoding.Statement (.vbal d x p b) := by
  intro _ hf
  obtain ⟨e0, e1, e2, e3, e4, e5, e6⟩ := fields_7_8_4_1_3_8_1 0x37#7 d 0x0#4 x p b 0x0#1 (w := encode (.vbal d x p b)) rfl
  generalize encode (.vbal d x p b) = w at *
  refine decode_integer (by simp only [opcode, e0]; decide) ?_ hf
  delta decodeInteger opcode
  rw [e0, e1, e2, e3, e4, e5, e6]
  rfl

theorem Encoding.vvote (q : BitVec 3) (x : BitVec 1) (p : BitVec 3) (b : BitVec 8) (m : BitVec 1) : Encoding.Statement (.vvote q x p b m) := by
  intro _ hf
  obtain ⟨e0, e1, e2, e3, e4, e5, e6, e7⟩ := fields_7_5_3_4_1_3_8_1 0x38#7 0x0#5 q 0x0#4 x p b m (w := encode (.vvote q x p b m)) rfl
  generalize encode (.vvote q x p b m) = w at *
  refine decode_integer (by simp only [opcode, e0]; decide) ?_ hf
  delta decodeInteger opcode
  rw [e0, e1, e2, e3, e4, e5, e6, e7]
  rfl

theorem Encoding.vmatch (d : BitVec 8) (a : BitVec 8) (b : BitVec 8) (m : BitVec 1) : Encoding.Statement (.vmatch d a b m) := by
  intro _ hf
  obtain ⟨e0, e1, e2, e3, e4⟩ := fields_7_8_8_8_1 0x39#7 d a b m (w := encode (.vmatch d a b m)) rfl
  generalize encode (.vmatch d a b m) = w at *
  refine decode_integer (by simp only [opcode, e0]; decide) ?_ hf
  delta decodeInteger opcode
  rw [e0, e1, e2, e3, e4]
  rfl

theorem Encoding.elect (p : BitVec 3) (b : BitVec 8) : Encoding.Statement (.elect p b) := by
  intro _ hf
  obtain ⟨e0, e1, e2, e3, e4, e5⟩ := fields_7_5_3_8_8_1 0x3a#7 0x0#5 p 0x0#8 b 0x0#1 (w := encode (.elect p b)) rfl
  generalize encode (.elect p b) = w at *
  refine decode_integer (by simp only [opcode, e0]; decide) ?_ hf
  delta decodeInteger opcode
  rw [e0, e1, e2, e3, e4, e5]
  rfl

theorem Encoding.vred (d : BitVec 8) (op : BitVec 4) (t : BitVec 4) (b : BitVec 8) : Encoding.Statement (.vred d op t b) := by
  intro _ hf
  obtain ⟨e0, e1, e2, e3, e4, e5⟩ := fields_7_8_4_4_8_1 0x3b#7 d op t b 0x0#1 (w := encode (.vred d op t b)) rfl
  generalize encode (.vred d op t b) = w at *
  refine decode_integer (by simp only [opcode, e0]; decide) ?_ hf
  delta decodeInteger opcode
  rw [e0, e1, e2, e3, e4, e5]
  rfl

theorem Encoding.vscan (d : BitVec 8) (op : BitVec 4) (t : BitVec 4) (b : BitVec 8) : Encoding.Statement (.vscan d op t b) := by
  intro _ hf
  obtain ⟨e0, e1, e2, e3, e4, e5⟩ := fields_7_8_4_4_8_1 0x3b#7 d op t b 0x1#1 (w := encode (.vscan d op t b)) rfl
  generalize encode (.vscan d op t b) = w at *
  refine decode_integer (by simp only [opcode, e0]; decide) ?_ hf
  delta decodeInteger opcode
  rw [e0, e1, e2, e3, e4, e5]
  rfl

theorem Encoding.fadd (r : BitVec 2) (d : BitVec 8) (a : BitVec 8) (b : BitVec 8) : Encoding.Statement (.fadd r d a b) := by
  intro _ hf
  obtain ⟨e0, e1, e2, e3, e4, e5⟩ := fields_5_2_8_8_8_1 0x10#5 r d a b 0x0#1 (w := encode (.fadd r d a b)) rfl
  generalize encode (.fadd r d a b) = w at *
  have e : bits w 25 7 = 0x10#5 ++ r := by rw [← e0, ← e1]; exact bits_split w 25 5 2
  rcases bv2_cases r with rfl | rfl | rfl | rfl <;>
    · refine decode_float (by simp only [opcode, e]; decide) ?_ hf
      delta decodeFloat opcode
      rw [e, e1, e2, e3, e4, e5]
      rfl

theorem Encoding.fsub (r : BitVec 2) (d : BitVec 8) (a : BitVec 8) (b : BitVec 8) : Encoding.Statement (.fsub r d a b) := by
  intro _ hf
  obtain ⟨e0, e1, e2, e3, e4, e5⟩ := fields_5_2_8_8_8_1 0x10#5 r d a b 0x1#1 (w := encode (.fsub r d a b)) rfl
  generalize encode (.fsub r d a b) = w at *
  have e : bits w 25 7 = 0x10#5 ++ r := by rw [← e0, ← e1]; exact bits_split w 25 5 2
  rcases bv2_cases r with rfl | rfl | rfl | rfl <;>
    · refine decode_float (by simp only [opcode, e]; decide) ?_ hf
      delta decodeFloat opcode
      rw [e, e1, e2, e3, e4, e5]
      rfl

theorem Encoding.fdiv (r : BitVec 2) (d : BitVec 8) (a : BitVec 8) (b : BitVec 8) : Encoding.Statement (.fdiv r d a b) := by
  intro _ hf
  obtain ⟨e0, e1, e2, e3, e4, e5⟩ := fields_5_2_8_8_8_1 0x11#5 r d a b 0x0#1 (w := encode (.fdiv r d a b)) rfl
  generalize encode (.fdiv r d a b) = w at *
  have e : bits w 25 7 = 0x11#5 ++ r := by rw [← e0, ← e1]; exact bits_split w 25 5 2
  rcases bv2_cases r with rfl | rfl | rfl | rfl <;>
    · refine decode_float (by simp only [opcode, e]; decide) ?_ hf
      delta decodeFloat opcode
      rw [e, e1, e2, e3, e4, e5]
      rfl

theorem Encoding.ffma (r : BitVec 2) (d : BitVec 8) (a : BitVec 8) (b : BitVec 8) : Encoding.Statement (.ffma r d a b) := by
  intro _ hf
  obtain ⟨e0, e1, e2, e3, e4, e5⟩ := fields_5_2_8_8_8_1 0x12#5 r d a b 0x0#1 (w := encode (.ffma r d a b)) rfl
  generalize encode (.ffma r d a b) = w at *
  have e : bits w 25 7 = 0x12#5 ++ r := by rw [← e0, ← e1]; exact bits_split w 25 5 2
  rcases bv2_cases r with rfl | rfl | rfl | rfl <;>
    · refine decode_float (by simp only [opcode, e]; decide) ?_ hf
      delta decodeFloat opcode
      rw [e, e1, e2, e3, e4, e5]
      rfl

theorem Encoding.fmul (r : BitVec 2) (d : BitVec 8) (a : BitVec 8) (b : BitVec 8) : Encoding.Statement (.fmul r d a b) := by
  intro _ hf
  obtain ⟨e0, e1, e2, e3, e4, e5⟩ := fields_5_2_8_8_8_1 0x12#5 r d a b 0x1#1 (w := encode (.fmul r d a b)) rfl
  generalize encode (.fmul r d a b) = w at *
  have e : bits w 25 7 = 0x12#5 ++ r := by rw [← e0, ← e1]; exact bits_split w 25 5 2
  rcases bv2_cases r with rfl | rfl | rfl | rfl <;>
    · refine decode_float (by simp only [opcode, e]; decide) ?_ hf
      delta decodeFloat opcode
      rw [e, e1, e2, e3, e4, e5]
      rfl

theorem Encoding.fmin (d : BitVec 8) (a : BitVec 8) (b : BitVec 8) : Encoding.Statement (.fmin d a b) := by
  intro _ hf
  obtain ⟨e0, e1, e2, e3, e4⟩ := fields_7_8_8_8_1 0x4c#7 d a b 0x0#1 (w := encode (.fmin d a b)) rfl
  generalize encode (.fmin d a b) = w at *
  refine decode_float (by simp only [opcode, e0]; decide) ?_ hf
  delta decodeFloat opcode
  rw [e0, e1, e2, e3, e4]
  rfl

theorem Encoding.fmax (d : BitVec 8) (a : BitVec 8) (b : BitVec 8) : Encoding.Statement (.fmax d a b) := by
  intro _ hf
  obtain ⟨e0, e1, e2, e3, e4⟩ := fields_7_8_8_8_1 0x4c#7 d a b 0x1#1 (w := encode (.fmax d a b)) rfl
  generalize encode (.fmax d a b) = w at *
  refine decode_float (by simp only [opcode, e0]; decide) ?_ hf
  delta decodeFloat opcode
  rw [e0, e1, e2, e3, e4]
  rfl

theorem Encoding.fcmp (c : BitVec 3) (p : BitVec 3) (a : BitVec 8) (b : BitVec 8) : Encoding.Statement (.fcmp c p a b) := by
  intro _ hf
  obtain ⟨e0, e1, e2, e3, e4, e5, e6⟩ := fields_7_2_3_3_8_8_1 0x4d#7 0x0#2 c p a b 0x0#1 (w := encode (.fcmp c p a b)) rfl
  generalize encode (.fcmp c p a b) = w at *
  refine decode_float (by simp only [opcode, e0]; decide) ?_ hf
  delta decodeFloat opcode
  rw [e0, e1, e2, e3, e4, e5, e6]
  rfl

theorem Encoding.dcmp (c : BitVec 3) (p : BitVec 3) (a : BitVec 7) (b : BitVec 7) : Encoding.Statement (.dcmp c p a b) := by
  intro _ hf
  obtain ⟨e0, e1, e2, e3, e4, e5, e6, e7⟩ := fields_7_2_3_3_7_1_7_2 0x4d#7 0x1#2 c p a 0x0#1 b 0x0#2 (w := encode (.dcmp c p a b)) rfl
  generalize encode (.dcmp c p a b) = w at *
  refine decode_float (by simp only [opcode, e0]; decide) ?_ hf
  delta decodeFloat opcode
  rw [e0, e1, e2, e3, e4, e5, e6, e7]
  rfl

theorem Encoding.hcmp2 (t : BitVec 1) (c : BitVec 3) (p : BitVec 2) (a : BitVec 8) (b : BitVec 8) : Encoding.Statement (.hcmp2 t c p a b) := by
  intro _ hf
  obtain ⟨e0, e1, e2, e3, e4, e5, e6, e7, e8⟩ := fields_7_1_1_3_2_1_8_8_1 0x4d#7 0x1#1 t c p 0x0#1 a b 0x0#1 (w := encode (.hcmp2 t c p a b)) rfl
  generalize encode (.hcmp2 t c p a b) = w at *
  refine decode_float (by simp only [opcode, e0]; decide) ?_ hf
  have h2 : bits w 23 2 = 1#1 ++ t := by rw [← e1, ← e2]; exact bits_split w 23 1 1
  delta decodeFloat opcode
  rw [e0, e1, e2, e3, e4, e5, e6, e7, e8, h2]
  rcases bv1_cases t with rfl | rfl <;> rfl

theorem Encoding.frnd (d : BitVec 8) (a : BitVec 8) (r : BitVec 3) : Encoding.Statement (.frnd d a r) := by
  intro _ hf
  obtain ⟨e0, e1, e2, e3, e4, e5⟩ := fields_7_8_8_5_1_3 0x4e#7 d a 0x0#5 0x0#1 r (w := encode (.frnd d a r)) rfl
  generalize encode (.frnd d a r) = w at *
  refine decode_float (by simp only [opcode, e0]; decide) ?_ hf
  delta decodeFloat opcode
  rw [e0, e1, e2, e3, e4, e5]
  rfl

theorem Encoding.fclass (d : BitVec 8) (a : BitVec 8) : Encoding.Statement (.fclass d a) := by
  intro _ hf
  obtain ⟨e0, e1, e2, e3, e4⟩ := fields_7_8_8_5_4 0x4e#7 d a 0x1#5 0x0#4 (w := encode (.fclass d a)) rfl
  generalize encode (.fclass d a) = w at *
  refine decode_float (by simp only [opcode, e0]; decide) ?_ hf
  delta decodeFloat opcode
  rw [e0, e1, e2, e3, e4]
  rfl

theorem Encoding.frcp (d : BitVec 8) (a : BitVec 8) : Encoding.Statement (.frcp d a) := by
  intro _ hf
  obtain ⟨e0, e1, e2, e3, e4⟩ := fields_7_8_8_5_4 0x4e#7 d a 0x2#5 0x0#4 (w := encode (.frcp d a)) rfl
  generalize encode (.frcp d a) = w at *
  refine decode_float (by simp only [opcode, e0]; decide) ?_ hf
  delta decodeFloat opcode
  rw [e0, e1, e2, e3, e4]
  rfl

theorem Encoding.fsqrt (d : BitVec 8) (a : BitVec 8) (r : BitVec 3) : Encoding.Statement (.fsqrt d a r) := by
  intro _ hf
  obtain ⟨e0, e1, e2, e3, e4, e5⟩ := fields_7_8_8_5_1_3 0x4e#7 d a 0x3#5 0x0#1 r (w := encode (.fsqrt d a r)) rfl
  generalize encode (.fsqrt d a r) = w at *
  refine decode_float (by simp only [opcode, e0]; decide) ?_ hf
  delta decodeFloat opcode
  rw [e0, e1, e2, e3, e4, e5]
  rfl

theorem Encoding.frsq (d : BitVec 8) (a : BitVec 8) : Encoding.Statement (.frsq d a) := by
  intro _ hf
  obtain ⟨e0, e1, e2, e3, e4⟩ := fields_7_8_8_5_4 0x4e#7 d a 0x4#5 0x0#4 (w := encode (.frsq d a)) rfl
  generalize encode (.frsq d a) = w at *
  refine decode_float (by simp only [opcode, e0]; decide) ?_ hf
  delta decodeFloat opcode
  rw [e0, e1, e2, e3, e4]
  rfl

theorem Encoding.fexp2 (d : BitVec 8) (a : BitVec 8) : Encoding.Statement (.fexp2 d a) := by
  intro _ hf
  obtain ⟨e0, e1, e2, e3, e4⟩ := fields_7_8_8_5_4 0x4e#7 d a 0x5#5 0x0#4 (w := encode (.fexp2 d a)) rfl
  generalize encode (.fexp2 d a) = w at *
  refine decode_float (by simp only [opcode, e0]; decide) ?_ hf
  delta decodeFloat opcode
  rw [e0, e1, e2, e3, e4]
  rfl

theorem Encoding.flog2 (d : BitVec 8) (a : BitVec 8) : Encoding.Statement (.flog2 d a) := by
  intro _ hf
  obtain ⟨e0, e1, e2, e3, e4⟩ := fields_7_8_8_5_4 0x4e#7 d a 0x6#5 0x0#4 (w := encode (.flog2 d a)) rfl
  generalize encode (.flog2 d a) = w at *
  refine decode_float (by simp only [opcode, e0]; decide) ?_ hf
  delta decodeFloat opcode
  rw [e0, e1, e2, e3, e4]
  rfl

theorem Encoding.fmovm (d : BitVec 8) (a : BitVec 8) (t : BitVec 2) (o : BitVec 2) : Encoding.Statement (.fmovm d a t o) := by
  intro _ hf
  obtain ⟨e0, e1, e2, e3, e4, e5⟩ := fields_7_8_8_5_2_2 0x4e#7 d a 0x7#5 t o (w := encode (.fmovm d a t o)) rfl
  generalize encode (.fmovm d a t o) = w at *
  refine decode_float (by simp only [opcode, e0]; decide) ?_ hf
  delta decodeFloat opcode
  rw [e0, e1, e2, e3, e4, e5]
  rfl

theorem Encoding.dsqrt (d : BitVec 7) (a : BitVec 7) (r : BitVec 3) : Encoding.Statement (.dsqrt d a r) := by
  intro _ hf
  obtain ⟨e0, e1, e2, e3, e4, e5, e6, e7⟩ := fields_7_7_1_7_1_5_1_3 0x4e#7 d 0x0#1 a 0x0#1 0x8#5 0x0#1 r (w := encode (.dsqrt d a r)) rfl
  generalize encode (.dsqrt d a r) = w at *
  refine decode_float (by simp only [opcode, e0]; decide) ?_ hf
  delta decodeFloat opcode
  rw [e0, e1, e2, e3, e4, e5, e6, e7]
  rfl

theorem Encoding.drnd (d : BitVec 7) (a : BitVec 7) (r : BitVec 3) : Encoding.Statement (.drnd d a r) := by
  intro _ hf
  obtain ⟨e0, e1, e2, e3, e4, e5, e6, e7⟩ := fields_7_7_1_7_1_5_1_3 0x4e#7 d 0x0#1 a 0x0#1 0x9#5 0x0#1 r (w := encode (.drnd d a r)) rfl
  generalize encode (.drnd d a r) = w at *
  refine decode_float (by simp only [opcode, e0]; decide) ?_ hf
  delta decodeFloat opcode
  rw [e0, e1, e2, e3, e4, e5, e6, e7]
  rfl

theorem Encoding.hadd2 (d : BitVec 8) (a : BitVec 8) (b : BitVec 8) (m : BitVec 1) : Encoding.Statement (.hadd2 d a b m) := by
  intro _ hf
  obtain ⟨e0, e1, e2, e3, e4⟩ := fields_7_8_8_8_1 0x4f#7 d a b m (w := encode (.hadd2 d a b m)) rfl
  generalize encode (.hadd2 d a b m) = w at *
  refine decode_float (by simp only [opcode, e0]; decide) ?_ hf
  delta decodeFloat opcode
  rw [e0, e1, e2, e3, e4]
  rfl

theorem Encoding.hmul2 (d : BitVec 8) (a : BitVec 8) (b : BitVec 8) (m : BitVec 1) : Encoding.Statement (.hmul2 d a b m) := by
  intro _ hf
  obtain ⟨e0, e1, e2, e3, e4⟩ := fields_7_8_8_8_1 0x50#7 d a b m (w := encode (.hmul2 d a b m)) rfl
  generalize encode (.hmul2 d a b m) = w at *
  refine decode_float (by simp only [opcode, e0]; decide) ?_ hf
  delta decodeFloat opcode
  rw [e0, e1, e2, e3, e4]
  rfl

theorem Encoding.hfma2 (d : BitVec 8) (a : BitVec 8) (b : BitVec 8) (m : BitVec 1) : Encoding.Statement (.hfma2 d a b m) := by
  intro _ hf
  obtain ⟨e0, e1, e2, e3, e4⟩ := fields_7_8_8_8_1 0x51#7 d a b m (w := encode (.hfma2 d a b m)) rfl
  generalize encode (.hfma2 d a b m) = w at *
  refine decode_float (by simp only [opcode, e0]; decide) ?_ hf
  delta decodeFloat opcode
  rw [e0, e1, e2, e3, e4]
  rfl

theorem Encoding.hmin2 (d : BitVec 8) (a : BitVec 8) (b : BitVec 8) (m : BitVec 1) : Encoding.Statement (.hmin2 d a b m) := by
  intro _ hf
  obtain ⟨e0, e1, e2, e3, e4⟩ := fields_7_8_8_8_1 0x52#7 d a b m (w := encode (.hmin2 d a b m)) rfl
  generalize encode (.hmin2 d a b m) = w at *
  refine decode_float (by simp only [opcode, e0]; decide) ?_ hf
  delta decodeFloat opcode
  rw [e0, e1, e2, e3, e4]
  rfl

theorem Encoding.hmax2 (d : BitVec 8) (a : BitVec 8) (b : BitVec 8) (m : BitVec 1) : Encoding.Statement (.hmax2 d a b m) := by
  intro _ hf
  obtain ⟨e0, e1, e2, e3, e4⟩ := fields_7_8_8_8_1 0x53#7 d a b m (w := encode (.hmax2 d a b m)) rfl
  generalize encode (.hmax2 d a b m) = w at *
  refine decode_float (by simp only [opcode, e0]; decide) ?_ hf
  delta decodeFloat opcode
  rw [e0, e1, e2, e3, e4]
  rfl

theorem Encoding.dadd (d : BitVec 7) (r : BitVec 2) (a : BitVec 7) (b : BitVec 7) : Encoding.Statement (.dadd d r a b) := by
  intro _ hf
  obtain ⟨e0, e1, e2, e3, e4, e5, e6⟩ := fields_7_7_1_7_1_7_2 0x54#7 d (r.extractLsb' 1 1) a (r.extractLsb' 0 1) b 0x0#2 (w := encode (.dadd d r a b)) rfl
  generalize encode (.dadd d r a b) = w at *
  refine decode_float (by simp only [opcode, e0]; decide) ?_ hf
  delta decodeFloat opcode
  rw [e0, e1, e2, e3, e4, e5, e6]
  exact congrArg (fun q => Except.ok (Instr.dadd d q a b)) (join_two r)

theorem Encoding.dsub (d : BitVec 7) (r : BitVec 2) (a : BitVec 7) (b : BitVec 7) : Encoding.Statement (.dsub d r a b) := by
  intro _ hf
  obtain ⟨e0, e1, e2, e3, e4, e5, e6⟩ := fields_7_7_1_7_1_7_2 0x54#7 d (r.extractLsb' 1 1) a (r.extractLsb' 0 1) b 0x1#2 (w := encode (.dsub d r a b)) rfl
  generalize encode (.dsub d r a b) = w at *
  refine decode_float (by simp only [opcode, e0]; decide) ?_ hf
  delta decodeFloat opcode
  rw [e0, e1, e2, e3, e4, e5, e6]
  exact congrArg (fun q => Except.ok (Instr.dsub d q a b)) (join_two r)

theorem Encoding.dmul (d : BitVec 7) (r : BitVec 2) (a : BitVec 7) (b : BitVec 7) : Encoding.Statement (.dmul d r a b) := by
  intro _ hf
  obtain ⟨e0, e1, e2, e3, e4, e5, e6⟩ := fields_7_7_1_7_1_7_2 0x54#7 d (r.extractLsb' 1 1) a (r.extractLsb' 0 1) b 0x2#2 (w := encode (.dmul d r a b)) rfl
  generalize encode (.dmul d r a b) = w at *
  refine decode_float (by simp only [opcode, e0]; decide) ?_ hf
  delta decodeFloat opcode
  rw [e0, e1, e2, e3, e4, e5, e6]
  exact congrArg (fun q => Except.ok (Instr.dmul d q a b)) (join_two r)

theorem Encoding.dfma (d : BitVec 7) (r : BitVec 2) (a : BitVec 7) (b : BitVec 7) : Encoding.Statement (.dfma d r a b) := by
  intro _ hf
  obtain ⟨e0, e1, e2, e3, e4, e5, e6⟩ := fields_7_7_1_7_1_7_2 0x54#7 d (r.extractLsb' 1 1) a (r.extractLsb' 0 1) b 0x3#2 (w := encode (.dfma d r a b)) rfl
  generalize encode (.dfma d r a b) = w at *
  refine decode_float (by simp only [opcode, e0]; decide) ?_ hf
  delta decodeFloat opcode
  rw [e0, e1, e2, e3, e4, e5, e6]
  exact congrArg (fun q => Except.ok (Instr.dfma d q a b)) (join_two r)

theorem Encoding.ddiv (d : BitVec 7) (r : BitVec 2) (a : BitVec 7) (b : BitVec 7) : Encoding.Statement (.ddiv d r a b) := by
  intro _ hf
  obtain ⟨e0, e1, e2, e3, e4, e5, e6⟩ := fields_7_7_1_7_1_7_2 0x55#7 d (r.extractLsb' 1 1) a (r.extractLsb' 0 1) b 0x0#2 (w := encode (.ddiv d r a b)) rfl
  generalize encode (.ddiv d r a b) = w at *
  refine decode_float (by simp only [opcode, e0]; decide) ?_ hf
  delta decodeFloat opcode
  rw [e0, e1, e2, e3, e4, e5, e6]
  exact congrArg (fun q => Except.ok (Instr.ddiv d q a b)) (join_two r)

theorem Encoding.dmin (d : BitVec 7) (a : BitVec 7) (b : BitVec 7) : Encoding.Statement (.dmin d a b) := by
  intro _ hf
  obtain ⟨e0, e1, e2, e3, e4, e5, e6⟩ := fields_7_7_1_7_1_7_2 0x55#7 d 0x0#1 a 0x0#1 b 0x1#2 (w := encode (.dmin d a b)) rfl
  generalize encode (.dmin d a b) = w at *
  refine decode_float (by simp only [opcode, e0]; decide) ?_ hf
  delta decodeFloat opcode
  rw [e0, e1, e2, e3, e4, e5, e6]
  rfl

theorem Encoding.dmax (d : BitVec 7) (a : BitVec 7) (b : BitVec 7) : Encoding.Statement (.dmax d a b) := by
  intro _ hf
  obtain ⟨e0, e1, e2, e3, e4, e5, e6⟩ := fields_7_7_1_7_1_7_2 0x55#7 d 0x0#1 a 0x0#1 b 0x2#2 (w := encode (.dmax d a b)) rfl
  generalize encode (.dmax d a b) = w at *
  refine decode_float (by simp only [opcode, e0]; decide) ?_ hf
  delta decodeFloat opcode
  rw [e0, e1, e2, e3, e4, e5, e6]
  rfl

theorem Encoding.cvt (r : BitVec 3) (d : BitVec 8) (a : BitVec 8) (t : BitVec 4) (s : BitVec 4) : Encoding.Statement (.cvt r d a t s) := by
  intro _ hf
  obtain ⟨e0, e1, e2, e3, e4, e5, e6⟩ := fields_4_3_8_8_4_4_1 0xb#4 r d a t s 0x0#1 (w := encode (.cvt r d a t s)) rfl
  generalize encode (.cvt r d a t s) = w at *
  have e : bits w 25 7 = 0xb#4 ++ r := by rw [← e0, ← e1]; exact bits_split w 25 4 3
  have hr : r.toNat ≤ 4 := by
    simp only [Instr.wellFormed, Bool.and_eq_true, decide_eq_true_eq] at hf; omega
  rcases bv3_small r hr with rfl | rfl | rfl | rfl | rfl <;>
    · refine decode_float (by simp only [opcode, e]; decide) ?_ hf
      delta decodeFloat opcode
      rw [e, e1, e2, e3, e4, e5, e6]
      rfl

theorem Encoding.cvtd (r : BitVec 3) (d : BitVec 8) (a : BitVec 8) (t : BitVec 4) (s : BitVec 4) : Encoding.Statement (.cvtd r d a t s) := by
  intro _ hf
  obtain ⟨e0, e1, e2, e3, e4, e5, e6⟩ := fields_4_3_8_8_4_4_1 0xb#4 r d a t s 0x1#1 (w := encode (.cvtd r d a t s)) rfl
  generalize encode (.cvtd r d a t s) = w at *
  have e : bits w 25 7 = 0xb#4 ++ r := by rw [← e0, ← e1]; exact bits_split w 25 4 3
  have hr : r.toNat ≤ 4 := by
    simp only [Instr.wellFormed, Bool.and_eq_true, decide_eq_true_eq] at hf; omega
  rcases bv3_small r hr with rfl | rfl | rfl | rfl | rfl <;>
    · refine decode_float (by simp only [opcode, e]; decide) ?_ hf
      delta decodeFloat opcode
      rw [e, e1, e2, e3, e4, e5, e6]
      rfl

theorem Encoding.drel (d : BitVec 8) (a : BitVec 7) (b : BitVec 7) : Encoding.Statement (.drel d a b) := by
  intro _ hf
  obtain ⟨e0, e1, e2, e3, e4, e5⟩ := fields_7_8_7_1_7_2 0x5d#7 d a 0x0#1 b 0x0#2 (w := encode (.drel d a b)) rfl
  generalize encode (.drel d a b) = w at *
  refine decode_float (by simp only [opcode, e0]; decide) ?_ hf
  delta decodeFloat opcode
  rw [e0, e1, e2, e3, e4, e5]
  rfl

theorem Encoding.qdxb (d : BitVec 8) (a : BitVec 8) (x : BitVec 1) (f : BitVec 1) (h : BitVec 1) (p : BitVec 3) : Encoding.Statement (.qdxb d a x f h p) := by
  intro _ hf
  obtain ⟨e0, e1, e2, e3, e4, e5, e6, e7⟩ := fields_7_8_8_3_1_1_1_3 0x5e#7 d a 0x0#3 x f h p (w := encode (.qdxb d a x f h p)) rfl
  generalize encode (.qdxb d a x f h p) = w at *
  refine decode_float (by simp only [opcode, e0]; decide) ?_ hf
  delta decodeFloat opcode
  rw [e0, e1, e2, e3, e4, e5, e6, e7]
  rfl

theorem Encoding.dqdxb (d : BitVec 8) (a : BitVec 8) (b : BitVec 8) (m : BitVec 1) : Encoding.Statement (.dqdxb d a b m) := by
  intro _ hf
  obtain ⟨e0, e1, e2, e3, e4⟩ := fields_7_8_8_8_1 0x5f#7 d a b m (w := encode (.dqdxb d a b m)) rfl
  generalize encode (.dqdxb d a b m) = w at *
  refine decode_float (by simp only [opcode, e0]; decide) ?_ hf
  delta decodeFloat opcode
  rw [e0, e1, e2, e3, e4]
  rfl

theorem Encoding.ld (d : BitVec 8) (a : BitVec 7) (z : BitVec 3) (o : BitVec 6) : Encoding.Statement (.ld d a z o) := by
  intro _ hf
  obtain ⟨e0, e1, e2, e3, e4, e5⟩ := fields_7_8_7_1_3_6 0x60#7 d a 0x0#1 z o (w := encode (.ld d a z o)) rfl
  generalize encode (.ld d a z o) = w at *
  refine decode_memory (by simp only [opcode, e0]; decide) ?_ hf
  delta decodeMemory opcode
  rw [e0, e1, e2, e3, e4, e5]
  rfl

theorem Encoding.ldSigned (d : BitVec 8) (a : BitVec 7) (z : BitVec 1) (o : BitVec 6) : Encoding.Statement (.ldSigned d a z o) := by
  intro _ hf
  obtain ⟨e0, e1, e2, e3, e4, e5⟩ := fields_7_8_7_3_1_6 0x61#7 d a 0x0#3 z o (w := encode (.ldSigned d a z o)) rfl
  generalize encode (.ldSigned d a z o) = w at *
  refine decode_memory (by simp only [opcode, e0]; decide) ?_ hf
  delta decodeMemory opcode
  rw [e0, e1, e2, e3, e4, e5]
  rfl

theorem Encoding.st (d : BitVec 8) (a : BitVec 7) (z : BitVec 3) (o : BitVec 6) : Encoding.Statement (.st d a z o) := by
  intro _ hf
  obtain ⟨e0, e1, e2, e3, e4, e5⟩ := fields_7_8_7_1_3_6 0x62#7 d a 0x0#1 z o (w := encode (.st d a z o)) rfl
  generalize encode (.st d a z o) = w at *
  refine decode_memory (by simp only [opcode, e0]; decide) ?_ hf
  delta decodeMemory opcode
  rw [e0, e1, e2, e3, e4, e5]
  rfl

theorem Encoding.ldt (d : BitVec 8) (a : BitVec 8) (z : BitVec 3) (o : BitVec 6) : Encoding.Statement (.ldt d a z o) := by
  intro _ hf
  obtain ⟨e0, e1, e2, e3, e4⟩ := fields_7_8_8_3_6 0x63#7 d a z o (w := encode (.ldt d a z o)) rfl
  generalize encode (.ldt d a z o) = w at *
  refine decode_memory (by simp only [opcode, e0]; decide) ?_ hf
  delta decodeMemory opcode
  rw [e0, e1, e2, e3, e4]
  rfl

theorem Encoding.ldtSigned (d : BitVec 8) (a : BitVec 8) (z : BitVec 1) (o : BitVec 6) : Encoding.Statement (.ldtSigned d a z o) := by
  intro _ hf
  obtain ⟨e0, e1, e2, e3, e4, e5⟩ := fields_7_8_8_2_1_6 0x64#7 d a 0x0#2 z o (w := encode (.ldtSigned d a z o)) rfl
  generalize encode (.ldtSigned d a z o) = w at *
  refine decode_memory (by simp only [opcode, e0]; decide) ?_ hf
  delta decodeMemory opcode
  rw [e0, e1, e2, e3, e4, e5]
  rfl

theorem Encoding.stt (d : BitVec 8) (a : BitVec 8) (z : BitVec 3) (o : BitVec 6) : Encoding.Statement (.stt d a z o) := by
  intro _ hf
  obtain ⟨e0, e1, e2, e3, e4⟩ := fields_7_8_8_3_6 0x65#7 d a z o (w := encode (.stt d a z o)) rfl
  generalize encode (.stt d a z o) = w at *
  refine decode_memory (by simp only [opcode, e0]; decide) ?_ hf
  delta decodeMemory opcode
  rw [e0, e1, e2, e3, e4]
  rfl

theorem Encoding.xld (d : BitVec 8) (a : BitVec 8) (b : BitVec 7) : Encoding.Statement (.xld d a b) := by
  intro _ hf
  obtain ⟨e0, e1, e2, e3, e4⟩ := fields_7_8_8_7_2 0x66#7 d a b 0x0#2 (w := encode (.xld d a b)) rfl
  generalize encode (.xld d a b) = w at *
  refine decode_memory (by simp only [opcode, e0]; decide) ?_ hf
  delta decodeMemory opcode
  rw [e0, e1, e2, e3, e4]
  rfl

theorem Encoding.xst (d : BitVec 8) (a : BitVec 8) (b : BitVec 7) : Encoding.Statement (.xst d a b) := by
  intro _ hf
  obtain ⟨e0, e1, e2, e3, e4⟩ := fields_7_8_8_7_2 0x67#7 d a b 0x0#2 (w := encode (.xst d a b)) rfl
  generalize encode (.xst d a b) = w at *
  refine decode_memory (by simp only [opcode, e0]; decide) ?_ hf
  delta decodeMemory opcode
  rw [e0, e1, e2, e3, e4]
  rfl

theorem Encoding.cflush (a : BitVec 7) : Encoding.Statement (.cflush a) := by
  intro _ hf
  obtain ⟨e0, e1, e2, e3, e4, e5⟩ := fields_7_8_7_1_5_4 0x68#7 0x0#8 a 0x0#1 0x0#5 0x0#4 (w := encode (.cflush a)) rfl
  generalize encode (.cflush a) = w at *
  refine decode_memory (by simp only [opcode, e0]; decide) ?_ hf
  delta decodeMemory opcode
  rw [e0, e1, e2, e3, e4, e5]
  rfl

theorem Encoding.cinv (a : BitVec 7) : Encoding.Statement (.cinv a) := by
  intro _ hf
  obtain ⟨e0, e1, e2, e3, e4, e5⟩ := fields_7_8_7_1_5_4 0x68#7 0x0#8 a 0x0#1 0x1#5 0x0#4 (w := encode (.cinv a)) rfl
  generalize encode (.cinv a) = w at *
  refine decode_memory (by simp only [opcode, e0]; decide) ?_ hf
  delta decodeMemory opcode
  rw [e0, e1, e2, e3, e4, e5]
  rfl

theorem Encoding.atom (d : BitVec 8) (a : BitVec 8) (o : BitVec 4) (z : BitVec 2) (m : BitVec 1) : Encoding.Statement (.atom d a o z m) := by
  intro _ hf
  obtain ⟨e0, e1, e2, e3, e4, e5, e6⟩ := fields_7_8_8_4_2_2_1 0x70#7 d a o z 0x0#2 m (w := encode (.atom d a o z m)) rfl
  generalize encode (.atom d a o z m) = w at *
  refine decode_memory (by simp only [opcode, e0]; decide) ?_ hf
  delta decodeMemory opcode
  rw [e0, e1, e2, e3, e4, e5, e6]
  rfl

theorem Encoding.red (d : BitVec 8) (a : BitVec 8) (o : BitVec 4) (z : BitVec 2) (m : BitVec 1) : Encoding.Statement (.red d a o z m) := by
  intro _ hf
  obtain ⟨e0, e1, e2, e3, e4, e5, e6⟩ := fields_7_8_8_4_2_2_1 0x71#7 d a o z 0x0#2 m (w := encode (.red d a o z m)) rfl
  generalize encode (.red d a o z m) = w at *
  refine decode_memory (by simp only [opcode, e0]; decide) ?_ hf
  delta decodeMemory opcode
  rw [e0, e1, e2, e3, e4, e5, e6]
  rfl

theorem Encoding.atomf (d : BitVec 8) (a : BitVec 8) (o : BitVec 4) (z : BitVec 2) (m : BitVec 1) : Encoding.Statement (.atomf d a o z m) := by
  intro _ hf
  obtain ⟨e0, e1, e2, e3, e4, e5, e6⟩ := fields_7_8_8_4_2_2_1 0x72#7 d a o z 0x0#2 m (w := encode (.atomf d a o z m)) rfl
  generalize encode (.atomf d a o z m) = w at *
  refine decode_memory (by simp only [opcode, e0]; decide) ?_ hf
  delta decodeMemory opcode
  rw [e0, e1, e2, e3, e4, e5, e6]
  rfl

theorem Encoding.redf (d : BitVec 8) (a : BitVec 8) (o : BitVec 4) (z : BitVec 2) (m : BitVec 1) : Encoding.Statement (.redf d a o z m) := by
  intro _ hf
  obtain ⟨e0, e1, e2, e3, e4, e5, e6⟩ := fields_7_8_8_4_2_2_1 0x73#7 d a o z 0x0#2 m (w := encode (.redf d a o z m)) rfl
  generalize encode (.redf d a o z m) = w at *
  refine decode_memory (by simp only [opcode, e0]; decide) ?_ hf
  delta decodeMemory opcode
  rw [e0, e1, e2, e3, e4, e5, e6]
  rfl

theorem Encoding.fence (s : BitVec 2) : Encoding.Statement (.fence s) := by
  intro _ hf
  obtain ⟨e0, e1, e2, e3, e4, e5⟩ := fields_7_8_8_5_2_2 0x74#7 0x0#8 0x0#8 0x0#5 0x0#2 s (w := encode (.fence s)) rfl
  generalize encode (.fence s) = w at *
  refine decode_memory (by simp only [opcode, e0]; decide) ?_ hf
  delta decodeMemory opcode
  rw [e0, e1, e2, e3, e4, e5]
  rfl

theorem Encoding.waitc (d : BitVec 8) (a : BitVec 7) (c : BitVec 4) (z : BitVec 2) : Encoding.Statement (.waitc d a c z) := by
  intro _ hf
  obtain ⟨e0, e1, e2, e3, e4, e5, e6⟩ := fields_7_8_7_1_4_2_3 0x75#7 d a 0x0#1 c z 0x0#3 (w := encode (.waitc d a c z)) rfl
  generalize encode (.waitc d a c z) = w at *
  refine decode_memory (by simp only [opcode, e0]; decide) ?_ hf
  delta decodeMemory opcode
  rw [e0, e1, e2, e3, e4, e5, e6]
  rfl

theorem Encoding.balloc (d : BitVec 8) (p : BitVec 3) (i : BitVec 9) : Encoding.Statement (.balloc d p i) := by
  intro _ hf
  obtain ⟨e0, e1, e2, e3, e4⟩ := fields_7_8_5_3_9 0x77#7 d 0x0#5 p i (w := encode (.balloc d p i)) rfl
  generalize encode (.balloc d p i) = w at *
  refine decode_memory (by simp only [opcode, e0]; decide) ?_ hf
  delta decodeMemory opcode
  rw [e0, e1, e2, e3, e4]
  rfl

theorem Encoding.bref (a : BitVec 8) : Encoding.Statement (.bref a) := by
  intro _ hf
  obtain ⟨e0, e1, e2, e3, e4⟩ := fields_7_8_8_5_4 0x76#7 0x0#8 a 0x0#5 0x0#4 (w := encode (.bref a)) rfl
  generalize encode (.bref a) = w at *
  refine decode_memory (by simp only [opcode, e0]; decide) ?_ hf
  delta decodeMemory opcode
  rw [e0, e1, e2, e3, e4]
  rfl

theorem Encoding.bfree (a : BitVec 8) : Encoding.Statement (.bfree a) := by
  intro _ hf
  obtain ⟨e0, e1, e2, e3, e4⟩ := fields_7_8_8_5_4 0x76#7 0x0#8 a 0x1#5 0x0#4 (w := encode (.bfree a)) rfl
  generalize encode (.bfree a) = w at *
  refine decode_memory (by simp only [opcode, e0]; decide) ?_ hf
  delta decodeMemory opcode
  rw [e0, e1, e2, e3, e4]
  rfl

theorem Encoding.barr (a : BitVec 8) (n : BitVec 4) : Encoding.Statement (.barr a n) := by
  intro _ hf
  obtain ⟨e0, e1, e2, e3, e4⟩ := fields_7_8_8_5_4 0x76#7 0x0#8 a 0x2#5 n (w := encode (.barr a n)) rfl
  generalize encode (.barr a n) = w at *
  refine decode_memory (by simp only [opcode, e0]; decide) ?_ hf
  delta decodeMemory opcode
  rw [e0, e1, e2, e3, e4]
  rfl

theorem Encoding.barrReg (d : BitVec 8) (a : BitVec 8) : Encoding.Statement (.barrReg d a) := by
  intro _ hf
  obtain ⟨e0, e1, e2, e3, e4⟩ := fields_7_8_8_5_4 0x76#7 d a 0x3#5 0x0#4 (w := encode (.barrReg d a)) rfl
  generalize encode (.barrReg d a) = w at *
  refine decode_memory (by simp only [opcode, e0]; decide) ?_ hf
  delta decodeMemory opcode
  rw [e0, e1, e2, e3, e4]
  rfl

theorem Encoding.bexp (d : BitVec 8) (a : BitVec 8) : Encoding.Statement (.bexp d a) := by
  intro _ hf
  obtain ⟨e0, e1, e2, e3, e4⟩ := fields_7_8_8_5_4 0x76#7 d a 0x4#5 0x0#4 (w := encode (.bexp d a)) rfl
  generalize encode (.bexp d a) = w at *
  refine decode_memory (by simp only [opcode, e0]; decide) ?_ hf
  delta decodeMemory opcode
  rw [e0, e1, e2, e3, e4]
  rfl

theorem Encoding.bwait (a : BitVec 8) (p : BitVec 3) : Encoding.Statement (.bwait a p) := by
  intro _ hf
  obtain ⟨e0, e1, e2, e3, e4, e5⟩ := fields_7_8_8_5_1_3 0x76#7 0x0#8 a 0x5#5 0x0#1 p (w := encode (.bwait a p)) rfl
  generalize encode (.bwait a p) = w at *
  refine decode_memory (by simp only [opcode, e0]; decide) ?_ hf
  delta decodeMemory opcode
  rw [e0, e1, e2, e3, e4, e5]
  rfl

theorem Encoding.btest (d : BitVec 8) (a : BitVec 8) (p : BitVec 3) : Encoding.Statement (.btest d a p) := by
  intro _ hf
  obtain ⟨e0, e1, e2, e3, e4, e5⟩ := fields_7_8_8_5_1_3 0x76#7 d a 0x6#5 0x0#1 p (w := encode (.btest d a p)) rfl
  generalize encode (.btest d a p) = w at *
  refine decode_memory (by simp only [opcode, e0]; decide) ?_ hf
  delta decodeMemory opcode
  rw [e0, e1, e2, e3, e4, e5]
  rfl

theorem Encoding.tbar : Encoding.Statement (.tbar) := by
  intro _ hf
  obtain ⟨e0, e1, e2, e3, e4⟩ := fields_7_8_8_5_4 0x76#7 0x0#8 0x0#8 0x7#5 0x0#4 (w := encode (.tbar)) rfl
  generalize encode (.tbar) = w at *
  refine decode_memory (by simp only [opcode, e0]; decide) ?_ hf
  delta decodeMemory opcode
  rw [e0, e1, e2, e3, e4]
  rfl

theorem Encoding.cbar : Encoding.Statement (.cbar) := by
  intro _ hf
  obtain ⟨e0, e1, e2, e3, e4⟩ := fields_7_8_8_5_4 0x76#7 0x0#8 0x0#8 0x8#5 0x0#4 (w := encode (.cbar)) rfl
  generalize encode (.cbar) = w at *
  refine decode_memory (by simp only [opcode, e0]; decide) ?_ hf
  delta decodeMemory opcode
  rw [e0, e1, e2, e3, e4]
  rfl

theorem Encoding.bsnnew (d : BitVec 8) (a : BitVec 8) (p : BitVec 3) : Encoding.Statement (.bsnnew d a p) := by
  intro _ hf
  obtain ⟨e0, e1, e2, e3, e4, e5⟩ := fields_7_8_8_5_1_3 0x76#7 d a 0x9#5 0x0#1 p (w := encode (.bsnnew d a p)) rfl
  generalize encode (.bsnnew d a p) = w at *
  refine decode_memory (by simp only [opcode, e0]; decide) ?_ hf
  delta decodeMemory opcode
  rw [e0, e1, e2, e3, e4, e5]
  rfl

theorem Encoding.bsnpost (d : BitVec 7) (a : BitVec 8) (p : BitVec 3) : Encoding.Statement (.bsnpost d a p) := by
  intro _ hf
  obtain ⟨e0, e1, e2, e3, e4, e5, e6⟩ := fields_7_7_1_8_5_1_3 0x76#7 d 0x0#1 a 0xa#5 0x0#1 p (w := encode (.bsnpost d a p)) rfl
  generalize encode (.bsnpost d a p) = w at *
  refine decode_memory (by simp only [opcode, e0]; decide) ?_ hf
  delta decodeMemory opcode
  rw [e0, e1, e2, e3, e4, e5, e6]
  rfl

theorem Encoding.bsnfill (d : BitVec 8) (a : BitVec 8) (p : BitVec 3) : Encoding.Statement (.bsnfill d a p) := by
  intro _ hf
  obtain ⟨e0, e1, e2, e3, e4, e5⟩ := fields_7_8_8_5_1_3 0x76#7 d a 0xb#5 0x0#1 p (w := encode (.bsnfill d a p)) rfl
  generalize encode (.bsnfill d a p) = w at *
  refine decode_memory (by simp only [opcode, e0]; decide) ?_ hf
  delta decodeMemory opcode
  rw [e0, e1, e2, e3, e4, e5]
  rfl

theorem Encoding.bsnrel (a : BitVec 8) (p : BitVec 3) : Encoding.Statement (.bsnrel a p) := by
  intro _ hf
  obtain ⟨e0, e1, e2, e3, e4, e5⟩ := fields_7_8_8_5_1_3 0x76#7 0x0#8 a 0xc#5 0x0#1 p (w := encode (.bsnrel a p)) rfl
  generalize encode (.bsnrel a p) = w at *
  refine decode_memory (by simp only [opcode, e0]; decide) ?_ hf
  delta decodeMemory opcode
  rw [e0, e1, e2, e3, e4, e5]
  rfl

theorem Encoding.bsnfree (a : BitVec 8) : Encoding.Statement (.bsnfree a) := by
  intro _ hf
  obtain ⟨e0, e1, e2, e3, e4⟩ := fields_7_8_8_5_4 0x76#7 0x0#8 a 0xd#5 0x0#4 (w := encode (.bsnfree a)) rfl
  generalize encode (.bsnfree a) = w at *
  refine decode_memory (by simp only [opcode, e0]; decide) ?_ hf
  delta decodeMemory opcode
  rw [e0, e1, e2, e3, e4]
  rfl

theorem Encoding.brdhLin (d : BitVec 8) (a : BitVec 7) (e : BitVec 1) (p : BitVec 3) : Encoding.Statement (.brdhLin d a e p) := by
  intro _ hf
  obtain ⟨e0, e1, e2, e3, e4, e5, e6⟩ := fields_7_8_7_1_5_1_3 0x78#7 d a 0x0#1 0x0#5 e p (w := encode (.brdhLin d a e p)) rfl
  generalize encode (.brdhLin d a e p) = w at *
  refine decode_system (by simp only [opcode, e0]; decide) ?_ hf
  delta decodeSystem opcode
  rw [e0, e1, e2, e3, e4, e5, e6]
  rfl

theorem Encoding.brdhTen (d : BitVec 8) (a : BitVec 7) (e : BitVec 1) (p : BitVec 3) : Encoding.Statement (.brdhTen d a e p) := by
  intro _ hf
  obtain ⟨e0, e1, e2, e3, e4, e5, e6⟩ := fields_7_8_7_1_5_1_3 0x78#7 d a 0x0#1 0x1#5 e p (w := encode (.brdhTen d a e p)) rfl
  generalize encode (.brdhTen d a e p) = w at *
  refine decode_system (by simp only [opcode, e0]; decide) ?_ hf
  delta decodeSystem opcode
  rw [e0, e1, e2, e3, e4, e5, e6]
  rfl

theorem Encoding.tcpy (d : BitVec 8) (a : BitVec 7) (b : BitVec 1) (p : BitVec 3) : Encoding.Statement (.tcpy d a b p) := by
  intro _ hf
  obtain ⟨e0, e1, e2, e3, e4, e5, e6⟩ := fields_7_8_7_1_5_1_3 0x78#7 d a 0x0#1 0x2#5 b p (w := encode (.tcpy d a b p)) rfl
  generalize encode (.tcpy d a b p) = w at *
  refine decode_system (by simp only [opcode, e0]; decide) ?_ hf
  delta decodeSystem opcode
  rw [e0, e1, e2, e3, e4, e5, e6]
  rfl

theorem Encoding.twb (d : BitVec 8) (a : BitVec 7) (p : BitVec 3) : Encoding.Statement (.twb d a p) := by
  intro _ hf
  obtain ⟨e0, e1, e2, e3, e4, e5, e6⟩ := fields_7_8_7_1_5_1_3 0x78#7 d a 0x0#1 0x3#5 0x0#1 p (w := encode (.twb d a p)) rfl
  generalize encode (.twb d a p) = w at *
  refine decode_system (by simp only [opcode, e0]; decide) ?_ hf
  delta decodeSystem opcode
  rw [e0, e1, e2, e3, e4, e5, e6]
  rfl

theorem Encoding.gath (a : BitVec 8) (p : BitVec 3) : Encoding.Statement (.gath a p) := by
  intro _ hf
  obtain ⟨e0, e1, e2, e3, e4, e5⟩ := fields_7_8_8_5_1_3 0x78#7 0x0#8 a 0x4#5 0x0#1 p (w := encode (.gath a p)) rfl
  generalize encode (.gath a p) = w at *
  refine decode_system (by simp only [opcode, e0]; decide) ?_ hf
  delta decodeSystem opcode
  rw [e0, e1, e2, e3, e4, e5]
  rfl

theorem Encoding.scat (a : BitVec 8) (p : BitVec 3) : Encoding.Statement (.scat a p) := by
  intro _ hf
  obtain ⟨e0, e1, e2, e3, e4, e5⟩ := fields_7_8_8_5_1_3 0x78#7 0x0#8 a 0x5#5 0x0#1 p (w := encode (.scat a p)) rfl
  generalize encode (.scat a p) = w at *
  refine decode_system (by simp only [opcode, e0]; decide) ?_ hf
  delta decodeSystem opcode
  rw [e0, e1, e2, e3, e4, e5]
  rfl

theorem Encoding.moor (d : BitVec 8) (a : BitVec 7) (p : BitVec 3) : Encoding.Statement (.moor d a p) := by
  intro _ hf
  obtain ⟨e0, e1, e2, e3, e4, e5, e6⟩ := fields_7_8_7_1_5_1_3 0x78#7 d a 0x0#1 0x6#5 0x0#1 p (w := encode (.moor d a p)) rfl
  generalize encode (.moor d a p) = w at *
  refine decode_system (by simp only [opcode, e0]; decide) ?_ hf
  delta decodeSystem opcode
  rw [e0, e1, e2, e3, e4, e5, e6]
  rfl

theorem Encoding.unmoor (d : BitVec 8) (a : BitVec 7) : Encoding.Statement (.unmoor d a) := by
  intro _ hf
  obtain ⟨e0, e1, e2, e3, e4, e5⟩ := fields_7_8_7_1_5_4 0x78#7 d a 0x0#1 0x7#5 0x0#4 (w := encode (.unmoor d a)) rfl
  generalize encode (.unmoor d a) = w at *
  refine decode_system (by simp only [opcode, e0]; decide) ?_ hf
  delta decodeSystem opcode
  rw [e0, e1, e2, e3, e4, e5]
  rfl

theorem Encoding.mma (d : BitVec 8) (a : BitVec 8) (p : BitVec 3) : Encoding.Statement (.mma d a p) := by
  intro _ hf
  obtain ⟨e0, e1, e2, e3, e4, e5⟩ := fields_7_8_8_5_1_3 0x79#7 d a 0x0#5 0x0#1 p (w := encode (.mma d a p)) rfl
  generalize encode (.mma d a p) = w at *
  refine decode_system (by simp only [opcode, e0]; decide) ?_ hf
  delta decodeSystem opcode
  rw [e0, e1, e2, e3, e4, e5]
  rfl

theorem Encoding.acld (d : BitVec 8) (a : BitVec 8) (c : BitVec 4) : Encoding.Statement (.acld d a c) := by
  intro _ hf
  obtain ⟨e0, e1, e2, e3, e4⟩ := fields_7_8_8_5_4 0x79#7 d a 0x1#5 c (w := encode (.acld d a c)) rfl
  generalize encode (.acld d a c) = w at *
  refine decode_system (by simp only [opcode, e0]; decide) ?_ hf
  delta decodeSystem opcode
  rw [e0, e1, e2, e3, e4]
  rfl

theorem Encoding.acst (d : BitVec 8) (a : BitVec 8) (c : BitVec 4) : Encoding.Statement (.acst d a c) := by
  intro _ hf
  obtain ⟨e0, e1, e2, e3, e4⟩ := fields_7_8_8_5_4 0x79#7 d a 0x2#5 c (w := encode (.acst d a c)) rfl
  generalize encode (.acst d a c) = w at *
  refine decode_system (by simp only [opcode, e0]; decide) ?_ hf
  delta decodeSystem opcode
  rw [e0, e1, e2, e3, e4]
  rfl

theorem Encoding.acz (a : BitVec 8) : Encoding.Statement (.acz a) := by
  intro _ hf
  obtain ⟨e0, e1, e2, e3, e4⟩ := fields_7_8_8_5_4 0x79#7 0x0#8 a 0x3#5 0x0#4 (w := encode (.acz a)) rfl
  generalize encode (.acz a) = w at *
  refine decode_system (by simp only [opcode, e0]; decide) ?_ hf
  delta decodeSystem opcode
  rw [e0, e1, e2, e3, e4]
  rfl

theorem Encoding.acq (d : BitVec 8) (a : BitVec 8) (p : BitVec 3) : Encoding.Statement (.acq d a p) := by
  intro _ hf
  obtain ⟨e0, e1, e2, e3, e4, e5⟩ := fields_7_8_8_5_1_3 0x79#7 d a 0x4#5 0x0#1 p (w := encode (.acq d a p)) rfl
  generalize encode (.acq d a p) = w at *
  refine decode_system (by simp only [opcode, e0]; decide) ?_ hf
  delta decodeSystem opcode
  rw [e0, e1, e2, e3, e4, e5]
  rfl

theorem Encoding.acflg (d : BitVec 8) (a : BitVec 8) : Encoding.Statement (.acflg d a) := by
  intro _ hf
  obtain ⟨e0, e1, e2, e3, e4⟩ := fields_7_8_8_5_4 0x79#7 d a 0x5#5 0x0#4 (w := encode (.acflg d a)) rfl
  generalize encode (.acflg d a) = w at *
  refine decode_system (by simp only [opcode, e0]; decide) ?_ hf
  delta decodeSystem opcode
  rw [e0, e1, e2, e3, e4]
  rfl

theorem Encoding.wopen (a : BitVec 7) (p : BitVec 3) : Encoding.Statement (.wopen a p) := by
  intro _ hf
  obtain ⟨e0, e1, e2, e3, e4, e5, e6⟩ := fields_7_8_7_1_5_1_3 0x7a#7 0x0#8 a 0x0#1 0x0#5 0x0#1 p (w := encode (.wopen a p)) rfl
  generalize encode (.wopen a p) = w at *
  refine decode_system (by simp only [opcode, e0]; decide) ?_ hf
  delta decodeSystem opcode
  rw [e0, e1, e2, e3, e4, e5, e6]
  rfl

theorem Encoding.wapp (d : BitVec 6) (a : BitVec 7) (p : BitVec 3) : Encoding.Statement (.wapp d a p) := by
  intro _ hf
  obtain ⟨e0, e1, e2, e3, e4, e5, e6, e7⟩ := fields_7_6_2_7_1_5_1_3 0x7a#7 d 0x0#2 a 0x0#1 0x1#5 0x0#1 p (w := encode (.wapp d a p)) rfl
  generalize encode (.wapp d a p) = w at *
  refine decode_system (by simp only [opcode, e0]; decide) ?_ hf
  delta decodeSystem opcode
  rw [e0, e1, e2, e3, e4, e5, e6, e7]
  rfl

theorem Encoding.wtake (d : BitVec 6) (a : BitVec 7) (p : BitVec 3) : Encoding.Statement (.wtake d a p) := by
  intro _ hf
  obtain ⟨e0, e1, e2, e3, e4, e5, e6, e7⟩ := fields_7_6_2_7_1_5_1_3 0x7a#7 d 0x0#2 a 0x0#1 0x2#5 0x0#1 p (w := encode (.wtake d a p)) rfl
  generalize encode (.wtake d a p) = w at *
  refine decode_system (by simp only [opcode, e0]; decide) ?_ hf
  delta decodeSystem opcode
  rw [e0, e1, e2, e3, e4, e5, e6, e7]
  rfl

theorem Encoding.tend : Encoding.Statement (.tend) := by
  intro _ hf
  obtain ⟨e0, e1, e2, e3, e4⟩ := fields_7_8_8_5_4 0x7b#7 0x0#8 0x0#8 0x0#5 0x0#4 (w := encode (.tend)) rfl
  generalize encode (.tend) = w at *
  refine decode_system (by simp only [opcode, e0]; decide) ?_ hf
  delta decodeSystem opcode
  rw [e0, e1, e2, e3, e4]
  rfl

theorem Encoding.clins (d : BitVec 8) (a : BitVec 7) (p : BitVec 3) : Encoding.Statement (.clins d a p) := by
  intro _ hf
  obtain ⟨e0, e1, e2, e3, e4, e5, e6⟩ := fields_7_8_7_1_5_1_3 0x7c#7 d a 0x0#1 0x0#5 0x0#1 p (w := encode (.clins d a p)) rfl
  generalize encode (.clins d a p) = w at *
  refine decode_system (by simp only [opcode, e0]; decide) ?_ hf
  delta decodeSystem opcode
  rw [e0, e1, e2, e3, e4, e5, e6]
  rfl

theorem Encoding.clrem (d : BitVec 8) (a : BitVec 7) (p : BitVec 3) : Encoding.Statement (.clrem d a p) := by
  intro _ hf
  obtain ⟨e0, e1, e2, e3, e4, e5, e6⟩ := fields_7_8_7_1_5_1_3 0x7c#7 d a 0x0#1 0x1#5 0x0#1 p (w := encode (.clrem d a p)) rfl
  generalize encode (.clrem d a p) = w at *
  refine decode_system (by simp only [opcode, e0]; decide) ?_ hf
  delta decodeSystem opcode
  rw [e0, e1, e2, e3, e4, e5, e6]
  rfl

theorem Encoding.clnext (d : BitVec 8) (a : BitVec 7) (p : BitVec 3) : Encoding.Statement (.clnext d a p) := by
  intro _ hf
  obtain ⟨e0, e1, e2, e3, e4, e5, e6⟩ := fields_7_8_7_1_5_1_3 0x7c#7 d a 0x0#1 0x2#5 0x0#1 p (w := encode (.clnext d a p)) rfl
  generalize encode (.clnext d a p) = w at *
  refine decode_system (by simp only [opcode, e0]; decide) ?_ hf
  delta decodeSystem opcode
  rw [e0, e1, e2, e3, e4, e5, e6]
  rfl

theorem Encoding.clcnt (d : BitVec 7) (a : BitVec 7) : Encoding.Statement (.clcnt d a) := by
  intro _ hf
  obtain ⟨e0, e1, e2, e3, e4, e5, e6⟩ := fields_7_7_1_7_1_5_4 0x7c#7 d 0x0#1 a 0x0#1 0x3#5 0x0#4 (w := encode (.clcnt d a)) rfl
  generalize encode (.clcnt d a) = w at *
  refine decode_system (by simp only [opcode, e0]; decide) ?_ hf
  delta decodeSystem opcode
  rw [e0, e1, e2, e3, e4, e5, e6]
  rfl

theorem Encoding.clgrow (d : BitVec 8) (a : BitVec 7) (p : BitVec 3) : Encoding.Statement (.clgrow d a p) := by
  intro _ hf
  obtain ⟨e0, e1, e2, e3, e4, e5, e6⟩ := fields_7_8_7_1_5_1_3 0x7c#7 d a 0x0#1 0x4#5 0x0#1 p (w := encode (.clgrow d a p)) rfl
  generalize encode (.clgrow d a p) = w at *
  refine decode_system (by simp only [opcode, e0]; decide) ?_ hf
  delta decodeSystem opcode
  rw [e0, e1, e2, e3, e4, e5, e6]
  rfl

theorem Encoding.clstat (d : BitVec 6) (a : BitVec 7) : Encoding.Statement (.clstat d a) := by
  intro _ hf
  obtain ⟨e0, e1, e2, e3, e4, e5, e6⟩ := fields_7_6_2_7_1_5_4 0x7c#7 d 0x0#2 a 0x0#1 0x5#5 0x0#4 (w := encode (.clstat d a)) rfl
  generalize encode (.clstat d a) = w at *
  refine decode_system (by simp only [opcode, e0]; decide) ?_ hf
  delta decodeSystem opcode
  rw [e0, e1, e2, e3, e4, e5, e6]
  rfl

theorem Encoding.frag (d : BitVec 8) (a : BitVec 7) (p : BitVec 3) : Encoding.Statement (.frag d a p) := by
  intro _ hf
  obtain ⟨e0, e1, e2, e3, e4, e5, e6⟩ := fields_7_8_7_1_5_1_3 0x7c#7 d a 0x0#1 0x8#5 0x0#1 p (w := encode (.frag d a p)) rfl
  generalize encode (.frag d a p) = w at *
  refine decode_system (by simp only [opcode, e0]; decide) ?_ hf
  delta decodeSystem opcode
  rw [e0, e1, e2, e3, e4, e5, e6]
  rfl

theorem Encoding.frrd (d : BitVec 8) (a : BitVec 7) : Encoding.Statement (.frrd d a) := by
  intro _ hf
  obtain ⟨e0, e1, e2, e3, e4, e5⟩ := fields_7_8_7_1_5_4 0x7c#7 d a 0x0#1 0x9#5 0x0#4 (w := encode (.frrd d a)) rfl
  generalize encode (.frrd d a) = w at *
  refine decode_system (by simp only [opcode, e0]; decide) ?_ hf
  delta decodeSystem opcode
  rw [e0, e1, e2, e3, e4, e5]
  rfl

theorem Encoding.rslv (d : BitVec 6) (a : BitVec 7) (f : BitVec 1) : Encoding.Statement (.rslv d a f) := by
  intro _ hf
  obtain ⟨e0, e1, e2, e3, e4, e5, e6, e7⟩ := fields_7_6_2_7_1_5_3_1 0x7c#7 d 0x0#2 a 0x0#1 0xa#5 0x0#3 f (w := encode (.rslv d a f)) rfl
  generalize encode (.rslv d a f) = w at *
  refine decode_system (by simp only [opcode, e0]; decide) ?_ hf
  delta decodeSystem opcode
  rw [e0, e1, e2, e3, e4, e5, e6, e7]
  rfl

theorem Encoding.frclr (d : BitVec 8) (a : BitVec 7) : Encoding.Statement (.frclr d a) := by
  intro _ hf
  obtain ⟨e0, e1, e2, e3, e4, e5⟩ := fields_7_8_7_1_5_4 0x7c#7 d a 0x0#1 0xb#5 0x0#4 (w := encode (.frclr d a)) rfl
  generalize encode (.frclr d a) = w at *
  refine decode_system (by simp only [opcode, e0]; decide) ?_ hf
  delta decodeSystem opcode
  rw [e0, e1, e2, e3, e4, e5]
  rfl

theorem Encoding.pooladd (d : BitVec 8) (a : BitVec 7) (p : BitVec 3) : Encoding.Statement (.pooladd d a p) := by
  intro _ hf
  obtain ⟨e0, e1, e2, e3, e4, e5, e6⟩ := fields_7_8_7_1_5_1_3 0x7c#7 d a 0x0#1 0xc#5 0x0#1 p (w := encode (.pooladd d a p)) rfl
  generalize encode (.pooladd d a p) = w at *
  refine decode_system (by simp only [opcode, e0]; decide) ?_ hf
  delta decodeSystem opcode
  rw [e0, e1, e2, e3, e4, e5, e6]
  rfl

theorem Encoding.poolst (d : BitVec 8) (a : BitVec 7) : Encoding.Statement (.poolst d a) := by
  intro _ hf
  obtain ⟨e0, e1, e2, e3, e4, e5⟩ := fields_7_8_7_1_5_4 0x7c#7 d a 0x0#1 0xd#5 0x0#4 (w := encode (.poolst d a)) rfl
  generalize encode (.poolst d a) = w at *
  refine decode_system (by simp only [opcode, e0]; decide) ?_ hf
  delta decodeSystem opcode
  rw [e0, e1, e2, e3, e4, e5]
  rfl

theorem Encoding.isect (d : BitVec 8) (a : BitVec 7) : Encoding.Statement (.isect d a) := by
  intro _ hf
  obtain ⟨e0, e1, e2, e3, e4, e5⟩ := fields_7_8_7_1_5_4 0x7c#7 d a 0x0#1 0x10#5 0x0#4 (w := encode (.isect d a)) rfl
  generalize encode (.isect d a) = w at *
  refine decode_system (by simp only [opcode, e0]; decide) ?_ hf
  delta decodeSystem opcode
  rw [e0, e1, e2, e3, e4, e5]
  rfl

theorem Encoding.isnext (d : BitVec 8) : Encoding.Statement (.isnext d) := by
  intro _ hf
  obtain ⟨e0, e1, e2, e3, e4⟩ := fields_7_8_8_5_4 0x7c#7 d 0x0#8 0x11#5 0x0#4 (w := encode (.isnext d)) rfl
  generalize encode (.isnext d) = w at *
  refine decode_system (by simp only [opcode, e0]; decide) ?_ hf
  delta decodeSystem opcode
  rw [e0, e1, e2, e3, e4]
  rfl

theorem Encoding.tcov (d : BitVec 8) : Encoding.Statement (.tcov d) := by
  intro _ hf
  obtain ⟨e0, e1, e2, e3, e4⟩ := fields_7_8_8_5_4 0x7c#7 d 0x0#8 0x12#5 0x0#4 (w := encode (.tcov d)) rfl
  generalize encode (.tcov d) = w at *
  refine decode_system (by simp only [opcode, e0]; decide) ?_ hf
  delta decodeSystem opcode
  rw [e0, e1, e2, e3, e4]
  rfl

theorem Encoding.mfs (d : BitVec 8) (n : BitVec 12) : Encoding.Statement (.mfs d n) := by
  intro _ hf
  obtain ⟨e0, e1, e2, e3, e4⟩ := fields_7_8_8_5_4 0x7d#7 d (n.extractLsb' 0 8) 0x0#5 (n.extractLsb' 8 4) (w := encode (.mfs d n)) rfl
  generalize encode (.mfs d n) = w at *
  refine decode_system (by simp only [opcode, e0]; decide) ?_ hf
  delta decodeSystem opcode
  rw [e0, e1, e2, e3, e4]
  exact congrArg (fun q => Except.ok (Instr.mfs d q)) (join_twelve n)

theorem Encoding.mts (d : BitVec 8) (n : BitVec 12) : Encoding.Statement (.mts d n) := by
  intro _ hf
  obtain ⟨e0, e1, e2, e3, e4⟩ := fields_7_8_8_5_4 0x7d#7 d (n.extractLsb' 0 8) 0x1#5 (n.extractLsb' 8 4) (w := encode (.mts d n)) rfl
  generalize encode (.mts d n) = w at *
  refine decode_system (by simp only [opcode, e0]; decide) ?_ hf
  delta decodeSystem opcode
  rw [e0, e1, e2, e3, e4]
  exact congrArg (fun q => Except.ok (Instr.mts d q)) (join_twelve n)

theorem Encoding.trap (n : BitVec 8) : Encoding.Statement (.trap n) := by
  intro _ hf
  obtain ⟨e0, e1, e2, e3, e4⟩ := fields_7_8_8_5_4 0x7d#7 0x0#8 n 0x2#5 0x0#4 (w := encode (.trap n)) rfl
  generalize encode (.trap n) = w at *
  refine decode_system (by simp only [opcode, e0]; decide) ?_ hf
  delta decodeSystem opcode
  rw [e0, e1, e2, e3, e4]
  rfl

theorem Encoding.eret : Encoding.Statement (.eret) := by
  intro _ hf
  obtain ⟨e0, e1, e2, e3, e4⟩ := fields_7_8_8_5_4 0x7d#7 0x0#8 0x0#8 0x3#5 0x0#4 (w := encode (.eret)) rfl
  generalize encode (.eret) = w at *
  refine decode_system (by simp only [opcode, e0]; decide) ?_ hf
  delta decodeSystem opcode
  rw [e0, e1, e2, e3, e4]
  rfl

theorem Encoding.brk : Encoding.Statement (.brk) := by
  intro _ hf
  obtain ⟨e0, e1, e2, e3, e4⟩ := fields_7_8_8_5_4 0x7d#7 0x0#8 0x0#8 0x4#5 0x0#4 (w := encode (.brk)) rfl
  generalize encode (.brk) = w at *
  refine decode_system (by simp only [opcode, e0]; decide) ?_ hf
  delta decodeSystem opcode
  rw [e0, e1, e2, e3, e4]
  rfl

theorem Encoding.evpop (d : BitVec 6) (p : BitVec 3) : Encoding.Statement (.evpop d p) := by
  intro _ hf
  obtain ⟨e0, e1, e2, e3, e4, e5, e6⟩ := fields_7_6_2_8_5_1_3 0x7d#7 d 0x0#2 0x0#8 0x8#5 0x0#1 p (w := encode (.evpop d p)) rfl
  generalize encode (.evpop d p) = w at *
  refine decode_system (by simp only [opcode, e0]; decide) ?_ hf
  delta decodeSystem opcode
  rw [e0, e1, e2, e3, e4, e5, e6]
  rfl

theorem Encoding.evpeek (d : BitVec 6) (p : BitVec 3) : Encoding.Statement (.evpeek d p) := by
  intro _ hf
  obtain ⟨e0, e1, e2, e3, e4, e5, e6⟩ := fields_7_6_2_8_5_1_3 0x7d#7 d 0x0#2 0x0#8 0x9#5 0x0#1 p (w := encode (.evpeek d p)) rfl
  generalize encode (.evpeek d p) = w at *
  refine decode_system (by simp only [opcode, e0]; decide) ?_ hf
  delta decodeSystem opcode
  rw [e0, e1, e2, e3, e4, e5, e6]
  rfl

theorem Encoding.trel (a : BitVec 8) (p : BitVec 3) : Encoding.Statement (.trel a p) := by
  intro _ hf
  obtain ⟨e0, e1, e2, e3, e4, e5⟩ := fields_7_8_8_5_1_3 0x7d#7 0x0#8 a 0xa#5 0x0#1 p (w := encode (.trel a p)) rfl
  generalize encode (.trel a p) = w at *
  refine decode_system (by simp only [opcode, e0]; decide) ?_ hf
  delta decodeSystem opcode
  rw [e0, e1, e2, e3, e4, e5]
  rfl

theorem Encoding.tkill (a : BitVec 8) (p : BitVec 3) : Encoding.Statement (.tkill a p) := by
  intro _ hf
  obtain ⟨e0, e1, e2, e3, e4, e5⟩ := fields_7_8_8_5_1_3 0x7d#7 0x0#8 a 0xb#5 0x0#1 p (w := encode (.tkill a p)) rfl
  generalize encode (.tkill a p) = w at *
  refine decode_system (by simp only [opcode, e0]; decide) ?_ hf
  delta decodeSystem opcode
  rw [e0, e1, e2, e3, e4, e5]
  rfl

theorem Encoding.idle : Encoding.Statement (.idle) := by
  intro _ hf
  obtain ⟨e0, e1, e2, e3, e4⟩ := fields_7_8_8_5_4 0x7d#7 0x0#8 0x0#8 0xc#5 0x0#4 (w := encode (.idle)) rfl
  generalize encode (.idle) = w at *
  refine decode_system (by simp only [opcode, e0]; decide) ?_ hf
  delta decodeSystem opcode
  rw [e0, e1, e2, e3, e4]
  rfl

theorem Encoding.hintImm20 (i : BitVec 21) : Encoding.Statement (.hintImm20 i) := by
  intro _ hf
  obtain ⟨e0, e1, e2⟩ := fields_7_4_21 0x7f#7 0x0#4 i (w := encode (.hintImm20 i)) rfl
  generalize encode (.hintImm20 i) = w at *
  refine decode_system (by simp only [opcode, e0]; decide) ?_ hf
  delta decodeSystem opcode
  rw [e0, e1, e2]
  rfl

theorem Encoding.hintGuard (x : BitVec 1) (p : BitVec 3) : Encoding.Statement (.hintGuard x p) := by
  intro _ hf
  obtain ⟨e0, e1, e2, e3, e4⟩ := fields_7_4_17_1_3 0x7f#7 0x1#4 0x0#17 x p (w := encode (.hintGuard x p)) rfl
  generalize encode (.hintGuard x p) = w at *
  refine decode_system (by simp only [opcode, e0]; decide) ?_ hf
  delta decodeSystem opcode
  rw [e0, e1, e2, e3, e4]
  rfl

theorem Encoding.hintC4 (c : BitVec 8) : Encoding.Statement (.hintC4 c) := by
  intro _ hf
  obtain ⟨e0, e1, e2, e3⟩ := fields_7_4_13_8 0x7f#7 0x2#4 0x0#13 c (w := encode (.hintC4 c)) rfl
  generalize encode (.hintC4 c) = w at *
  refine decode_system (by simp only [opcode, e0]; decide) ?_ hf
  delta decodeSystem opcode
  rw [e0, e1, e2, e3]
  rfl

theorem Encoding.hintCache (k : BitVec 2) : Encoding.Statement (.hintCache k) := by
  intro _ hf
  obtain ⟨e0, e1, e2, e3⟩ := fields_7_4_19_2 0x7f#7 0x3#4 0x0#19 k (w := encode (.hintCache k)) rfl
  generalize encode (.hintCache k) = w at *
  refine decode_system (by simp only [opcode, e0]; decide) ?_ hf
  delta decodeSystem opcode
  rw [e0, e1, e2, e3]
  rfl

theorem Encoding.hintScope (s : BitVec 2) : Encoding.Statement (.hintScope s) := by
  intro _ hf
  obtain ⟨e0, e1, e2, e3⟩ := fields_7_4_19_2 0x7f#7 0x4#4 0x0#19 s (w := encode (.hintScope s)) rfl
  generalize encode (.hintScope s) = w at *
  refine decode_system (by simp only [opcode, e0]; decide) ?_ hf
  delta decodeSystem opcode
  rw [e0, e1, e2, e3]
  rfl

theorem Encoding.hintDxbd (d : BitVec 4) : Encoding.Statement (.hintDxbd d) := by
  intro _ hf
  obtain ⟨e0, e1, e2, e3⟩ := fields_7_4_17_4 0x7f#7 0x5#4 0x0#17 d (w := encode (.hintDxbd d)) rfl
  generalize encode (.hintDxbd d) = w at *
  refine decode_system (by simp only [opcode, e0]; decide) ?_ hf
  delta decodeSystem opcode
  rw [e0, e1, e2, e3]
  rfl

theorem Encoding.wordLevelIllegal (word : Word) : Encoding.Statement (.wordLevelIllegal word) := fun h => absurd h Bool.false_ne_true

theorem Encoding.malformedHint (word : Word) : Encoding.Statement (.malformedHint word) := fun h => absurd h Bool.false_ne_true

theorem Encoding.deepIdleEnter (die : Nat) (row : Nat) : Encoding.Statement (.deepIdleEnter die row) := fun h => absurd h Bool.false_ne_true

theorem Encoding.rowWake (die : Nat) (row : Nat) : Encoding.Statement (.rowWake die row) := fun h => absurd h Bool.false_ne_true

theorem Encoding.issueRamp (core : Nat) : Encoding.Statement (.issueRamp core) := fun h => absurd h Bool.false_ne_true

theorem Encoding.peerAccessArrive (access : Nat) : Encoding.Statement (.peerAccessArrive access) := fun h => absurd h Bool.false_ne_true

theorem Encoding.retireTimeout (aperture : Nat) : Encoding.Statement (.retireTimeout aperture) := fun h => absurd h Bool.false_ne_true

theorem Encoding.retireFenced (aperture : Nat) : Encoding.Statement (.retireFenced aperture) := fun h => absurd h Bool.false_ne_true

theorem Encoding.rowActivation (stack : Nat) (bank : Nat) (row : Nat) : Encoding.Statement (.rowActivation stack bank row) := fun h => absurd h Bool.false_ne_true

theorem Encoding.refreshWindowEnd (stack : Nat) : Encoding.Statement (.refreshWindowEnd stack) := fun h => absurd h Bool.false_ne_true

theorem Encoding.patrolScrub (sector : Nat) : Encoding.Statement (.patrolScrub sector) := fun h => absurd h Bool.false_ne_true

theorem Encoding.errorLogReport (die : Nat) : Encoding.Statement (.errorLogReport die) := fun h => absurd h Bool.false_ne_true

theorem Encoding.moorLeaseEnd (line : Nat) : Encoding.Statement (.moorLeaseEnd line) := fun h => absurd h Bool.false_ne_true

theorem Encoding.dependencyRead (queue : Nat) : Encoding.Statement (.dependencyRead queue) := fun h => absurd h Bool.false_ne_true

theorem Encoding.dieSchedCycle (die : Nat) : Encoding.Statement (.dieSchedCycle die) := fun h => absurd h Bool.false_ne_true

theorem Encoding.drainStart (die : Nat) : Encoding.Statement (.drainStart die) := fun h => absurd h Bool.false_ne_true

theorem Encoding.regionClaim (core : Nat) (slot : Nat) : Encoding.Statement (.regionClaim core slot) := fun h => absurd h Bool.false_ne_true

theorem Encoding.teamStart (core : Nat) (slot : Nat) : Encoding.Statement (.teamStart core slot) := fun h => absurd h Bool.false_ne_true

theorem Encoding.teamResume (core : Nat) (slot : Nat) : Encoding.Statement (.teamResume core slot) := fun h => absurd h Bool.false_ne_true

theorem Encoding.slotRelease (core : Nat) (slot : Nat) : Encoding.Statement (.slotRelease core slot) := fun h => absurd h Bool.false_ne_true

theorem Encoding.launchComplete (launch : Nat) : Encoding.Statement (.launchComplete launch) := fun h => absurd h Bool.false_ne_true

theorem Encoding.broadcastFetch (core : Nat) (berth : Nat) : Encoding.Statement (.broadcastFetch core berth) := fun h => absurd h Bool.false_ne_true

theorem Encoding.laneStarving (lane : AgentRef) : Encoding.Statement (.laneStarving lane) := fun h => absurd h Bool.false_ne_true

theorem Encoding.runAhead (lane : AgentRef) : Encoding.Statement (.runAhead lane) := fun h => absurd h Bool.false_ne_true

theorem Encoding.loadReturn (lane : AgentRef) : Encoding.Statement (.loadReturn lane) := fun h => absurd h Bool.false_ne_true

theorem Encoding.storeCompletion (lane : AgentRef) : Encoding.Statement (.storeCompletion lane) := fun h => absurd h Bool.false_ne_true

theorem Encoding.yieldRelease (lane : AgentRef) : Encoding.Statement (.yieldRelease lane) := fun h => absurd h Bool.false_ne_true

theorem Encoding.eqRecordEnqueue (core : Nat) : Encoding.Statement (.eqRecordEnqueue core) := fun h => absurd h Bool.false_ne_true

theorem Encoding.firmwareEvent (core : Nat) : Encoding.Statement (.firmwareEvent core) := fun h => absurd h Bool.false_ne_true

theorem Encoding.engineUnitFault (core : Nat) (engine : Nat) (seq : Nat) : Encoding.Statement (.engineUnitFault core engine seq) := fun h => absurd h Bool.false_ne_true

theorem Encoding.engineUnitError (core : Nat) (engine : Nat) (seq : Nat) : Encoding.Statement (.engineUnitError core engine seq) := fun h => absurd h Bool.false_ne_true

theorem Encoding.burstDeliver (core : Nat) (seq : Nat) (burst : Nat) : Encoding.Statement (.burstDeliver core seq burst) := fun h => absurd h Bool.false_ne_true

theorem Encoding.tcpyComplete (core : Nat) (seq : Nat) : Encoding.Statement (.tcpyComplete core seq) := fun h => absurd h Bool.false_ne_true

theorem Encoding.gatherComplete (core : Nat) (seq : Nat) : Encoding.Statement (.gatherComplete core seq) := fun h => absurd h Bool.false_ne_true

theorem Encoding.ownershipGrant (line : Nat) : Encoding.Statement (.ownershipGrant line) := fun h => absurd h Bool.false_ne_true

theorem Encoding.engineLineRelease (line : Nat) : Encoding.Statement (.engineLineRelease line) := fun h => absurd h Bool.false_ne_true

theorem Encoding.mmaOperandRead (core : Nat) (seq : Nat) : Encoding.Statement (.mmaOperandRead core seq) := fun h => absurd h Bool.false_ne_true

theorem Encoding.mmaComplete (core : Nat) (seq : Nat) : Encoding.Statement (.mmaComplete core seq) := fun h => absurd h Bool.false_ne_true

theorem Encoding.acqComplete (core : Nat) (seq : Nat) : Encoding.Statement (.acqComplete core seq) := fun h => absurd h Bool.false_ne_true

theorem Encoding.waitcReread (lane : AgentRef) : Encoding.Statement (.waitcReread lane) := fun h => absurd h Bool.false_ne_true

theorem Encoding.wappItemWritten (item : Nat) : Encoding.Statement (.wappItemWritten item) := fun h => absurd h Bool.false_ne_true

theorem Encoding.wtakeEmpty (lane : AgentRef) : Encoding.Statement (.wtakeEmpty lane) := fun h => absurd h Bool.false_ne_true

theorem Encoding.bsnfillTimeout (lane : AgentRef) : Encoding.Statement (.bsnfillTimeout lane) := fun h => absurd h Bool.false_ne_true

theorem Encoding.hbmTrained (report : DieReport) : Encoding.Statement (.hbmTrained report) := fun h => absurd h Bool.false_ne_true

theorem Encoding.bootRecordFetched (firmware : Bool) (bytes : Option (List Byte)) : Encoding.Statement (.bootRecordFetched firmware bytes) := fun h => absurd h Bool.false_ne_true

theorem Encoding.thermalSample (hotDie : BitVec 8) (tMax : BitVec 8) (hbmMax : BitVec 8) : Encoding.Statement (.thermalSample hotDie tMax hbmMax) := fun h => absurd h Bool.false_ne_true

theorem Encoding.powerWindowEnd (milliwatts : Nat) : Encoding.Statement (.powerWindowEnd milliwatts) := fun h => absurd h Bool.false_ne_true

theorem Encoding.pwrCapWrite (mgmt : Bool) (value : Word) : Encoding.Statement (.pwrCapWrite mgmt value) := fun h => absurd h Bool.false_ne_true

theorem Encoding.floorWrite (value : Word) : Encoding.Statement (.floorWrite value) := fun h => absurd h Bool.false_ne_true

theorem Encoding.ident (datagram : TypedDatagram) : Encoding.Statement (.ident datagram) := fun h => absurd h Bool.false_ne_true

theorem Encoding.status (datagram : Datagram) : Encoding.Statement (.status datagram) := fun h => absurd h Bool.false_ne_true

theorem Encoding.regrd (seq : Nat) (payload : List Byte) : Encoding.Statement (.regrd seq payload) := fun h => absurd h Bool.false_ne_true

theorem Encoding.regwr (seq : Nat) (offset : List Byte) (value : List Byte) : Encoding.Statement (.regwr seq offset value) := fun h => absurd h Bool.false_ne_true

theorem Encoding.getVersion (path : MctpPath) (request : List Byte) : Encoding.Statement (.getVersion path request) := fun h => absurd h Bool.false_ne_true

theorem Encoding.getCapabilities (path : MctpPath) (request : List Byte) : Encoding.Statement (.getCapabilities path request) := fun h => absurd h Bool.false_ne_true

theorem Encoding.negotiateAlgorithms (path : MctpPath) (request : List Byte) : Encoding.Statement (.negotiateAlgorithms path request) := fun h => absurd h Bool.false_ne_true

theorem Encoding.getDigests (path : MctpPath) (request : List Byte) : Encoding.Statement (.getDigests path request) := fun h => absurd h Bool.false_ne_true

theorem Encoding.getCertificate (path : MctpPath) (request : List Byte) : Encoding.Statement (.getCertificate path request) := fun h => absurd h Bool.false_ne_true

theorem Encoding.challenge (path : MctpPath) (request : List Byte) : Encoding.Statement (.challenge path request) := fun h => absurd h Bool.false_ne_true

theorem Encoding.getMeasurements (path : MctpPath) (request : List Byte) : Encoding.Statement (.getMeasurements path request) := fun h => absurd h Bool.false_ne_true

theorem Encoding.keyExchange (path : MctpPath) (request : List Byte) : Encoding.Statement (.keyExchange path request) := fun h => absurd h Bool.false_ne_true

theorem Encoding.finish (path : MctpPath) (request : List Byte) : Encoding.Statement (.finish path request) := fun h => absurd h Bool.false_ne_true

theorem Encoding.securedMessage (path : MctpPath) (request : List Byte) : Encoding.Statement (.securedMessage path request) := fun h => absurd h Bool.false_ne_true

theorem Encoding.hostMemRead (addr : HostAddr) (size : Nat) (tag : Nat) : Encoding.Statement (.hostMemRead addr size tag) := fun h => absurd h Bool.false_ne_true

theorem Encoding.hostMemWrite (addr : HostAddr) (bytes : List Byte) : Encoding.Statement (.hostMemWrite addr bytes) := fun h => absurd h Bool.false_ne_true

theorem Encoding.peerInbound (accel : Nat) (request : PeerRequest) : Encoding.Statement (.peerInbound accel request) := fun h => absurd h Bool.false_ne_true

theorem Encoding.apertureEn (aperture : Nat) : Encoding.Statement (.apertureEn aperture) := fun h => absurd h Bool.false_ne_true

theorem Encoding.apertureRetire (aperture : Nat) : Encoding.Statement (.apertureRetire aperture) := fun h => absurd h Bool.false_ne_true

theorem Encoding.peerCompletion (access : Nat) (bytes : List Byte) : Encoding.Statement (.peerCompletion access bytes) := fun h => absurd h Bool.false_ne_true

theorem Encoding.ualinkPortDown (port : Nat) : Encoding.Statement (.ualinkPortDown port) := fun h => absurd h Bool.false_ne_true

theorem Encoding.ualinkPortUp (port : Nat) : Encoding.Statement (.ualinkPortUp port) := fun h => absurd h Bool.false_ne_true

theorem Encoding.hostPortDown (port : Nat) : Encoding.Statement (.hostPortDown port) := fun h => absurd h Bool.false_ne_true

theorem Encoding.ucieFlitFail (die : Nat) : Encoding.Statement (.ucieFlitFail die) := fun h => absurd h Bool.false_ne_true

theorem Encoding.linkReplay (link : ReplayLink) : Encoding.Statement (.linkReplay link) := fun h => absurd h Bool.false_ne_true

theorem Encoding.memoryErrorDetect (error : MemoryError) : Encoding.Statement (.memoryErrorDetect error) := fun h => absurd h Bool.false_ne_true

theorem Encoding.qwrWrite (queue : Nat) (value : Word) : Encoding.Statement (.qwrWrite queue value) := fun h => absurd h Bool.false_ne_true

theorem Encoding.qctlEn (queue : Nat) (en : Bool) : Encoding.Statement (.qctlEn queue en) := fun h => absurd h Bool.false_ne_true

theorem Encoding.qctlKill (queue : Nat) : Encoding.Statement (.qctlKill queue) := fun h => absurd h Bool.false_ne_true

theorem Encoding.replayRetry (asid : Nat) (page : Nat) : Encoding.Statement (.replayRetry asid page) := fun h => absurd h Bool.false_ne_true

theorem Encoding.replayFail (asid : Nat) (page : Nat) : Encoding.Statement (.replayFail asid page) := fun h => absurd h Bool.false_ne_true

theorem Encoding.invalRange (asid : Nat) (va : Nat) (size : Nat) : Encoding.Statement (.invalRange asid va size) := fun h => absurd h Bool.false_ne_true

theorem Encoding.invalAll (asid : Nat) : Encoding.Statement (.invalAll asid) := fun h => absurd h Bool.false_ne_true

theorem Encoding.fqRdWrite (value : Word) : Encoding.Statement (.fqRdWrite value) := fun h => absurd h Bool.false_ne_true

theorem Encoding.elogRdWrite (die : Nat) (value : Word) : Encoding.Statement (.elogRdWrite die value) := fun h => absurd h Bool.false_ne_true

theorem Encoding.intMaskWrite (value : Word) : Encoding.Statement (.intMaskWrite value) := fun h => absurd h Bool.false_ne_true

theorem Encoding.registerWrite (offset : Nat) (value : Word) : Encoding.Statement (.registerWrite offset value) := fun h => absurd h Bool.false_ne_true

theorem Encoding.hostPortUp (port : Nat) (width : BitVec 4) (speed : BitVec 3) (cxl : Bool) : Encoding.Statement (.hostPortUp port width speed cxl) := fun h => absurd h Bool.false_ne_true

theorem Encoding.bootStagingWrite (firmware : Bool) (offset : Nat) (bytes : List Byte) : Encoding.Statement (.bootStagingWrite firmware offset bytes) := fun h => absurd h Bool.false_ne_true

theorem Encoding.hostAtomicop (op : HostAtomic) (offset : Nat) (tag : Nat) : Encoding.Statement (.hostAtomicop op offset tag) := fun h => absurd h Bool.false_ne_true

theorem Encoding.powerOn : Encoding.Statement (.powerOn) := fun h => absurd h Bool.false_ne_true

theorem Encoding.rowStart : Encoding.Statement .rowStart := fun h => absurd h Bool.false_ne_true

theorem Encoding.bootctlGo : Encoding.Statement (.bootctlGo) := fun h => absurd h Bool.false_ne_true

theorem Encoding.bootctlRestart : Encoding.Statement (.bootctlRestart) := fun h => absurd h Bool.false_ne_true

theorem Encoding.stepRecompute : Encoding.Statement (.stepRecompute) := fun h => absurd h Bool.false_ne_true

theorem Encoding.stepChange : Encoding.Statement (.stepChange) := fun h => absurd h Bool.false_ne_true

theorem Encoding.btsTick : Encoding.Statement (.btsTick) := fun h => absurd h Bool.false_ne_true

theorem Encoding.invalComplete : Encoding.Statement (.invalComplete) := fun h => absurd h Bool.false_ne_true

theorem Encoding.iodSchedCycle : Encoding.Statement (.iodSchedCycle) := fun h => absurd h Bool.false_ne_true

end Sys2Proof.Laws
end

