-- ==== Sys2Proof/Laws/Thread.lean ====
section
/-! SUPPORT. A thread's registers and predicates after each write, and what the shared form of every word (`runWord`)
does: what the statements about words that complete are proved from. -/

namespace Sys2Proof.Machine

open Host (Outcome)

/-! ### Registers -/

@[simp] theorem Agent.reg_setReg (a : Agent) (q r : Nat) (x : Word) :
    (a.setReg q x).reg r = if r = q then x else a.reg r := NMap.get_set 0#32 a.v q r x

@[simp] theorem Agent.reg_setPair (a : Agent) (q r : Nat) (x : DWord) :
    (a.setPair q x).reg r = if r = q + 1 then bits x 32 32 else if r = q then bits x 0 32 else a.reg r := by
  simp [Agent.setPair]

@[simp] theorem Agent.pred_setReg (a : Agent) (q : Nat) (x : Word) (p : BitVec 3) :
    (a.setReg q x).pred p = a.pred p := rfl

@[simp] theorem Agent.pred_setPair (a : Agent) (q : Nat) (x : DWord) (p : BitVec 3) :
    (a.setPair q x).pred p = a.pred p := rfl

/-- p0 reads as true (R3). -/
@[simp] theorem Agent.pred_zero (a : Agent) : a.pred 0#3 = true := by simp [Agent.pred]

@[simp] theorem Agent.pred_setPred (a : Agent) (p q : BitVec 3) (b : Bool) :
    (a.setPred p b).pred q = (q == 0#3 || if q = p then b else a.pred q) := by
  by_cases hq : q = 0#3
  · subst hq; simp
  · by_cases hp : p = 0#3
    · have : q ≠ p := by simpa [hp] using hq
      simp [Agent.setPred, hp, hq, beq_iff_eq]
    · have hp8 : p.toNat < 8 := p.isLt
      have hq8 : q.toNat < 8 := q.isLt
      by_cases h : q = p
      · subst h
        cases b <;> simp [Agent.setPred, hp, Agent.pred, hp8]
      · have hne : q.toNat ≠ p.toNat := fun h' => h (BitVec.eq_of_toNat_eq h')
        have hsub : ¬ (q.toNat - p.toNat = 0 ∧ p.toNat ≤ q.toNat) := by omega
        cases b <;>
          · simp only [Agent.setPred, hp, Agent.pred, hq, h, if_false, if_true, BitVec.getLsbD_or, BitVec.getLsbD_and,
              BitVec.getLsbD_not, BitVec.getLsbD_shiftLeft, hq8, Bool.false_eq_true]
            by_cases hlt : q.toNat < p.toNat
            · simp [hlt, hq]
            · have : q.toNat - p.toNat ≠ 0 := by omega
              simp [hlt, hq, BitVec.getLsbD_one, this]

@[simp] theorem Agent.reg_setPred (a : Agent) (p : BitVec 3) (b : Bool) (r : Nat) : (a.setPred p b).reg r = a.reg r := by
  unfold Agent.setPred; split <;> rfl

@[simp] theorem Agent.reg_next (a : Agent) (r : Nat) : a.next.reg r = a.reg r := rfl

@[simp] theorem Agent.pred_next (a : Agent) (p : BitVec 3) : a.next.pred p = a.pred p := rfl

@[simp] theorem Agent.pc_next (a : Agent) : a.next.pc = a.pc + 4#64 := rfl

@[simp] theorem Agent.hints_next (a : Agent) : a.next.hints = {} := rfl

@[simp] theorem Agent.pc_setReg (a : Agent) (q : Nat) (x : Word) : (a.setReg q x).pc = a.pc := rfl

@[simp] theorem Agent.pc_setPair (a : Agent) (q : Nat) (x : DWord) : (a.setPair q x).pc = a.pc := rfl

@[simp] theorem Agent.pc_setPred (a : Agent) (p : BitVec 3) (b : Bool) : (a.setPred p b).pc = a.pc := by
  unfold Agent.setPred; split <;> rfl

@[simp] theorem State.v_modAg (s : State) (f : Agent → Agent) (r : Nat) : (s.modAg f).v r = (f s.ag).reg r := rfl

@[simp] theorem State.v_setV (s : State) (q r : Nat) (x : Word) : (s.setV q x).v r = if r = q then x else s.v r :=
  Agent.reg_setReg s.ag q r x

@[simp] theorem State.pred_setP (s : State) (p q : BitVec 3) (b : Bool) :
    (s.setP p b).pred q = (q == 0#3 || if q = p then b else s.pred q) := Agent.pred_setPred s.ag p q b

@[simp] theorem State.v_advance (s : State) (r : Nat) : s.advance.v r = s.v r := rfl

@[simp] theorem State.pred_advance (s : State) (p : BitVec 3) : s.advance.pred p = s.pred p := rfl

theorem written_nil {κ α : Type} [DecidableEq κ] (q : κ) (old : α) : written [] q old = old := rfl

theorem written_cons {κ α : Type} [DecidableEq κ] (w : κ × α) (ws : List (κ × α)) (q : κ) (old : α) :
    written (w :: ws) q old = if w.1 = q then w.2 else written ws q old := by
  unfold written
  rw [List.find?_cons]
  by_cases h : w.1 = q <;> simp [h]

/-! ### Special registers -/

theorem Agent.SameSpecial.refl (a : Agent) : a.SameSpecial a := ⟨rfl, rfl, rfl, rfl, rfl, rfl, rfl, rfl⟩

theorem Agent.SameSpecial.trans {a b c : Agent} (h : a.SameSpecial b) (k : b.SameSpecial c) : a.SameSpecial c :=
  ⟨k.link.trans h.link, k.trapCause.trans h.trapCause, k.trapPc.trans h.trapPc, k.trapAddr.trans h.trapAddr,
    k.handler.trans h.handler, k.eseqLast.trans h.eseqLast, k.domain.trans h.domain, k.status.trans h.status⟩

theorem Agent.sameSpecial_setReg (a : Agent) (q : Nat) (x : Word) : a.SameSpecial (a.setReg q x) :=
  ⟨rfl, rfl, rfl, rfl, rfl, rfl, rfl, rfl⟩

theorem Agent.sameSpecial_setPair (a : Agent) (q : Nat) (x : DWord) : a.SameSpecial (a.setPair q x) :=
  ⟨rfl, rfl, rfl, rfl, rfl, rfl, rfl, rfl⟩

theorem Agent.sameSpecial_setPred (a : Agent) (p : BitVec 3) (b : Bool) : a.SameSpecial (a.setPred p b) := by
  unfold Agent.setPred; split <;> exact ⟨rfl, rfl, rfl, rfl, rfl, rfl, rfl, rfl⟩

theorem Agent.sameSpecial_next (a : Agent) : a.SameSpecial a.next := ⟨rfl, rfl, rfl, rfl, rfl, rfl, rfl, rfl⟩

/-! ### The shared form of every word -/

theorem foldl_max_le (xs : List Nat) (m n : Nat) : xs.foldl max m ≤ n ↔ m ≤ n ∧ ∀ x ∈ xs, x ≤ n := by
  induction xs generalizing m with
  | nil => simp
  | cons x xs ih =>
    simp only [List.foldl_cons, ih, List.mem_cons, forall_eq_or_imp, Nat.max_le, and_assoc]

/-- The reach test of a word: every register it names is below the bound (R167). -/
theorem regsUpTo_le (rs : List Nat) (n : Nat) : regsUpTo rs ≤ n ↔ ∀ r ∈ rs, r < n := by
  simp only [regsUpTo, foldl_max_le, Nat.zero_le, true_and, List.mem_map, forall_exists_index, and_imp,
    forall_apply_eq_imp_iff₂]
  rfl

/-- WHAT A WORD DOES where its thread takes its effect: its body, settled (R20, R275). -/
theorem State.runWord_takes {s : State} {i : Instr} {d : Demand} {regs : List Nat} (body : State → Res)
    (h : s.Takes i d.hints regs) (hr : d.regs = regsUpTo regs) (hok : d.ok = true) (hk : d.runsIn s.kind = true)
    (ht : d.tadWait = false ∨ s.kind ≠ .tad) : s.runWord i d body = .next (s.settle i (body s)) := by
  have hl : s.legal i d = true := by
    have hm : s.ag.mates.all (s.mateOk i d.hints) = true := List.all_eq_true.2 h.mates
    simp only [State.legal, h.formed, h.hints, hm, hok, hk, hr, Bool.and_true, Bool.true_and, decide_eq_true_eq, regsUpTo_le]
    exact h.reach
  have hw : (d.tadWait && decide (s.kind = .tad)) = false := by
    rcases ht with ht | ht <;> simp [ht]
  unfold State.runWord
  split
  · exact absurd ‹_› h.thread
  · simp [hl, h.guard, hw]

/-- A word that any kind of thread runs. -/
theorem Demand.runsIn_all (k : AgentKind) (d : Demand) (h1 : d.team = true) (h2 : d.tad = true) (h3 : d.keeper = true) :
    d.runsIn k = true := by cases k <;> assumption

/-- A word whose body only changes its thread's registers and predicates completes with them written. -/
theorem State.completes_done (s : State) {a : Agent} {vs : List (Nat × Word)} {ps : List (BitVec 3 × Bool)}
    (hw : s.ag.Wrote a vs ps) (hs : s.ag.SameSpecial a) (hpc : a.pc = s.ag.pc) :
    s.Completes (State.advance { s with ag := a }) vs ps where
  only := rfl
  mem _ := rfl
  wrote := ⟨hw.regs, hw.preds⟩
  special := hs.trans a.sameSpecial_next
  pc := by simp [hpc]
  hints := rfl

theorem Agent.wrote_setReg (a : Agent) (q : Nat) (x : Word) : a.Wrote (a.setReg q x) [(q, x)] [] where
  regs r := by simp [written_cons, written_nil, eq_comm]
  preds p := by by_cases h : p = 0#3 <;> simp [h, written_nil]

theorem Agent.wrote_setPair (a : Agent) (q : Nat) (x : DWord) : a.Wrote (a.setPair q x) (pairOf q x) [] where
  regs r := by
    simp only [Agent.reg_setPair, pairOf, written_cons, written_nil]
    by_cases h : r = q + 1
    · subst h; simp [bits]
    · simp only [h, if_false]
      rw [if_neg (c := q + 1 = r) (fun h' => h h'.symm)]
      by_cases h' : r = q
      · subst h'; simp [bits]
      · rw [if_neg h', if_neg fun h'' => h' h''.symm]
  preds p := by by_cases h : p = 0#3 <;> simp [h, written_nil]

theorem Agent.wrote_setPred (a : Agent) (p : BitVec 3) (b : Bool) : a.Wrote (a.setPred p b) [] [(p, b)] where
  regs r := by simp [written_nil]
  preds q := by
    simp only [Agent.pred_setPred, written_cons, written_nil]
    by_cases h : q = p
    · subst h; simp
    · rw [if_neg h, if_neg fun h' => h h'.symm]

theorem Agent.wrote_nothing (a : Agent) : a.Wrote a [] [] where
  regs r := by simp [written_nil]
  preds q := by by_cases h : q = 0#3 <;> simp [h, written_nil]

/-- A thread whose registers and predicates are as before. -/
theorem Agent.wrote_same {a b : Agent} (hv : b.v = a.v) (hp : b.p = a.p) : a.Wrote b [] [] where
  regs r := by simp [Agent.reg, hv, written_nil]
  preds q := by by_cases h : q = 0#3 <;> simp [Agent.pred, hp, h, written_nil]

/-- A word that writes one v register. -/
theorem State.regOp_gives {s : State} {i : Instr} {regs : List Nat} {d : BitVec 8} {f : State → Word} {x : Word}
    (he : exec i s = s.regOp i regs d f) (hx : f s = x) : s.Gives i {} (vn d :: regs) [(vn d, x)] [] := fun h =>
  ⟨_, he.trans (State.runWord_takes _ h rfl rfl (Demand.runsIn_all _ _ rfl rfl rfl) (.inl rfl)),
    hx ▸ State.completes_done s (Agent.wrote_setReg _ _ _) (Agent.sameSpecial_setReg _ _ _) rfl⟩

/-- A word that writes one v register from an immediate. -/
theorem State.immOp_gives {s : State} {i : Instr} {d a : BitVec 8} {imm : BitVec 9} {f : Word → Word} {x : Word}
    (he : exec i s = s.immOp i d a f imm) (hx : f (s.ag.hints.imm imm) = x) :
    s.Gives i withImm [vn d, vn a] [(vn d, x)] [] := fun h =>
  ⟨_, he.trans (State.runWord_takes _ h rfl rfl (Demand.runsIn_all _ _ rfl rfl rfl) (.inl rfl)),
    hx ▸ State.completes_done s (Agent.wrote_setReg _ _ _) (Agent.sameSpecial_setReg _ _ _) rfl⟩

/-- A word that writes a pair from pairs. -/
theorem State.pairOp_gives {s : State} {i : Instr} {d a b : BitVec 7} {f : DWord → DWord → DWord} {x : DWord}
    (he : exec i s = s.pairOp i d a b f) (hx : f (s.pair (pn a)) (s.pair (pn b)) = x) :
    s.Gives i {} [pn d + 1, pn a + 1, pn b + 1] (pairOf (pn d) x) [] := fun h =>
  ⟨_, he.trans (State.runWord_takes _ h rfl rfl (Demand.runsIn_all _ _ rfl rfl rfl) (.inl rfl)),
    hx ▸ State.completes_done s (Agent.wrote_setPair _ _ _) (Agent.sameSpecial_setPair _ _ _) rfl⟩

/-- A word that writes one predicate. -/
theorem State.predWord_gives {s : State} {i : Instr} {d : Demand} {regs : List Nat} {p : BitVec 3} {f : State → Bool}
    {x : Bool} (he : exec i s = s.runWord i d fun s => .done (s.setP p (f s))) (hr : d.regs = regsUpTo regs)
    (hok : d.ok = true) (h1 : d.team = true) (h2 : d.tad = true) (h3 : d.keeper = true) (h4 : d.tadWait = false)
    (hx : f s = x) : s.Gives i d.hints regs [] [(p, x)] := fun h =>
  ⟨_, he.trans (State.runWord_takes _ h hr hok (Demand.runsIn_all _ _ h1 h2 h3) (.inl h4)),
    hx ▸ State.completes_done s (Agent.wrote_setPred _ _ _) (Agent.sameSpecial_setPred _ _ _) (Agent.pc_setPred _ _ _)⟩

end Sys2Proof.Machine
end

