-- ==== Sys2Proof/Tests/Slice0.lean ====
section
/-! SUPPORT. Tests: words of the spec decoded, ill-formed terms refused, worked examples of the spec on one step, and
for every statement with hypotheses a witness that meets them, one for each of its clauses. -/

namespace Sys2Proof.Tests

set_option Elab.async false

open Sys2Proof.Machine

/-! ### Small states -/

/-- A leaf entry that maps the page at 0 onto itself, every permission granted, ACC and DIRTY set, of a region class. -/
def leaf (cls : Nat) : DWord := BitVec.ofNat 64 (0x39F + 32 * cls)

/-- The translation of page 0 of address space 0. -/
def tlbOf (cls : Nat) : List TlbEntry := [{ asid := 0, page := 0, pte := leaf cls, level := 0 }]

/-- A launch with a dispatch table of four entries at 0x100. -/
def launch0 : Launch :=
  { record := { dtab := 0x100, dtlen := 4, teamX := 8, teamY := 4, teamZ := 2, gridX := 1, gridY := 1, gridZ := 1 },
    queue := 0, asid := 0, prio := 0, order := 0 }

/-- A team with some lanes, 64 KiB of team memory. -/
def teamOf (lanes : NMap Agent) : Team := { soleTeam with nlanes := 64, tmem := 65536, lanes := lanes }

/-- Core 0 with a team of launch 0 in slot 0, page 0 translated and its lines in the L2; no thread is being executed. -/
def quiet (lanes : NMap Agent) : State :=
  { cores := [(0, { teams := [(0, teamOf lanes)] })], launches := [(0, launch0)], tlb := tlbOf 2, ptroots := [(0, { valid := true })],
    l2 := (List.range 32).map fun i => (i, [{ line := i, wts := 0#64, rts := 0#64 }]) }

/-- Lane 0 of that team being executed, with some v registers. -/
def lane (v : NMap Word) : State := { quiet [(0, {})] with cur := .lane 0 0 0, ag := { v := v } }

/-- A tadpole of lane 0's bulk read, its lane 0 being executed. -/
def tad : State :=
  let t : Tadpole := { seq := 1#32, burst := 0, slot := 0, lane := 0, lanes := [(0, {}), (1, {})] }
  { quiet [] with cores := [(0, { teams := [(0, teamOf [(0, {})])], tads := [(3, t)] })], cur := .tad 0 3 0 }

/-- The routine context 1 of launch 0 being executed, with records not yet taken. -/
def routine (records : List EventRec) (v : NMap Word) : State :=
  let x : KeeperCtx := { launch := some 0, ag := {}, records := records }
  { quiet [] with cores := [(0, { teams := [(0, teamOf [(0, {})])], contexts := [(1, x)] })], cur := .keeper 0 1,
                  ag := { v := v } }

def hinted (s : State) (h : Hints) : State := { s with ag := { s.ag with hints := h } }

/-- A word takes its effect, by its checks evaluated. -/
def takes? (s : State) (w : Instr × HintUse × List Nat) : Bool :=
  decide (s.cur ≠ .none) && w.1.wellFormed && s.ag.hints.fits w.2.1 && (s.ag.mates.all fun h => s.mateOk w.1 w.2.1 h) && (w.2.2.all fun r => decide (r < s.reach)) && s.guardHolds

theorem takes {s : State} {w : Instr × HintUse × List Nat} (h : takes? s w = true) : s.Takes w.1 w.2.1 w.2.2 := by
  simp only [takes?, Bool.and_eq_true, decide_eq_true_eq, List.all_eq_true] at h
  exact ⟨h.1.1.1.1.1, h.1.1.1.1.2, h.1.1.1.2, h.1.1.2, h.1.2, h.2⟩

theorem takes_all {s : State} {ws : List (Instr × HintUse × List Nat)} (h : ws.all (takes? s) = true) :
    ∀ w ∈ ws, s.Takes w.1 w.2.1 w.2.2 := fun w hw => takes (List.all_eq_true.mp h w hw)

/-- Whether an access gives bytes, or another value, that `ok` holds of. -/
def gives? {α : Type} (ok : State → α → Bool) : Got α → Bool
  | .ok s x => ok s x
  | _ => false

theorem gives {α : Type} {ok : State → α → Bool} {g : Got α} (h : gives? ok g = true) :
    ∃ s x, g = .ok s x ∧ ok s x = true := by
  cases g with
  | ok s x => exact ⟨s, x, rfl, h⟩
  | trap | page | bad | peer | again => simp [gives?] at h

def Got.fails {α : Type} : Got α → Nat
  | .ok _ _ => 0
  | .trap _ _ => 1
  | .page _ _ => 2
  | .bad _ _ => 3
  | .peer _ => 4
  | .again _ => 5

theorem traps {α : Type} {g : Got α} (h : Got.fails g = 1) : ∃ c x, g = .trap c x := by
  cases g <;> simp_all [Got.fails]

theorem bads {α : Type} {g : Got α} (h : Got.fails g = 3) : ∃ x p, g = .bad x p := by
  cases g <;> simp_all [Got.fails]

theorem peers {α : Type} {g : Got α} (h : Got.fails g = 4) : ∃ s, g = .peer s := by
  cases g <;> simp_all [Got.fails]

theorem pages {α : Type} {g : Got α} (h : Got.fails g = 2) : ∃ s w, g = .page s w := by
  cases g <;> simp_all [Got.fails]

/-- An access lies where `Lands` asks for it, by its checks evaluated. -/
def lands? (s : State) (w : Who) (need : Need) (va n pa cls : Nat) : Bool :=
  (s.ptroot w.asid).valid &&
  (match s.tlb.find? fun t => t.asid = w.asid && t.page = va / 4096 with
    | some e => pteGrants e.pte need && (!need.writes || pteBit e.pte 9) && (mappedOf e.pte e.level va).pa == pa &&
        (mappedOf e.pte e.level va).cls == cls
    | none => false) && decide (0 < n) && decide (va + n ≤ 2 ^ 56) && decide (va % 128 + n ≤ 128) && paRange pa == .local_ &&
  (s.l2Line (pa / 128)).owner.isNone && (match s.l1Line (w.l1Core (pa / 128)) (pa / 128) with
    | some c => !c.dirty
    | none => true) && !s.netBusy && s.ag.parts.isNone && s.agenda.isEmpty && s.rmws.isEmpty

theorem lands {s : State} {w : Who} {need : Need} {va n pa cls : Nat} (h : lands? s w need va n pa cls = true) :
    s.Lands w need va n pa cls := by
  simp only [lands?, Bool.and_eq_true, decide_eq_true_eq, beq_iff_eq, Bool.not_eq_true', Option.isNone_iff_eq_none,
    List.isEmpty_iff] at h
  obtain ⟨⟨⟨⟨⟨⟨⟨⟨⟨⟨⟨hr, hm⟩, hn⟩, hs⟩, hl⟩, hp⟩, ho⟩, hc⟩, hb⟩, hg⟩, ha⟩, hw⟩ := h
  refine ⟨hr, ?_, hn, hs, hl, hp, ho, fun c e => ?_, hb, hg, ha, hw⟩
  · split at hm
    · rename_i e he
      simp only [Bool.and_eq_true, beq_iff_eq, Bool.or_eq_true, Bool.not_eq_true'] at hm
      exact ⟨e, he, hm.1.1.1, fun w => hm.1.1.2.resolve_left (by simp [w]), hm.1.2, hm.2⟩
    · cases hm
  · simp only [e, Bool.not_eq_true'] at hc
    exact hc

/-- A state in which page 0 of address space 0 is mapped onto itself, coherent, its lines unpoisoned and no engine's. -/
structure PageZero (s : State) : Prop where
  tlb : s.tlb = tlbOf 2
  asid : s.who.asid = 0
  root : (s.ptroot 0).valid = true
  clean : s.poison = []
  unowned : ∀ line < 32, (s.l2Line line).owner = none

theorem leaf_target (va : Nat) (h : va < 4096) : mappedOf (leaf 2) 0 va = { pa := va, cls := 2, cache := true } := by
  have hp : ptePpn (leaf 2) = 0 := by decide
  have hb : pteBit (leaf 2) 10 = false := by decide
  have hc : pteBit (leaf 2) 7 = true := by decide
  have hd : (leaf 2).toNat / 32 % 4 = 2 := by decide
  simp [mappedOf, pteTarget, hp, hb, hc, hd, leafLog, Nat.mod_eq_of_lt h]

theorem PageZero.entryOf {s : State} (z : PageZero s) {va : Nat} (h : va < 4096) :
    s.entryOf va = some { asid := 0, page := 0, pte := leaf 2, level := 0 } := by
  simp [State.entryOf, z.tlb, z.asid, tlbOf, Nat.div_eq_of_lt h]

theorem PageZero.paOf {s : State} (z : PageZero s) {va : Nat} (h : va < 4096) : s.paOf va = va := by
  simp [State.paOf, z.entryOf h, leaf_target va h]

theorem PageZero.shared {s : State} (z : PageZero s) (need : Need) {va n : Nat} (h : va + n ≤ 4096)
    (hn : need = .rd ∨ need = .rw) : s.Shared need va n := by
  refine ⟨by rw [z.asid]; exact z.root, by omega, fun x h1 h2 => ?_, fun x h1 h2 => ?_, fun x h1 h2 => ?_⟩ <;>
    have hx : x < 4096 := by omega
  · refine ⟨_, z.entryOf hx, ?_, fun _ => by decide, by rw [leaf_target x hx], ?_⟩
    · rcases hn with rfl | rfl <;> decide
    · rw [z.paOf hx]; simp only [paRange]; rw [if_pos (by omega)]
  · have none_ : ∀ n a, s.firstPoison a n = none := by
      intro n
      induction n with
      | zero => intro a; rfl
      | succ n ih => intro a; simp [State.firstPoison, State.poisoned, z.clean, NMap.get, ih]
    exact none_ _ _
  · rw [z.paOf hx]; exact z.unowned _ (by omega)

/-- The state an instruction leaves. -/
def after (i : Instr) (s : State) : State :=
  match exec i s with
  | .next t => t
  | _ => s

/-- The register of the thread after a word. -/
def gets (i : Instr) (r : Nat) (s : State) : Word := (after i s).ag.reg r

/-! ### Words written out from the encodings of the spec -/

-- The listing words of chapter 15 and the worked words of chapter 16: formats of R268 to R270, majors of R271.
theorem test_words_integer :
    decode 0x02080A0C#32 = .ok (.iadd 4#8 5#8 6#8) ∧ decode 0x46040E10#32 = .ok (.isel 3#3 2#8 7#8 8#8 0#1) ∧
    decode 0x380A0E13#32 = .ok (.lea 2#7 3#2 3#7 9#8 1#1) ∧ decode 0x3C1401FF#32 = .ok (.movi 10#8 0x1FF#9) ∧
    decode 0x52020000#32 = .ok (.icmpi 0#2 0#3 1#3 0#8 0#9) ∧ decode 0x50A20C1E#32 = .ok (.icmp 1#2 2#3 1#3 6#8 15#8) ∧
    decode 0x24100008#32 = .ok (.ishri 8#8 0#8 8#9) := by decide

theorem test_words_control :
    decode 0x613FFFC0#32 = .ok (.brp 4#3 1#1 0x1FFFC0#21) ∧ decode 0x62000100#32 = .ok (.call 0x100#21) ∧
    decode 0x68000020#32 = .ok .exit ∧ decode 0x6A000022#32 = .ok (.jwait 2#4) ∧
    decode 0x76140406#32 = .ok (.vred 10#8 0#4 2#4 3#8) ∧ decode 0x74020004#32 = .ok (.elect 1#3 2#8) := by decide

theorem test_words_float :
    decode 0x82080A0C#32 = .ok (.fadd 1#2 4#8 5#8 6#8) ∧ decode 0x82080A0D#32 = .ok (.fsub 1#2 4#8 5#8 6#8) ∧
    decode 0x90080A0C#32 = .ok (.ffma 0#2 4#8 5#8 6#8) ∧ decode 0x9A220406#32 = .ok (.fcmp 2#3 1#3 2#8 3#8) ∧
    decode 0x9C080A31#32 = .ok (.fsqrt 4#8 5#8 1#3) ∧ decode 0x9C080C75#32 = .ok (.fmovm 4#8 6#8 1#2 1#2) ∧
    decode 0xA2080A0D#32 = .ok (.hfma2 4#8 5#8 6#8 1#1) ∧ decode 0xA80A0C10#32 = .ok (.dadd 2#7 2#2 3#7 4#7) ∧
    decode 0xA8080C13#32 = .ok (.dfma 2#7 0#2 3#7 4#7) ∧ decode 0xB0080B14#32 = .ok (.cvt 0#3 4#8 5#8 8#4 10#4) ∧
    decode 0xBA06080C#32 = .ok (.drel 3#8 2#7 3#7) ∧ decode 0xBC501021#32 = .ok (.qdxb 40#8 8#8 1#1 0#1 0#1 1#3) ∧
    decode 0xBE285060#32 = .ok (.dqdxb 20#8 40#8 48#8 0#1) := by decide

theorem test_words_memory :
    decode 0xC0100883#32 = .ok (.ld 8#8 2#7 2#3 3#6) ∧ decode 0xC210087F#32 = .ok (.ldSigned 8#8 2#7 1#1 0x3F#6) ∧
    decode 0xC4140CE0#32 = .ok (.st 10#8 3#7 3#3 0x20#6) ∧ decode 0xC6140680#32 = .ok (.ldt 10#8 3#8 2#3 0#6) ∧
    decode 0xCC101828#32 = .ok (.xld 8#8 12#8 10#7) ∧ decode 0xE0100920#32 = .ok (.atom 8#8 4#8 9#4 0#2 0#1) ∧
    decode 0xE00A0601#32 = .ok (.atom 5#8 3#8 0#4 0#2 1#1) ∧ decode 0xE20C0400#32 = .ok (.red 6#8 2#8 0#4 0#2 0#1) ∧
    decode 0xE4100800#32 = .ok (.atomf 8#8 4#8 0#4 0#2 0#1) ∧ decode 0xE8000002#32 = .ok (.fence 2#2) ∧
    decode 0xEA100840#32 = .ok (.waitc 8#8 2#7 2#4 0#2) ∧ decode 0xD0000800#32 = .ok (.cflush 2#7) := by decide

theorem test_words_barriers_engines :
    decode 0xEE140401#32 = .ok (.balloc 10#8 2#3 1#9) ∧ decode 0xEC001420#32 = .ok (.barr 10#8 0#4) ∧
    decode 0xEC001455#32 = .ok (.bwait 10#8 5#3) ∧ decode 0xEC000070#32 = .ok .tbar ∧
    decode 0xF014080C#32 = .ok (.brdhLin 10#8 2#7 1#1 4#3) ∧ decode 0xF0140821#32 = .ok (.tcpy 10#8 2#7 0#1 1#3) ∧
    decode 0xF2280601#32 = .ok (.mma 20#8 3#8 1#3) ∧ decode 0xF22A0A42#32 = .ok (.acq 21#8 5#8 2#3) ∧
    decode 0xF2380620#32 = .ok (.acst 28#8 3#8 0#4) ∧ decode 0xF4181013#32 = .ok (.wapp 3#6 4#7 3#3) ∧
    decode 0xF6000000#32 = .ok .tend := by decide

theorem test_words_clutch_system :
    decode 0xF8100801#32 = .ok (.clins 8#8 2#7 1#3) ∧ decode 0xF8100822#32 = .ok (.clnext 8#8 2#7 2#3) ∧
    decode 0xF8180850#32 = .ok (.clstat 3#6 2#7) ∧ decode 0xF8200C83#32 = .ok (.frag 16#8 3#7 3#3) ∧
    decode 0xF8280CA1#32 = .ok (.rslv 5#6 3#7 1#1) ∧ decode 0xF8400900#32 = .ok (.isect 32#8 2#7) ∧
    decode 0xF8400110#32 = .ok (.isnext 32#8) ∧ decode 0xF8000120#32 = .ok (.tcov 0#8) ∧
    decode 0xFA000000#32 = .ok (.mfs 0#8 0x000#12) ∧ decode 0xFA164000#32 = .ok (.mfs 11#8 0x020#12) ∧
    decode 0xFA0C6410#32 = .ok (.mts 6#8 0x032#12) ∧ decode 0xFA000A20#32 = .ok (.trap 5#8) ∧
    decode 0xFA000030#32 = .ok .eret ∧ decode 0xFA000040#32 = .ok .brk ∧ decode 0xFA0000C0#32 = .ok .idle ∧
    decode 0xFA080091#32 = .ok (.evpeek 1#6 1#3) ∧ decode 0xFA0004A1#32 = .ok (.trel 2#8 1#3) ∧
    decode 0xFA0004B1#32 = .ok (.tkill 2#8 1#3) := by decide

theorem test_words_hints :
    decode 0xFE00006F#32 = .ok (.hintImm20 0x6F#21) ∧ decode 0xFE200002#32 = .ok (.hintGuard 0#1 2#3) ∧
    decode 0xFE400014#32 = .ok (.hintC4 20#8) ∧ decode 0xFE800003#32 = .ok (.hintScope 3#2) ∧
    decode 0xFEA00004#32 = .ok (.hintDxbd 4#4) ∧ decode 0xFE600003#32 = .error .malformedHint ∧
    decode 0xFEA00000#32 = .error .malformedHint := by decide

-- Words that the spec calls ILLEGAL: FRSQ with SUB4 1, an unassigned operation of major 0x55, RSLV with SUB4<1>, MFS of
-- CYCLES into an odd register, majors 0x00 and 0x7E.
theorem test_words_refused :
    instrOfWord 0x9C080A41#32 = .wordLevelIllegal 0x9C080A41#32 ∧
    instrOfWord 0xAA0A0C13#32 = .wordLevelIllegal 0xAA0A0C13#32 ∧
    instrOfWord 0xF8280CA3#32 = .wordLevelIllegal 0xF8280CA3#32 ∧
    instrOfWord 0xFA0A2000#32 = .wordLevelIllegal 0xFA0A2000#32 ∧
    decode 0#32 = .error .unassignedMajor ∧ decode 0xFC000000#32 = .error .unassignedMajor := by decide

/-! ### Ill-formed terms -/

-- One term for each check of `Instr.wellFormed`: every one is refused.
theorem test_ill_formed :
    ([Instr.brp 0#3 0#1 5#21, .icmp 0#2 6#3 1#3 0#8 0#8, .icmp 2#2 0#3 1#3 2#8 3#8, .icmp 3#2 0#3 1#3 1#8 2#8,
      .icmpi 0#2 7#3 1#3 0#8 0#9, .icmpi 2#2 0#3 1#3 5#8 0#9, .vmatch 0#8 3#8 0#8 1#1, .vred 0#8 3#4 0#4 0#8,
      .vscan 0#8 0#4 3#4 0#8, .vscan 0#8 6#4 3#4 0#8, .frnd 0#8 0#8 4#3, .fsqrt 0#8 0#8 4#3, .dsqrt 0#7 0#7 4#3,
      .drnd 0#7 0#7 5#3, .fmovm 1#8 2#8 1#2 0#2, .fmovm 2#8 1#8 1#2 0#2, .cvt 5#3 0#8 0#8 0#4 0#4,
      .cvt 0#3 0#8 0#8 12#4 0#4, .cvt 0#3 0#8 0#8 0#4 12#4, .cvt 0#3 0#8 0#8 3#4 0#4, .cvt 0#3 0#8 0#8 0#4 11#4,
      .cvtd 5#3 0#8 0#8 3#4 0#4, .cvtd 0#3 0#8 0#8 12#4 3#4, .cvtd 0#3 0#8 0#8 3#4 12#4, .cvtd 0#3 0#8 0#8 0#4 0#4,
      .cvtd 0#3 1#8 0#8 7#4 0#4, .cvtd 0#3 0#8 1#8 0#4 7#4, .qdxb 0#8 0#8 0#1 0#1 1#1 0#3]).all
      (fun i => !i.wellFormed) = true := by decide

theorem test_ill_formed_accesses :
    ([Instr.ld 0#8 0#7 5#3 0#6, .ld 1#8 0#7 3#3 0#6, .ld 2#8 0#7 4#3 0#6, .st 1#8 0#7 3#3 0#6,
      .ldt 2#8 0#8 4#3 0#6, .stt 0#8 0#8 7#3 0#6, .atom 0#8 0#8 12#4 0#2 0#1, .atom 0#8 0#8 0#4 3#2 0#1,
      .atom 0#8 0#8 0#4 2#2 0#1, .atom 1#8 0#8 0#4 1#2 0#1, .atom 0#8 1#8 0#4 0#2 0#1, .red 0#8 0#8 9#4 0#2 0#1,
      .red 0#8 0#8 12#4 0#2 0#1, .red 0#8 0#8 0#4 2#2 0#1, .red 1#8 0#8 0#4 1#2 0#1, .red 0#8 1#8 0#4 0#2 0#1,
      .atomf 0#8 0#8 0#4 2#2 0#1, .atomf 0#8 0#8 3#4 1#2 0#1, .redf 0#8 0#8 5#4 0#2 0#1, .redf 1#8 0#8 0#4 1#2 0#1,
      .atomf 0#8 1#8 0#4 0#2 0#1, .waitc 0#8 0#7 6#4 0#2, .waitc 0#8 0#7 0#4 2#2, .waitc 1#8 0#7 0#4 1#2,
      .mfs 0#8 0x00C#12, .mfs 1#8 0x010#12, .mts 1#8 0x032#12, .mts 0#8 0x033#12, .hintCache 3#2, .hintDxbd 0#4]).all
      (fun i => !i.wellFormed) = true := by decide

/-! ### Worked examples of the spec -/

-- Chapter 17, the table after R312: a conversion from FP32, or from the type named.
def converted (r : BitVec 3) (t st : BitVec 4) (x : Word) : Word := gets (.cvt r 4#8 5#8 t st) 4 (lane [(5, x)])

theorem test_cvt_to_integer :
    converted 1#3 0#4 10#4 0x4396599A#32 = 0x7F#32 ∧ converted 0#3 5#4 10#4 0xC0600000#32 = 0#32 ∧
    converted 2#3 2#4 10#4 0xC0200000#32 = 0xFFFFFFFE#32 ∧ converted 0#3 2#4 10#4 0x40200000#32 = 2#32 ∧
    converted 0#3 2#4 10#4 0x7FC00001#32 = 0#32 ∧ converted 0#3 2#4 10#4 0xFF800000#32 = 0x80000000#32 ∧
    converted 0#3 0#4 2#4 0xFFFFFF38#32 = 0xFFFFFF80#32 ∧ converted 0#3 2#4 6#4 0x80000000#32 = 0x7FFFFFFF#32 := by decide

theorem test_cvt_to_float :
    converted 0#3 8#4 10#4 0x4788B800#32 = 0x7C00#32 ∧ converted 1#3 8#4 10#4 0x4788B800#32 = 0x7BFF#32 ∧
    converted 0#3 9#4 10#4 0x3F808000#32 = 0x3F80#32 ∧
    gets (.cvtd 0#3 4#8 6#8 10#4 3#4) 4 (lane [(6, 1#32), (7, 0x00200000#32)]) = 0x5A000000#32 := by decide

-- Chapter 17, a block through QDXB and DQDXB.
def block : NMap Word :=
  [(8, 0x41400000#32), (9, 0xBDCCCCCD#32), (10, 0x3E4CCCCD#32), (11, 0x3E800000#32), (12, 0x3A83126F#32), (13, 0x41780000#32)]

theorem test_qdxb_block :
    let t := after (.qdxb 40#8 8#8 0#1 0#1 0#1 1#3) (lane block)
    t.v 40 = 0x10BDF53C#32 ∧ t.v 41 = 0x3F84#32 ∧ t.v 42 = 0#32 ∧ t.v 48 = 0x787E#32 ∧ t.pred 1#3 = true := by decide

theorem test_dqdxb_block :
    let t := after (.dqdxb 20#8 40#8 48#8 0#1) (lane [(40, 0x10BDF53C#32), (48, 0x787E#32)])
    [t.v 20, t.v 21, t.v 22, t.v 23] = [0x41400000#32, 0xBDD00000#32, 0x3E500000#32, 0x3E800000#32] := by decide

-- R282: the absolute value of 0x8000_0000; R283: a count of 32, and IROL's count modulo 32.
theorem test_integer_corners :
    gets (.iabs 1#8 2#8) 1 (lane [(2, 0x80000000#32)]) = 0x80000000#32 ∧
    gets (.ishl 1#8 2#8 3#8) 1 (lane [(2, 1#32), (3, 32#32)]) = 0#32 ∧
    gets (.isar 1#8 2#8 3#8) 1 (lane [(2, 0x80000000#32), (3, 32#32)]) = 0xFFFFFFFF#32 ∧
    gets (.irol 1#8 2#8 3#8) 1 (lane [(2, 0x80000001#32), (3, 33#32)]) = 3#32 ∧
    gets (.iadd 2#8 2#8 2#8) 2 (lane [(2, 0x80000001#32)]) = 2#32 := by decide

/-! ### Witnesses: what the hypotheses of each statement ask is met by a small state -/

theorem witness_DecodeAndEncode :
    (Instr.iadd 255#8 0#8 255#8).hasWord = true ∧ (Instr.iadd 255#8 0#8 255#8).wellFormed = true ∧
    decode 0x02080A0C#32 = .ok (.iadd 4#8 5#8 6#8) := by decide

theorem witness_HintsAndRefusals :
    (lane []).cur ≠ .none ∧ Instr.nop.isWord = true ∧ (hinted (lane []) { twice := true }).ag.hints.twice = true ∧
    (hinted (lane []) { malformed := true }).ag.hints.malformed = true ∧ (Instr.mfs 0#8 0xFFF#12).wellFormed = false ∧
    (Instr.wordLevelIllegal 0#32).isWord = true ∧ (hinted (lane []) { guard := some 0x1#4 }).guardHolds = false ∧
    [0x00000000#32, 0x58000000#32, 0x5E000000#32, 0x78000000#32, 0x7E000000#32, 0xAC000000#32, 0xAE000000#32, 0xD2000000#32,
      0xDE000000#32, 0xFC000000#32].map opcode = [0, 0x2C, 0x2F, 0x3C, 0x3F, 0x56, 0x57, 0x69, 0x6F, 0x7E] ∧
    [0xFEC00000#32, 0xFFE00000#32].map (fun w => (opcode w, (bits w 21 4).toNat)) = [(0x7F, 6), (0x7F, 15)] := by decide

-- A guard that is false before words that take their effect under p0; a bundle of which another lane's set is malformed.
theorem witness_HintsAndRefusals_guard :
    let s := hinted (lane []) { guard := some 0x1#4 }
    let p0 := hinted (lane []) { guard := some 0#4 }
    s.guardHolds = false ∧ s.cur ≠ .none ∧ s.kind = .team ∧ (after .nop p0).ag.pc ≠ (p0.takeTrap .illegal ((encode .nop).setWidth 64)).ag.pc ∧
    ([(.iadd 255#8 0#8 254#8, {}, [255, 0, 254]), (.ld 4#8 1#7 4#3 0#6, withAccess, [7, 3]), (.st 4#8 1#7 0#3 0#6, withAccess, [4, 3]), (.ret, {}, []),
      (.movi 1#8 0#9, withImm, [1]), (.clins 8#8 1#7 0#3, {}, [15, 3]), (.isect 32#8 1#7, {}, [63, 3]), (.vbal 1#8 0#1 0#3 3#8, {}, [1, 3]),
      (.tbar, {}, []), (.exit, {}, [])].all (takes? p0)) = true ∧
    (∃ h ∈ ({ lane [] with ag := { mates := [{ malformed := true }] } } : State).ag.mates, h.twice = true ∨ h.malformed = true) :=
  ⟨by decide, by decide, by decide, by decide +kernel, by decide +kernel, { malformed := true }, by decide, by decide⟩

-- A bundle of which another lane's payload the word refuses: an addend beyond the reach of a tadpole, of no pair, a
-- misaligned compare register, a scope WAITC has not, no lease; a guard before BR.
theorem witness_HintsAndRefusals_mates :
    let c4 := fun (x : BitVec 8) => ({ c4 := some x } : Hints)
    let mates := fun (s : State) (h : Hints) => ({ s with ag := { s.ag with mates := [h] } } : State)
    (mates tad (c4 200#8)).cur ≠ .none ∧ (mates tad (c4 200#8)).reach ≤ (200#8).toNat ∧ (5#8).toNat % 2 = 1 ∧
    (3#8).toNat % 2 ^ (1#2).toNat ≠ 0 ∧ (c4 3#8) ∈ (mates (lane []) (c4 3#8)).ag.mates ∧ (mates (lane []) (c4 3#8)).cur ≠ .none ∧
    ({ scope := some 0#2 } : Hints) ∈ (mates (lane []) { scope := some 0#2 }).ag.mates ∧
    ({ imm20 := some 0#21 } : Hints) ∈ (mates (lane []) { imm20 := some 0#21 }).ag.mates ∧
    (∃ h ∈ (mates (lane []) { guard := some 1#4 }).ag.mates, h.guard ≠ none) :=
  ⟨by decide, by decide, by decide, by decide, by decide, by decide, by decide, by decide, _, List.mem_singleton.2 rfl, by decide⟩

/-- A lane about to run a NOP, and a state about to take an event. -/
def lanesTurn : State :=
  let a : Agent := { loopBuf := [(0#64, 0x68000000#32)] }
  { quiet [(0, a)] with agenda := [.lane (.lane 0 0 0)] }

def eventsTurn (i : Instr) : State := { (quiet []) with agenda := [.event i] }

/-- A routine context whose word, a NOP, stands at its program counter in memory. -/
def contextsTurn : State := { (routine [] []) with
  mem := [(3, 0x68#8)], cur := .none, ag := {}, agenda := [.lane (.keeper 0 1)] }

theorem witness_StepRunsTheWord :
    (∃ a t, lanesTurn.agentAt (.lane 0 0 0) = some a ∧ a.status = .ready ∧ a.pendTrap = none ∧
      decode 0x68000000#32 = .ok .nop ∧ a.wordAt a.pc = some 0x68000000#32 ∧
      exec .nop { lanesTurn with agenda := [], cur := .lane 0 0 0, ag := a } = .next t) :=
  ⟨{ loopBuf := [(0#64, 0x68000000#32)] }, _, by decide, by decide, by decide, by decide, by decide, rfl⟩

theorem witness_StepRunsTheWord_keeper :
    let s := { contextsTurn with agenda := [] }
    let y : Mapped := { pa := 0, cls := 2, cache := true }
    ∃ a x t, contextsTurn.agentAt (.keeper 0 1) = some a ∧ a.status = .ready ∧ a.pendTrap = none ∧
      (contextsTurn.core 0).contexts.find? 1 = some x ∧ x.launch = some 0 ∧ a.pc.toNat + 4 ≤ 2 ^ 56 ∧
      s.translate (s.asidOf 0) .ex a.pc.toNat = some (s, y) ∧
      s.fetchBad { va := 0, pa := 0, len := 4, cls := y.cls, cache := y.cache } = none ∧
      BitVec.ofNat 32 (s.numAt 0 4) = 0x68000000#32 ∧ exec .nop { s with cur := .keeper 0 1, ag := a } = .next t :=
  ⟨{}, { launch := some 0, ag := {} }, _, by decide, by decide, by decide, by decide, by decide, by decide, by decide,
    by decide, by decide, rfl⟩

-- A lane between the parts of an instruction; a routine whose k has not come.
theorem witness_StepRunsTheWord_parts :
    let a : Agent := { status := .parked (.mid 0x68000000#32) }
    let s : State := { quiet [(0, a)] with agenda := [.lane (.lane 0 0 0)] }
    s.agentAt (.lane 0 0 0) = some a ∧ (∀ d k, Instr.nop ≠ .movk d k) ∧
    ∃ t, exec .nop { s with agenda := [], cur := .lane 0 0 0, ag := { a with status := .ready } } = .next t :=
  ⟨by decide, by intros; simp, _, rfl⟩

theorem witness_StepRunsTheWord_together :
    ({ quiet [(0, {}), (1, {})] with agenda := [.together [.lane 0 0 0, .lane 0 0 1]] } : State).agenda =
      .together [.lane 0 0 0, .lane 0 0 1] :: [] := rfl

theorem witness_StepRunsTheWord_event :
    (isEvent (.patrolScrub 0) = true ∧ mayWait (.patrolScrub 0) = false ∧
      (∃ t, exec (.patrolScrub 0) { eventsTurn (.patrolScrub 0) with agenda := [] } = .next t)) ∧
    isEvent .invalComplete = true ∧ mayWait .invalComplete = true ∧
      ∃ t, exec .invalComplete { eventsTurn .invalComplete with agenda := [] }.drawn = .next t :=
  ⟨⟨by decide, by decide, _, rfl⟩, by decide, by decide, _, rfl⟩

theorem witness_EveryStep :
    Memory.wf (({} : State).withFetchWord 32 0x68000000).mem = true ∧
    ∃ t, step (({} : State).withFetchWord 32 0x68000000) = .next t := ⟨by decide, _, rfl⟩

/-- The forms of the integer words, at the ends of the register fields. -/
def integerForms : List (Instr × HintUse × List Nat) :=
  let d := 255#8
  let a := 0#8
  let b := 254#8
  let three := [255, 0, 254]
  [(.iadd d a b, {}, three), (.isub d a b, {}, three), (.imul d a b, {}, three), (.imad d a b, withC4, three ++ [255]),
   (.imin d a b 0#1, {}, three), (.imax d a b 1#1, {}, three), (.iand d a b, {}, three), (.ior d a b, {}, three),
   (.ixor d a b, {}, three), (.inot d a, {}, three), (.iabs d a, {}, three), (.mov d a, {}, three),
   (.imulh d a b 0#1, {}, three), (.imulh d a b 1#1, {}, three), (.ipopc d a, {}, three), (.iclz d a, {}, three),
   (.ibrev d a, {}, three)]

theorem witness_IntegerRegisterWords : ∀ w ∈ integerForms, (lane []).Takes w.1 w.2.1 w.2.2 := takes_all (by decide +kernel)

-- With a C4 hint, a guard that holds, and in a tadpole and a keeper context as well.
theorem witness_IntegerRegisterWords_hinted :
    ((hinted (lane []) { c4 := some 7#8, guard := some 0#4 }).Takes (.imad 1#8 2#8 3#8) withC4 [1, 2, 3, 7]) ∧
    tad.Takes (.iadd 15#8 0#8 1#8) {} [15, 0, 1] ∧ (routine [] []).Takes (.iadd 63#8 0#8 1#8) {} [63, 0, 1] :=
  ⟨takes (w := (_, _, _)) (by decide +kernel), takes (w := (_, _, _)) (by decide +kernel), takes (w := (_, _, _)) (by decide +kernel)⟩

theorem witness_ShiftCounts : ∀ w ∈ [(Instr.ishl 1#8 2#8 3#8, ({} : HintUse), [1, 2, 3]), (.ishr 1#8 2#8 3#8, {}, [1, 2, 3]),
    (.isar 1#8 2#8 3#8, {}, [1, 2, 3]), (.ishli 1#8 2#8 32#9, withImm, [1, 2]), (.ishri 1#8 2#8 31#9, withImm, [1, 2]),
    (.isari 1#8 2#8 0#9, withImm, [1, 2]), (.irol 1#8 2#8 3#8, {}, [1, 2, 3])],
    (lane [(3, 32#32)]).Takes w.1 w.2.1 w.2.2 := takes_all (by decide +kernel)

theorem witness_BitFields : ∀ w ∈ [(Instr.ibfx 1#8 2#8 3#8 1#1, ({} : HintUse), [1, 2, 3]), (.ibfi 1#8 2#8 3#8, {}, [1, 2, 3])],
    (lane [(3, 0x3F1F#32)]).Takes w.1 w.2.1 w.2.2 := takes_all (by decide +kernel)

theorem witness_ImmediateAndPairWords : ∀ w ∈ [(Instr.iaddi 1#8 2#8 0x1FF#9, withImm, [1, 2]), (.iandi 1#8 2#8 0#9, withImm, [1, 2]),
    (.iori 1#8 2#8 0#9, withImm, [1, 2]), (.ixori 1#8 2#8 0#9, withImm, [1, 2]), (.movi 1#8 0#9, withImm, [1]),
    (.iadd64 127#7 0#7 1#7, {}, [255, 1, 3]), (.isub64 0#7 0#7 1#7, {}, [1, 1, 3]), (.imul64 0#7 0#7 1#7, {}, [1, 1, 3]),
    (.lea 0#7 3#2 1#7 255#8 0#1, {}, [1, 3, 255]), (.movk 127#7 31#5, {}, [255])],
    ((lane []).Takes w.1 w.2.1 w.2.2) := takes_all (by decide +kernel)

theorem witness_ImmediateAndPairWords_hinted :
    (hinted (lane []) { imm20 := some 0x1FFFFF#21 }).Takes (.iaddi 1#8 2#8 0#9) withImm [1, 2] :=
  takes (w := (_, _, _)) (by decide +kernel)

theorem witness_ComparesAndPredicates : ∀ w ∈ [(Instr.icmp 0#2 0#3 1#3 1#8 2#8, ({} : HintUse), [1, 2]),
    (.icmp 1#2 5#3 7#3 255#8 0#8, {}, [255, 0]), (.icmp 2#2 5#3 7#3 254#8 0#8, {}, [255, 1]), (.icmpi 0#2 0#3 1#3 255#8 0#9, withImm, [255]),
    (.icmpi 3#2 5#3 1#3 254#8 0#9, withImm, [255]), (.isel 7#3 1#8 2#8 3#8 1#1, {}, [1, 2, 3]), (.pand 1#3 0#1 2#3 1#1 3#3, {}, []),
    (.por 1#3 0#1 2#3 1#1 3#3, {}, []), (.pxor 0#3 0#1 2#3 1#1 3#3, {}, []), (.pnot 1#3 1#1 2#3, {}, []), (.pget 1#8, {}, [1]),
    (.pset 1#8, {}, [1])], ((lane []).Takes w.1 w.2.1 w.2.2) := takes_all (by decide +kernel)

/-- A lane with entry 2 of its dispatch table holding a value, and 2 or another index in v1. -/
def dispatching (entry : List Byte) (n : Nat) : State :=
  { (lane [(1, BitVec.ofNat 32 n)]).pokeBytes 0x110 entry with cores := (lane []).cores }

theorem witness_Transfers :
    (∀ w ∈ [(Instr.brp 1#3 0#1 0x100000#21, noHints, []), (.brp 0#3 1#1 0#21, noHints, []), (.br 0xFFFFF#21, noHints, []),
      (.call 0#21, noHints, []), (.ret, {}, []), (.nop, {}, []), (.brx 1#8, {}, [1]), (.callx 2#3 1#8, {}, [1])],
      (lane []).Takes w.1 w.2.1 w.2.2) ∧
    (lane []).myLaunch = some launch0 ∧ launch0.record.dtlen = 4 ∧
    [0, 3, 4].map (fun n => ((lane [(1, BitVec.ofNat 32 n)]).v 1).toNat) = [0, 3, 4] := ⟨takes_all (by decide +kernel), by decide⟩

/-- An entry of the dispatch table is read, and it is of a kind. -/
theorem witness_Transfers_entries :
    (∃ r e, (dispatching [] 2).readEntry launch0 2 = .ok r e ∧ decide (e = 0#64) = true) ∧
    (∃ r e, (dispatching [1#8] 2).readEntry launch0 2 = .ok r e ∧ decide (e ≠ 0#64 ∧ bits e 0 2 ≠ 0#2) = true) ∧
    (∃ r e, (dispatching [0#8, 0#8, 0#8, 0#8, 0#8, 0#8, 0#8, 1#8] 2).readEntry launch0 2 = .ok r e ∧
      decide (e ≠ 0#64 ∧ bits e 0 2 = 0#2 ∧ bits e 56 8 ≠ 0#8) = true) ∧
    (∃ r e, (dispatching [0#8, 4#8] 2).readEntry launch0 2 = .ok r e ∧
      decide (e ≠ 0#64 ∧ bits e 0 2 = 0#2 ∧ bits e 56 8 = 0#8) = true) :=
  ⟨gives (ok := fun _ e => decide (e = 0#64)) (by decide +kernel),
    gives (ok := fun _ e => decide (e ≠ 0#64 ∧ bits e 0 2 ≠ 0#2)) (by decide +kernel),
    gives (ok := fun _ e => decide (e ≠ 0#64 ∧ bits e 0 2 = 0#2 ∧ bits e 56 8 ≠ 0#8)) (by decide +kernel),
    gives (ok := fun _ e => decide (e ≠ 0#64 ∧ bits e 0 2 = 0#2 ∧ bits e 56 8 = 0#8)) (by decide +kernel)⟩

theorem witness_Ends :
    (lane []).Takes .exit {} [] ∧ (lane []).cur = .lane 0 0 0 ∧
    (routine [] []).Takes .exit {} [] ∧ (routine [] []).cur = .keeper 0 1 ∧ ((routine [] []).core 0).contexts.find? 1 ≠ none ∧
    tad.cur = .tad 0 3 0 ∧ (lane []).Takes .yield {} [] ∧ (lane []).kind = .team ∧
    (routine [] []).Takes .yield {} [] ∧ (routine [] []).kind = .keeper :=
  ⟨takes (w := (_, _, _)) (by decide +kernel), by decide, takes (w := (_, _, _)) (by decide +kernel), by decide, by decide, by decide,
    takes (w := (_, _, _)) (by decide +kernel), by decide, takes (w := (_, _, _)) (by decide +kernel), by decide⟩

/-- A tadpole of one lane: its end is that of the tadpole. -/
def lastLane : State :=
  let t : Tadpole := { seq := 1#32, burst := 0, slot := 0, lane := 0, lanes := [(0, {}), (1, { status := .ended })] }
  { quiet [] with cores := [(0, { teams := [(0, teamOf [(0, {})])], tads := [(3, t)] })], cur := .tad 0 3 0 }

theorem witness_Ends_tend :
    (∀ s ∈ [tad, lastLane], s.Takes .tend {} [] ∧ s.netBusy = false ∧ (s.core 0).tads.find? 3 ≠ none) ∧
    (∃ t, (tad.core 0).tads.find? 3 = some t ∧
      ∃ e ∈ t.lanes.put 0 { tad.drain.ag with status := .ended, hints := {} }, e.2.status ≠ .ended) ∧
    (∃ t, (lastLane.core 0).tads.find? 3 = some t ∧
      ∀ e ∈ t.lanes.put 0 { lastLane.drain.ag with status := .ended, hints := {} }, e.2.status = .ended) ∧
    (lane []).cur ≠ .none ∧ (lane []).kind ≠ .tad := by
  refine ⟨fun s hs => ⟨?_, ?_, ?_⟩, ⟨_, rfl, (1, {}), by decide, by decide⟩, ⟨_, rfl, by decide⟩, by decide, by decide⟩ <;>
    simp only [List.mem_cons, List.not_mem_nil, or_false] at hs <;> rcases hs with rfl | rfl <;>
    first | exact takes (w := (_, _, _)) (by decide +kernel) | decide

/-! Masks and collectives -/

/-- Lane 9 of a team with lanes 8 to 10, two of which wait at rejoin mask 2, or at an instance, or at the team barrier. -/
def waiting (w : Wait) : NMap Agent := [(8, { status := .parked w }), (9, { status := .parked w }), (10, {})]

def maskTeam (mask : BitVec 8) : Team := { teamOf (waiting (.rejoin 2)) with phase := .running, masks := [(18, mask)] }

theorem witness_Rejoins :
    (∀ w ∈ [(Instr.jset 15#4, ({} : HintUse), ([] : List Nat)), (.jclr 0#4, {}, []), (.jdrop 0#4, {}, []), (.jmask 1#8 15#4, {}, [1]),
      (.jwait 15#4, {}, [])], (lane []).Takes w.1 w.2.1 w.2.2) ∧ (lane []).cur = .lane 0 0 0 ∧ (lane []).team 0 0 ≠ none :=
  ⟨takes_all (by decide +kernel), by decide, by decide⟩

theorem witness_Rejoins_mask :
    ((maskTeam 3#8).lanes.map Prod.fst).Nodup ∧
    (∃ e ∈ (maskTeam 3#8).lanes, e.1 / 8 = 1 ∧ e.2.status = .parked (.rejoin 2)) ∧
    (∀ n < 8, ((maskTeam 3#8).mask 1 2).getLsbD n = true → ∃ a, (maskTeam 3#8).lanes.find? (8 + n) = some a ∧
      a.status = .parked (.rejoin 2)) ∧
    (∃ n < 8, ((maskTeam 7#8).mask 1 2).getLsbD n = true ∧ ∀ a, (maskTeam 7#8).lanes.find? (8 + n) = some a →
      a.status ≠ .parked (.rejoin 2)) ∧
    (∀ e ∈ (maskTeam 7#8).lanes, e.1 / 8 = 0 → e.2.status ≠ .parked (.rejoin 2)) := by
  refine ⟨by decide, ⟨(8, { status := .parked (.rejoin 2) }), by decide, by decide, rfl⟩, fun n hn hm => ?_,
    ⟨2, by decide, by decide, fun a ha => ?_⟩, by decide⟩
  · have : n = 0 ∨ n = 1 := by revert hm; interval_cases n <;> decide
    rcases this with rfl | rfl <;> exact ⟨_, rfl, rfl⟩
  · cases ha; decide

-- A mask that JCLR has cleared while lanes wait at it; a tadpole and a keeper context.
theorem witness_Rejoins_cleared :
    2 < 16 ∧ 16 * 1 + 2 ∈ ({ maskTeam 0#8 with cleared := [18] } : Team).cleared ∧
    (8, ({ status := .parked (.rejoin 2) } : Agent)) ∈ (maskTeam 0#8).lanes ∧
    tad.cur ≠ .none ∧ tad.kind ≠ .team ∧ (routine [] []).cur ≠ .none ∧ (routine [] []).kind ≠ .team := by decide

theorem witness_Rejoins_barrier :
    (teamOf (waiting .teamBarrier)).phase ≠ .staging ∧
    (∃ e ∈ waiting .teamBarrier, e.2.status = .parked .teamBarrier) ∧
    (∃ e ∈ waiting .teamBarrier, e.2.status ≠ .ended ∧ e.2.status ≠ .parked .teamBarrier) ∧
    (∀ e ∈ [(0, ({ status := .ended } : Agent)), (1, { status := .parked .teamBarrier })],
      e.2.status = .ended ∨ e.2.status = .parked .teamBarrier) ∧
    ∀ e ∈ [(0, ({} : Agent))], e.2.status ≠ .parked .teamBarrier :=
  ⟨by decide, ⟨(8, { status := .parked .teamBarrier }), by decide, rfl⟩, ⟨(10, {}), by decide, by decide, by decide⟩, by decide,
    by decide⟩

/-- Lane 9 beside lanes 8 and 10, its mask in v3. -/
def collective (mask : Word) : State :=
  { quiet [(8, {}), (9, {}), (10, { status := .ended })] with cur := .lane 0 0 9, ag := { v := [(3, mask)] } }

theorem witness_Collectives :
    (∀ w ∈ [(Instr.vshfl 1#8 2#8 3#8 1#1, ({} : HintUse), [3, 1, 2]), (.vbal 1#8 0#1 2#3 3#8, {}, [3, 1]),
      (.vvote 1#3 1#1 2#3 3#8 0#1, {}, [3]), (.vmatch 1#8 2#8 3#8 0#1, {}, [3, 1, 2]), (.vmatch 1#8 4#8 3#8 1#1, {}, [3, 1, 5]),
      (.elect 1#3 3#8, {}, [3]), (.vred 1#8 0#4 2#4 3#8, {}, [3, 1]), (.vscan 1#8 5#4 3#4 3#8, {}, [3, 1])],
      (collective 3#32).Takes w.1 w.2.1 w.2.2) ∧ (collective 3#32).cur = .lane 0 0 9 :=
  ⟨takes_all (by decide +kernel), by decide⟩

/-- The mask 3 names lanes 8 and 9; 7 names an ended lane, 0xB one that does not exist, 1 not lane 9. -/
theorem witness_Collectives_masks : ∃ t, (collective 3#32).team 0 0 = some t ∧
    (let named := fun (m : BitVec 8) => m.getLsbD 1 && (List.range 8).all fun k => !m.getLsbD k ||
      ((t.lanes.find? (8 + k)).any fun g => g.status != .ended)
     [named 3#8, named 7#8, named 0xB#8, named 1#8] = [true, false, false, false]) := ⟨_, rfl, by decide⟩

/-- Lanes 8 and 9 have arrived at an instance of mask 3 at address 0x40. -/
def arrivedTeam : Team :=
  let w := fun (x : DWord) => Wait.collective (.vbal 1#8 0#1 2#3 3#8) 0x40#64 0x40#64 3#8 x 0#32
  teamOf [(8, { status := .parked (w 1#64) }), (9, { status := .parked (w 0#64) }), (10, {})]

theorem witness_Collectives_instance :
    let vals := fun (mask : BitVec 8) k => (arrivedTeam.lanes.find? (8 + k)).bind fun w => w.arrivedAt 0x40#64 mask
    ((List.range 8).filter fun k => (3#8).getLsbD k && (vals 3#8 k).isNone) = [] ∧
    ((List.range 8).filter fun k => (7#8).getLsbD k && (vals 7#8 k).isNone) = [0, 1, 2] ∧
    (vals 3#8 0).isSome = true ∧ (vals 3#8 1).isSome = true := by decide

/-- Lane 9, which the mask 3 names, or lane 10, which it does not, is about to end while lane 8 waits; a lane with that trap
to take. -/
theorem witness_Collectives_ended :
    (∀ l ∈ [9, 10], arrivedTeam.lanes.find? l ≠ none ∧ l ≠ 8 ∧ 8 / 8 = l / 8) ∧
    (arrivedTeam.lanes.find? 8).map Agent.status =
      some (.parked (.collective (.vbal 1#8 0#1 2#3 3#8) 0x40#64 0x40#64 3#8 1#64 0#32)) ∧
    (3#8).getLsbD (9 % 8) = true ∧ (3#8).getLsbD (10 % 8) = false ∧
    (let a : Agent := { pendTrap := some { cause := .collMask, pc := 0x40#64, addr := 3#64 } }
     let s : State := { quiet [(0, a)] with agenda := [.lane (.lane 0 0 0)] }
     s.agentAt (.lane 0 0 0) = some a ∧ a.status = .ready) := by decide

theorem witness_ReductionOrder :
    let x : Arrived := { x := 1#64, sel := 0#32 }
    let fin := fun (v : FVal) => match v with
      | .fin .. => true
      | _ => false
    0 < 8 ∧ 7 < 8 ∧ (some x).isSome = true ∧ (1#4 = 0#4 ∨ 1#4 = 1#4) ∧ fin (unpack32 true 0x7F7FFFFF#32) = true ∧
    fin (unpack32 false 1#32) = true := by decide

/-! Floating point -/

theorem witness_SumsAndProducts : ∀ w ∈ [(Instr.fadd 0#2 1#8 2#8 3#8, ({} : HintUse), [1, 2, 3]), (.fsub 1#2 1#8 2#8 3#8, {}, [1, 2, 3]),
    (.fmul 2#2 1#8 2#8 3#8, {}, [1, 2, 3]), (.ffma 3#2 1#8 2#8 3#8, withC4, [1, 2, 3, 1]), (.dadd 0#7 0#2 1#7 2#7, {}, [1, 3, 5]),
    (.dsub 0#7 1#2 1#7 2#7, {}, [1, 3, 5]), (.dmul 0#7 2#2 1#7 2#7, {}, [1, 3, 5]), (.dfma 0#7 3#2 1#7 2#7, withC4, [1, 3, 5, 1]),
    (.hadd2 1#8 2#8 3#8 0#1, {}, [1, 2, 3]), (.hmul2 1#8 2#8 3#8 1#1, {}, [1, 2, 3]), (.hfma2 1#8 2#8 3#8 1#1, withC4, [1, 2, 3, 1])],
    ((lane []).Takes w.1 w.2.1 w.2.2) := takes_all (by decide +kernel)

-- The greatest finite value and the least subnormal of each format, in a state's registers.
theorem witness_SumsAndProducts_finite :
    let s := lane [(2, 0x7F7FFFFF#32), (3, 1#32), (4, 0xFFFFFFFF#32), (5, 0x7FEFFFFF#32)]
    (match s.f 2, s.f 3, s.f64 4, s.f64 2 with
      | .fin .., .fin .., .fin .., .fin .. => true
      | _, _, _, _ => false) = true ∧
    (match f16.unpack 0x7BFF, f16.unpack 1, bf16.unpack 0x7F7F, bf16.unpack 1 with
      | .fin .., .fin .., .fin .., .fin .. => true
      | _, _, _, _ => false) = true := by decide

-- Infinities, NaN and a zero in a state's registers; an addend of DFMA in an odd register.
theorem witness_SumsAndProducts_special :
    let s := lane [(2, 0x7F800000#32), (3, 0xFF800000#32), (4, 0x7FC00000#32), (9, 0x7FF00000#32)]
    (match s.f 2, s.f 3, s.f 4, s.f 5, s.f64 8, s.f64 6 with
      | .inf false, .inf true, .nan, .fin _ 0 _, .inf false, .fin _ 0 _ => true
      | _, _, _, _, _, _ => false) = true ∧
    (hinted s { c4 := some 5#8 }).cur ≠ .none ∧ (some 5#8 : Option (BitVec 8)).map BitVec.toNat = some 5 ∧ 5 % 2 = 1 := by decide

theorem witness_Rounding : (f64 = f64 ∨ f64 = f32) ∧ (1 : Nat) ≠ 0 ∧
    f32.pack .rn false (.fin false 0xFFFFFFF 100) = 0x7F800000 ∧ f32.pack .rz false (.fin false 0xFFFFFFF 100) = 0x7F7FFFFF :=
  ⟨.inl rfl, by decide, by decide, by decide⟩

theorem witness_MinMaxAndCompare : ∀ w ∈ [(Instr.fmin 1#8 2#8 3#8, ({} : HintUse), [1, 2, 3]), (.fmax 1#8 2#8 3#8, {}, [1, 2, 3]),
    (.dmin 0#7 1#7 2#7, {}, [1, 3, 5]), (.dmax 0#7 1#7 2#7, {}, [1, 3, 5]), (.hmin2 1#8 2#8 3#8 0#1, {}, [1, 2, 3]),
    (.hmax2 1#8 2#8 3#8 1#1, {}, [1, 2, 3]), (.fcmp 0#3 1#3 2#8 3#8, {}, [2, 3]), (.fcmp 7#3 1#3 2#8 3#8, {}, [2, 3]),
    (.dcmp 6#3 1#3 1#7 2#7, {}, [3, 5]), (.hcmp2 1#1 5#3 3#2 2#8 3#8, {}, [2, 3])],
    ((lane []).Takes w.1 w.2.1 w.2.2) := takes_all (by decide +kernel)

theorem witness_DivisionsAndClasses : ∀ w ∈ [(Instr.fdiv 0#2 1#8 2#8 3#8, ({} : HintUse), [1, 2, 3]), (.ddiv 0#7 3#2 1#7 2#7, {}, [1, 3, 5]),
    (.fsqrt 1#8 2#8 3#3, {}, [1, 2]), (.dsqrt 0#7 1#7 0#3, {}, [1, 3]), (.frnd 1#8 2#8 3#3, {}, [1, 2]), (.drnd 0#7 1#7 2#3, {}, [1, 3]),
    (.frcp 1#8 2#8, {}, [1, 2]), (.frsq 1#8 2#8, {}, [1, 2]), (.fexp2 1#8 2#8, {}, [1, 2]), (.flog2 1#8 2#8, {}, [1, 2]),
    (.fclass 1#8 2#8, {}, [1, 2]), (.fmovm 1#8 2#8 0#2 3#2, {}, [1, 2]), (.fmovm 2#8 4#8 1#2 0#2, {}, [3, 5]),
    (.fmovm 1#8 2#8 2#2 1#2, {}, [1, 2]), (.fmovm 1#8 2#8 3#2 2#2, {}, [1, 2])],
    ((lane []).Takes w.1 w.2.1 w.2.2) := takes_all (by decide +kernel)

theorem witness_Conversions :
    (∀ w ∈ [(Instr.cvt 0#3 1#8 2#8 0#4 10#4, ({} : HintUse), [1, 2]), (.cvt 4#3 1#8 2#8 9#4 8#4, {}, [1, 2]), (.cvtd 3#3 2#8 3#8 11#4 0#4, {}, [3, 3]),
      (.cvtd 0#3 1#8 2#8 0#4 3#4, {}, [1, 3]), (.cvtd 0#3 2#8 4#8 7#4 11#4, {}, [3, 5]),
      (.qdxb 100#8 8#8 1#1 0#1 0#1 1#3, { imm20 := true, dxbd := true }, [108, 39]),
      (.qdxb 100#8 8#8 0#1 1#1 1#1 1#3, { imm20 := true, dxbd := true }, [108, 39]), (.dqdxb 20#8 40#8 48#8 0#1, {}, [23, 40, 48]),
      (.dqdxb 20#8 40#8 48#8 1#1, {}, [27, 40, 48])], (lane []).Takes w.1 w.2.1 w.2.2) ∧
    (hinted (lane []) { imm20 := some 1#21, dxbd := some 15#4 }).Takes (.qdxb 100#8 8#8 1#1 0#1 0#1 1#3)
      { imm20 := true, dxbd := true } [108, 39] ∧
    (hinted (lane []) { imm20 := some 32#21, dxbd := some 1#4 }).Takes (.qdxb 100#8 8#8 1#1 0#1 0#1 1#3)
      { imm20 := true, dxbd := true } [108, 39] :=
  ⟨takes_all (by decide +kernel), takes (w := (_, _, _)) (by decide +kernel), takes (w := (_, _, _)) (by decide +kernel)⟩

theorem witness_RelativeDifference : (lane []).Takes (.drel 1#8 1#7 2#7) {} [1, 3, 5] := takes (w := (_, _, _)) (by decide +kernel)

/-! Memory -/

/-- A lane whose pair v2:v3 holds an address. -/
def addressing (va : DWord) (cls : Nat) : State :=
  { lane [(2, va.extractLsb' 0 32), (3, va.extractLsb' 32 32)] with tlb := tlbOf cls }

theorem witness_GlobalLoads :
    ((addressing 8#64 2).Takes (.ld 4#8 1#7 4#3 0#6) withAccess [7, 3]) ∧ (addressing 8#64 2).Takes (.ldSigned 5#8 1#7 1#1 0#6) withAccess [5, 3] ∧
    (∃ r bs, (addressing 0xFF0#64 2).drain.loadPlain (addressing 0xFF0#64 2).who 2#2 none 0xFF0 16 = .ok r bs ∧ true = true) ∧
    (∃ r bs, (addressing 8#64 2).drain.loadPlain (addressing 8#64 2).who 2#2 none 8 1 = .ok r bs ∧ true = true) ∧
    (∃ c x, (addressing 8#64 3).drain.loadPlain (addressing 8#64 3).who 2#2 none 8 4 = .trap c x) ∧
    (∃ x p, ({ addressing 8#64 2 with poison := [(0, true)] } : State).drain.loadPlain (addressing 8#64 2).who 2#2 none 8 4 = .bad x p) ∧
    (∃ r w, (addressing 0x1000#64 2).drain.loadPlain (addressing 0x1000#64 2).who 2#2 none 0x1000 4 = .page r w) ∧
    (lane []).ag.parts = none ∧ 2 ^ 56 < ((addressing 0xFFFFFFFFFFFFFD#64 2).pair (pn 1#7) + BitVec.ofInt 64 (0 * 4)).toNat + 4 :=
  ⟨takes (w := (_, _, _)) (by decide +kernel), takes (w := (_, _, _)) (by decide +kernel), gives (ok := fun _ _ => true) (by decide +kernel),
    gives (ok := fun _ _ => true) (by decide +kernel), traps (by decide +kernel), bads (by decide +kernel), pages (by decide +kernel),
    by decide, by decide⟩

theorem witness_GlobalLoads_bytes :
    let s : State := { lane [] with tlb := tlbOf 1 }
    s.Lands s.who .rd 0xFFF 1 0xFFF 1 ∧ (1 : Nat) ≠ 3 ∧ s.firstPoison 0xFFF 1 = none ∧ s.l1Line (s.who.l1Core 31) 31 = none ∧
    (s.core (s.who.l1Core 31)).l1.length < 2048 :=
  ⟨lands (by decide +kernel), by decide, by decide +kernel, by decide +kernel, by decide +kernel⟩

theorem witness_GlobalStores :
    (addressing 0xFF0#64 2).Takes (.st 4#8 1#7 4#3 0#6) withAccess [7, 3] ∧
    (∃ r u, (addressing 0xFF0#64 2).drain.storeVA (addressing 0xFF0#64 2).who 2#2 none 0xFF0 (List.replicate 16 1#8) = .ok r u ∧ true = true) ∧
    ∀ cls ∈ [1, 2],
      let s := addressing 0xFF0#64 cls
      s.eaOf 1#7 0#6 16 = 0xFF0 ∧ s.drain.Lands s.who .wr 0xFF0 16 0xFF0 cls :=
  ⟨takes (w := (_, _, _)) (by decide +kernel), gives (ok := fun _ _ => true) (by decide +kernel), fun c hc => by
    simp only [List.mem_cons, List.not_mem_nil, or_false] at hc
    rcases hc with h | h <;> subst h <;> exact ⟨by decide +kernel, lands (by decide +kernel)⟩⟩

/-- A record of rank 2 and 32-bit elements, extents 4 and 2, at 0x200 (the layout of R208); v20:21 holds its address and
v12:13 the coordinates. -/
def record (format : Nat) : List Byte :=
  leBytes 8 0x800 ++ leBytes 8 0 ++ leBytes 1 format ++ leBytes 1 2 ++ leBytes 2 0 ++ leBytes 4 7 ++ leBytes 4 4 ++ leBytes 4 2 ++
    leBytes 24 0 ++ leBytes 8 32 ++ leBytes 40 0 ++ leBytes 2 4 ++ leBytes 2 2 ++ leBytes 20 0

def tensor (format : Nat) (x : Word) : State :=
  (lane [(12, x), (20, 0x200#32)]).pokeBytes 0x200 (record format)

/-- An access to a peer that the lane has out. -/
def busyNet (k : NetKind) : NMap NetAccess :=
  [(0, { agent := .lane 0 0 0, core := 0, slot := 0, launch := 0, aperture := 0, va := 0, offset := 0, stamp := 0#8, kind := k })]

theorem witness_TeamMemory :
    let s := lane [(1, 65533#32), (2, 65530#32), (3, 65532#32)]
    (∀ w ∈ [(Instr.ldt 4#8 1#8 2#3 0#6, withImm, [4, 1]), (.stt 4#8 1#8 2#3 0#6, withImm, [4, 1]), (.ldtSigned 4#8 1#8 1#1 0#6, withImm, [4, 1])],
      (lane []).Takes w.1 w.2.1 w.2.2) ∧
    s.tmemSize < (teamEa (s.v 1) (s.ag.hints.off 0#6) 4).toNat + 4 ∧
    (teamEa (s.v 2) (s.ag.hints.off 0#6) 4).toNat + 4 ≤ s.tmemSize ∧ (teamEa (s.v 2) (s.ag.hints.off 0#6) 4).toNat % 4 ≠ 0 ∧
    (teamEa (s.v 3) (s.ag.hints.off 0#6) 4).toNat + 4 = s.tmemSize ∧ (teamEa (s.v 3) (s.ag.hints.off 0#6) 4).toNat % 4 = 0 ∧
    s.netBusy = false ∧ ({ s with net := busyNet (.load 4) } : State).netBusy = true :=
  ⟨takes_all (by decide +kernel), by decide⟩

/-- The record is read and accepted, the coordinates outside its extents and inside; the element is then read and
written. -/
theorem witness_TeamMemory_records :
    (∀ w ∈ [(Instr.xld 8#8 12#8 10#7, ({ cache := true, scope := true } : HintUse), [8, 12, 21]),
      (.xst 8#8 12#8 10#7, { cache := true, scope := true }, [8, 12, 21])], (tensor 2 4#32).Takes w.1 w.2.1 w.2.2) ∧
    (∃ r bs, (tensor 2 4#32).drain.readRecord ((tensor 2 4#32).pair (pn 10#7)).toNat = .ok r bs ∧
      (recordOk bs && r.reach == (tensor 2 4#32).reach && decide (12 + (parseRecord bs).rank ≤ r.reach) &&
        (parseRecord bs).inside [4, 0] == false) = true) ∧
    (∃ r bs, (tensor 3 3#32).drain.readRecord ((tensor 3 3#32).pair (pn 10#7)).toNat = .ok r bs ∧
      (recordOk bs && (parseRecord bs).bits == 64 && (parseRecord bs).inside [3, 1] &&
        gives? (fun _ _ => true) (r.loadPlain r.who r.scope r.ag.hints.cache ((parseRecord bs).bitAddr [3, 1] / 8) 8) &&
        gives? (fun _ _ => true) (r.storeVA r.who r.scope r.ag.hints.cache ((parseRecord bs).bitAddr [3, 1] / 8)
          (leBytes 8 0))) = true) :=
  ⟨takes_all (by decide +kernel), gives (ok := fun r bs => recordOk bs && r.reach == (tensor 2 4#32).reach &&
      decide (12 + (parseRecord bs).rank ≤ r.reach) && (parseRecord bs).inside [4, 0] == false) (by decide +kernel),
    gives (ok := fun r bs => recordOk bs && (parseRecord bs).bits == 64 && (parseRecord bs).inside [3, 1] &&
        gives? (fun _ _ => true) (r.loadPlain r.who r.scope r.ag.hints.cache ((parseRecord bs).bitAddr [3, 1] / 8) 8) &&
        gives? (fun _ _ => true) (r.storeVA r.who r.scope r.ag.hints.cache ((parseRecord bs).bitAddr [3, 1] / 8)
          (leBytes 8 0))) (by decide +kernel)⟩

-- Signed loads past the end, misaligned and in place; a record misaligned, one on a page that refuses it, one of no format.
theorem witness_TeamMemory_refused :
    let s := lane [(1, 65535#32), (2, 65533#32), (3, 65534#32)]
    s.tmemSize < (teamEa (s.v 1) (s.ag.hints.off 0#6) 2).toNat + 2 ∧ (teamEa (s.v 2) (s.ag.hints.off 0#6) 2).toNat + 2 ≤ s.tmemSize ∧
    (teamEa (s.v 2) (s.ag.hints.off 0#6) 2).toNat % 2 ≠ 0 ∧ (teamEa (s.v 3) (s.ag.hints.off 0#6) 2).toNat % 2 = 0 ∧
    (tensor 2 4#32).myRmw = none ∧
    (let p := (lane [(20, 0x204#32)]).pair (pn 10#7)
     ¬(p.toNat % 64 = 0 ∨ 2 ^ 56 ≤ p.toNat)) ∧
    (∃ c x, ({ tensor 2 4#32 with tlb := tlbOf 3 } : State).drain.readRecord 0x200 = .trap c x) ∧
    ∃ r bs, (tensor 255 4#32).drain.readRecord 0x200 = .ok r bs ∧ (!recordOk bs) = true :=
  ⟨by decide, by decide, by decide, by decide, by decide, by decide, traps (by decide +kernel), gives (ok := fun _ bs => !recordOk bs) (by decide +kernel)⟩

-- An element of 64 bits and one of 4 bits, each in one line.
theorem witness_TeamMemory_lines :
    (∃ r bs, (tensor 3 3#32).drain.readRecord 0x200 = .ok r bs ∧
      (recordOk bs && (tensor 3 3#32).myRmw.isNone && lands? r r.who .wr ((parseRecord bs).bitAddr [3, 1] / 8) 8 0x81C 2) = true) ∧
    (∃ r bs, (tensor 4 3#32).drain.readRecord 0x200 = .ok r bs ∧
      (recordOk bs && (parseRecord bs).bits == 4 && (parseRecord bs).bitAddr [3, 1] % 8 == 4 &&
        lands? r r.who .rw ((parseRecord bs).bitAddr [3, 1] / 8) 1 0x805 2 && (r.firstPoison 0x805 1).isNone) = true) :=
  ⟨gives (ok := fun r bs => recordOk bs && (tensor 3 3#32).myRmw.isNone && lands? r r.who .wr ((parseRecord bs).bitAddr [3, 1] / 8) 8 0x81C 2) (by decide +kernel),
    gives (ok := fun r bs => recordOk bs && (parseRecord bs).bits == 4 && (parseRecord bs).bitAddr [3, 1] % 8 == 4 &&
        lands? r r.who .rw ((parseRecord bs).bitAddr [3, 1] / 8) 1 0x805 2 && (r.firstPoison 0x805 1).isNone) (by decide +kernel)⟩

theorem witness_Atomics :
    (∀ w ∈ [(Instr.atom 4#8 2#8 0#4 0#2 1#1, ({ scope := true } : HintUse), [4, 2]), (.red 4#8 2#8 11#4 1#2 1#1, { scope := true }, [5, 2]),
      (.atomf 4#8 2#8 2#4 1#2 1#1, { scope := true }, [5, 2]), (.redf 4#8 2#8 4#4 0#2 1#1, { scope := true }, [4, 2]),
      (.atom 4#8 2#8 0#4 0#2 0#1, { scope := true }, [4, 3]), (.redf 4#8 2#8 0#4 0#2 0#1, { scope := true }, [4, 3])],
      (addressing 8#64 2).Takes w.1 w.2.1 w.2.2) ∧
    (hinted (addressing 0xFF0#64 2) { c4 := some 16#8 }).Takes (.atom 4#8 2#8 9#4 2#2 0#1) { scope := true, c4 := true, needC4 := true } [7, 3, 19] ∧
    16 % 4 = 0 ∧
    (let s := lane [(1, 65533#32), (2, 65530#32), (3, 65532#32)]
     s.tmemSize < (s.v 1).toNat + 4 ∧ (s.v 2).toNat + 4 ≤ s.tmemSize ∧ (s.v 2).toNat % 4 ≠ 0 ∧ (s.v 3).toNat + 4 = s.tmemSize ∧
       (s.v 3).toNat % 4 = 0) ∧
    (∃ r bs, (addressing 0xFF0#64 2).drain.rmwVA (addressing 0xFF0#64 2).who 2#2 none 0xFF0 16 true false
      (.atomic false 9 16 0#128 0#128 true) (fun x => leBytes 16 (atomValue false 9 16 (leNat x) 0 0)) = .ok r bs ∧ true = true) ∧
    (∀ cls ∈ [0, 2], let s := addressing 0xFF0#64 cls
      (s.pair (vn 2#8)).toNat % 16 = 0 ∧ s.drain.Lands s.who .rw 0xFF0 16 0xFF0 cls ∧ 2 ≤ (s.ag.hints.scope.getD 2#2).toNat ∧ s.firstPoison 0xFF0 16 = none) ∧
    (lane []).myRmw = none ∧ ((addressing 9#64 2).pair (vn 2#8)).toNat % 4 ≠ 0 ∧ (lane []).netBusy = false ∧
    ({ lane [] with net := busyNet (.load 4) } : State).netBusy = true :=
  ⟨takes_all (by decide +kernel), takes (w := (_, _, _)) (by decide +kernel), by decide, by decide,
    gives (ok := fun _ _ => true) (by decide +kernel), fun c hc => by
      simp only [List.mem_cons, List.not_mem_nil, or_false] at hc
      rcases hc with h | h <;> subst h <;> exact ⟨by decide, lands (by decide +kernel), by decide, by decide +kernel⟩,
    by decide, by decide, by decide, by decide⟩

theorem witness_Atomics_values : (16 = 4 ∨ 16 = 8 ∨ 16 = 16) ∧ 2 ^ 128 - 1 < 2 ^ (8 * 16) ∧
    atomValue false 0 16 (2 ^ 128 - 1) 1 0 = 0 ∧ atomValue false 1 4 0x80000000 1 0 = 0x80000000 := by decide +kernel

theorem witness_FencesAndFlushes :
    (∀ w ∈ [(Instr.fence 3#2, ({} : HintUse), ([] : List Nat)), (.waitc 4#8 1#7 5#4 1#2, { scope := true }, [5, 3]), (.cflush 1#7, {}, [3]),
      (.cinv 1#7, {}, [3])], (addressing 8#64 2).Takes w.1 w.2.1 w.2.2) ∧ (lane []).netBusy = false ∧
    ({ lane [] with net := busyNet (.load 4) } : State).netBusy = true ∧
    (let s := (addressing 8#64 1).drain
     let p : Piece := { va := 8, pa := 8, len := 8, cls := 1, cache := true }
     let q := s.releaseLine 0
     s.kind ≠ .tad ∧ s.pieces s.who.asid .rd 2 8 8 = (s, .inr [p]) ∧ paRange p.pa = .local_ ∧ q.firstPoison p.pa 8 = none ∧
     condHolds 0 8 (BitVec.ofNat 64 ((q.homeLoad q.who p none).numAt 8 8)) 0#64 = true ∧
     condHolds 5 8 (BitVec.ofNat 64 ((q.homeLoad q.who p none).numAt 8 8)) 0#64 = false ∧
     s.pieces s.who.asid .rd 2 8 1 = (s, .inr [{ p with len := 1 }]) ∧ s.refuses false { p with len := 1 } = false) ∧
    (let s : State := { addressing 8#64 2 with net := busyNet (.load 4) }
     let p : Piece := { va := 8, pa := 8, len := 8, cls := 2, cache := true }
     s.drain.pieces s.drain.who.asid .rd 2 8 8 = (s.drain, .inr [p]) ∧ s.drain.netBusy = true) ∧
    2 ^ 56 < ((addressing 0xFFFFFFFFFFFFF9#64 2).pair 2).toNat + 8 ∧ ((addressing 4#64 2).pair 2).toNat % 8 ≠ 0 ∧
    ((lane []).ag.hints.scope.getD 2#2).toNat ≥ 2 :=
  ⟨takes_all (by decide +kernel), by decide +kernel, by decide +kernel, by decide +kernel, by decide +kernel, by decide, by decide, by decide⟩

-- WAITC at `.clus`, and on a private page.
theorem witness_FencesAndFlushes_refused :
    let p : Piece := { va := 8, pa := 8, len := 8, cls := 0, cache := true }
    ((hinted (lane []) { scope := some 1#2 }).ag.hints.scope.getD 2#2).toNat < 2 ∧ (hinted (lane []) { scope := some 1#2 }).cur ≠ .none ∧
    (addressing 8#64 0).Takes (.waitc 4#8 1#7 5#4 1#2) { scope := true } [5, 3] ∧
    (addressing 8#64 0).drain.pieces (addressing 8#64 0).drain.who.asid .rd 2 8 8 = ((addressing 8#64 0).drain, .inr [p]) ∧
    (p.cls ≠ 1 ∧ p.cls ≠ 2) :=
  ⟨by decide, by decide, takes (w := (_, _, _)) (by decide +kernel), by decide +kernel, by decide⟩

/-! Traps and system registers -/

/-- A lane about to trap: its HANDLER bit, DTLEN, the bytes of entry 0, and whether the table's page is mapped. -/
def trapping (handler : Bool) (dtlen : Nat) (entry : List Byte) (mapped : Bool) : State :=
  let s := (lane []).pokeBytes 0x100 entry
  { s with launches := [(0, { launch0 with record := { launch0.record with dtlen := dtlen } })],
           tlb := if mapped then s.tlb else [], ag := { s.ag with handler := handler } }

theorem witness_Traps :
    (trapping true 1 [] true).cur = .lane 0 0 0 ∧ (trapping true 1 [] true).ag.handler = true ∧
    (trapping false 0 [] true).myLaunch = some { launch0 with record := { launch0.record with dtlen := 0 } } ∧
    (∃ r e, (trapping false 1 [0#8, 4#8] true).readEntry { launch0 with record := { launch0.record with dtlen := 1 } } 0 = .ok r e ∧
      decide (e ≠ 0#64 ∧ bits e 0 2 = 0#2 ∧ bits e 56 8 = 0#8) = true) ∧
    (∃ r e, (trapping false 1 [] true).readEntry { launch0 with record := { launch0.record with dtlen := 1 } } 0 = .ok r e ∧
      decide (e = 0#64) = true) ∧
    (∃ c x, (trapping false 1 [] true).readEntry { launch0 with record := { launch0.record with dtab := 0x104 } } 0 = .trap c x ∨
      ({ trapping false 1 [] true with tlb := tlbOf 3 } : State).readEntry { launch0 with record := launch0.record } 0 = .trap c x) ∧
    (∃ r w, (trapping false 1 [] false).readEntry { launch0 with record := { launch0.record with dtlen := 1 } } 0 = .page r w) ∧
    tad.cur = .tad 0 3 0 ∧ (routine [] []).cur = .keeper 0 1 :=
  ⟨rfl, rfl, by decide, gives (ok := fun _ e => decide (e ≠ 0#64 ∧ bits e 0 2 = 0#2 ∧ bits e 56 8 = 0#8)) (by decide +kernel),
    gives (ok := fun _ e => decide (e = 0#64)) (by decide +kernel),
    Exists.imp (fun _ => Exists.imp fun _ => Or.inr) (traps (by decide +kernel)), pages (by decide +kernel), rfl, rfl⟩

-- Entry 0 poisoned; an access of the lane out at a peer; a lane whose team has joined a domain; a tadpole that no trap and one
-- that a trap has marked.
theorem witness_Traps_more :
    (∃ v p, ({ trapping false 1 [] true with poison := [(8, true)] } : State).readEntry { launch0 with record := { launch0.record with dtlen := 1 } } 0 = .bad v p) ∧
    (∃ r, ({ trapping false 1 [] true with net := busyNet (.load 4) } : State).readEntry { launch0 with record := { launch0.record with dtlen := 1 } } 0 = .peer r) ∧
    (∃ e ∈ (teamOf [(0, { domain := some 0x440 })]).lanes, e.2.domain.isSome = true) ∧
    (∃ x : Tadpole, (tad.core 0).tads.find? 3 = some x ∧ x.trapped = false) ∧
    (∃ x : Tadpole, ((tad.takeTrap .illegal 0#64).core 0).tads.find? 3 = some x ∧ x.trapped = true) :=
  ⟨bads (by decide +kernel), peers (by decide +kernel), ⟨(0, { domain := some 0x440 }), by decide, by decide⟩, ⟨_, rfl, by decide⟩, ⟨_, rfl, by decide +kernel⟩⟩

theorem witness_Traps_words :
    (∀ w ∈ [(Instr.trap 255#8, ({} : HintUse), ([] : List Nat)), (.eret, {}, []), (.brk, {}, [])],
      (trapping true 1 [] true).Takes w.1 w.2.1 w.2.2) ∧
    (trapping false 1 [] true).Takes .eret {} [] ∧ (trapping false 1 [] true).ag.handler = false ∧ (trapping true 1 [] true).kind = .team ∧
    (∃ t, (lane []).team 0 0 = some t ∧ t.lanes.any (fun e => e.2.domain.isSome) = false) :=
  ⟨takes_all (by decide +kernel), takes (w := (_, _, _)) (by decide +kernel), rfl, rfl, _, rfl, by decide⟩

theorem witness_SystemRegisters :
    ([0x000#12, 0x001#12, 0x002#12, 0x003#12, 0x004#12, 0x005#12, 0x006#12, 0x007#12, 0x008#12, 0x009#12, 0x00A#12, 0x00B#12,
      0x020#12, 0x023#12, 0x030#12, 0x040#12, 0x041#12, 0x042#12].all fun n => [lane [], tad, routine [] []].all fun s => takes? s (.mfs 1#8 n, {}, [1])) = true ∧
    ([0x010#12, 0x021#12, 0x022#12, 0x031#12, 0x032#12].all fun n => [lane [], tad, routine [] []].all fun s =>
      takes? s (.mfs 2#8 n, {}, [3])) = true ∧
    takes? (lane []) (.mts 2#8 0x032#12, {}, [3]) = true ∧ takes? (lane []) (.mts 2#8 0x021#12, {}, [3]) = true ∧
    takes? (routine [] []) (.mfs 1#8 0x050#12, {}, [1]) = true ∧
    (lane []).cur = .lane 0 0 0 ∧ tad.cur = .tad 0 3 0 ∧ (routine [] []).kind = .keeper ∧ sysReg 0x00C#12 = none ∧
    (lane []).kind ≠ .keeper := by decide +kernel

/-! Barriers and basins -/

/-- A lane with barrier 5 and basin 3 of its core, its handles or another number in v1. -/
def laneAt (k : Core) (v : NMap Word) : State :=
  { lane v with cores := [(0, { k with teams := [(0, teamOf [(0, {})])] })] }

def ringOf (wp rp : Word) (b : Barrier) : Core :=
  { barriers := [(5, { b with allocated := true }), (6, { b with allocated := true })],
    basins := [(3, { allocated := true, slots := [5, 6], wp := wp, rp := rp })] }

theorem witness_HandlesAndBasins :
    (∀ w ∈ [(Instr.bref 1#8, ({} : HintUse), [1]), (.bfree 1#8, {}, [1]), (.barr 1#8 15#4, {}, [1]), (.barrReg 2#8 1#8, {}, [2, 1]),
      (.bexp 2#8 1#8, {}, [2, 1]), (.bwait 1#8 2#3, {}, [1]), (.btest 2#8 1#8 2#3, {}, [2, 1]), (.bsnpost 2#7 1#8 1#3, {}, [5, 1]),
      (.bsnfill 2#8 1#8 1#3, {}, [2, 1]), (.bsnrel 1#8 1#3, {}, [1]), (.bsnfree 1#8, {}, [1]), (.bsnnew 2#8 1#8 1#3, {}, [2, 1])],
      (lane []).Takes w.1 w.2.1 w.2.2) ∧ (lane []).kind ≠ .tad ∧
    (lane [(1, 5#32)]).validBarrier 5#32 = none ∧ (lane [(1, 3#32)]).validBasin 3#32 = none ∧
    (laneAt (ringOf 0#32 0#32 {}) []).validBarrier 0x000E0005#32 = some (0, 5) ∧
    (laneAt (ringOf 0#32 0#32 {}) []).validBasin 3#32 = some 3 ∧ (lane []).myTeam ≠ none ∧ (lane []).myLaunch = some launch0 :=
  ⟨takes_all (by decide +kernel), by decide⟩

theorem witness_HandlesAndBasins_new :
    [0, 1, 32, 33].map (fun n => ((lane [(1, BitVec.ofNat 32 n)]).v 1).toNat) = [0, 1, 32, 33] ∧ (routine [] [(1, 1#32)]).kind = .keeper ∧
    32 ≤ (((lane []).core 0).freeEntries 1024).length ∧ ((lane []).core 0).basin 0 = {} ∧
    (∀ e < 64, ((laneAt { basins := (List.range 64).map fun i => (i, { allocated := true }) } []).core 0).basin e ≠ {}) := by
  decide +kernel

theorem witness_HandlesAndBasins_ring :
    -- room and not filled, full and filled, and a barrier in error
    (let b := ((laneAt (ringOf 1#32 0#32 {}) [(1, 3#32)]).core 0).basin 3
     (b.wp - b.rp).toNat < b.slots.length ∧ (0#32).toNat % 8 = b.rp.toNat / b.slots.length % 8) ∧
    (let s := laneAt (ringOf 2#32 0#32 { phases := 1#32 }) [(1, 3#32)]
     let b := (s.core 0).basin 3
     b.slots.length ≤ (b.wp - b.rp).toNat ∧ (s.barrier 0 5).phases.toNat % 8 ≠ b.rp.toNat / b.slots.length % 8) ∧
    ((laneAt (ringOf 2#32 0#32 { err := true }) [(1, 3#32)]).barrier 0 5).err = true ∧
    (lane []).netBusy = false ∧ ({ lane [] with net := busyNet (.load 4) } : State).netBusy = true := by decide +kernel

theorem witness_Barriers_post :
    let b := fun (arrived expect : Nat) (balance : Int) (err : Bool) =>
      (laneAt { barriers := [(5, { allocated := true, arrived := arrived, expect := expect, balance := balance, err := err })] } []).barrier 0 5
    (b 0 1 0 true).err = true ∧ (b 1 1 0 false).expect < (b 1 1 0 false).arrived + 1 ∧ (b 0 2 0xFFFFFFFF false).balance + 1 - 0 > 0xFFFFFFFF ∧
    (b 0 2 (-0xFFFFFFFF) false).balance + 0 - 1 < -0xFFFFFFFF ∧ (b 0 1 0 false).arrived + 1 = (b 0 1 0 false).expect ∧
    0 ≤ (b 0 1 0 false).balance ∧ (b 0 1 (-1) false).balance < 0 := by decide +kernel

def filled : Nat → Nat → NMap Barrier
  | _, 0 => []
  | k, n + 1 => (k, { allocated := true }) :: filled (k + 1) n

theorem filled_find (n : Nat) : ∀ k e, k ≤ e → e < k + n → (filled k n).find? e = some { allocated := true } := by
  induction n with
  | zero => intros; omega
  | succ n ih =>
    intro k e h1 h2
    simp only [filled, NMap.find?]
    split
    · rfl
    · exact ih _ _ (by omega) (by omega)

theorem witness_Barriers :
    (∀ w ∈ [(Instr.balloc 2#8 1#3 0#9, withImm, [2]), (.bref 1#8, {}, [1]), (.bfree 1#8, {}, [1]), (.barr 1#8 0#4, {}, [1]),
      (.barrReg 2#8 1#8, {}, [2, 1]), (.bexp 2#8 1#8, {}, [2, 1]), (.bwait 1#8 2#3, {}, [1]), (.btest 2#8 1#8 2#3, {}, [2, 1]), (.tbar, {}, []),
      (.cbar, {}, [])], (lane []).Takes w.1 w.2.1 w.2.2) ∧
    (hinted (lane []) { imm20 := some 0x80#21 }).Takes (.balloc 2#8 1#3 0#9) withImm [2] ∧
    [(0x7F#21 ++ 0x1FF#9).toInt, (0x80#21 ++ 0#9).toInt, (0#21 ++ 1#9).toInt, (0#21 ++ 0#9).toInt] = [65535, 65536, 1, 0] ∧
    (lane []).kind = .team ∧ (routine [] []).kind = .keeper ∧ ((lane []).barrier 0 0).allocated = false ∧
    (∀ e < 1024, ((laneAt { barriers := filled 0 1024 } []).barrier 0 e).allocated = true) :=
  ⟨takes_all (by decide +kernel), takes (w := (_, _, _)) (by decide +kernel), by decide, by decide, by decide, by decide, fun e he => by
    have h : (laneAt { barriers := filled 0 1024 } []).barrier 0 e = ((filled 0 1024).find? e).getD {} := rfl
    rw [h, filled_find 1024 0 e (by omega) (by omega)]; rfl⟩

theorem witness_Barriers_handles :
    let s := fun (refs : Nat) (phases : Word) (err : Bool) =>
      laneAt { barriers := [(5, { allocated := true, refs := refs, phases := phases, err := err })] } [(1, 5#32), (2, 65535#32)]
    (s 65535 0#32 false).validBarrier ((s 65535 0#32 false).v 1) = some (0, 5) ∧ 65535 ≤ ((s 65535 0#32 false).barrier 0 5).refs ∧
    ((s 65534 0#32 false).barrier 0 5).refs < 65535 ∧ ((s 2 0#32 false).barrier 0 5).refs = 2 ∧ ((s 1 0#32 false).barrier 0 5).refs = 1 ∧
    ((s 1 0#32 true).barrier 0 5).err = true ∧ ((s 1 1#32 false).barrier 0 5).phases.toNat % 8 ≠ (bits 5#32 17 3).toNat ∧
    ((s 1 8#32 false).barrier 0 5).phases.toNat % 8 = (bits 5#32 17 3).toNat ∧ ((s 1 0#32 false).v 2).toNat = 65535 := by decide +kernel

/-! Engines, the matrix engine, mooring -/

/-- A lane with a byte string at an address of its team memory, barrier 5 and basin 3 of its core (handles 5 and 3), and
the operations of its core's queues. -/
def issuing (at_ : Nat) (bs : List Byte) (ops : List EngineOp) (v : NMap Word) (h : Hints) : State :=
  let k := ringOf 0#32 0#32 {}
  { hinted (lane v) h with
    cores := [(0, { k with ops := ops, teams := [(0, { teamOf [(0, {})] with tm := putBytes [] at_ bs })] })] }

def someOp (queue : Nat) (kind : OpKind) : EngineOp :=
  { seq := 1#32, queue := queue, kind := kind, slot := 0, lane := 0, launch := 0, asid := 0, bar := some (0, 5), ets := 0#64 }

/-- A gather block of COUNT 1, ROWLEN 4 at team memory 0, its barrier 5 (the layout of R341). -/
def gathBytes (count rowlen : Nat) : List Byte :=
  leBytes 8 0x800 ++ leBytes 8 0x900 ++ leBytes 4 4 ++ leBytes 4 8 ++ leBytes 4 count ++ leBytes 4 rowlen ++ leBytes 4 0x100 ++
    leBytes 4 5 ++ leBytes 8 0

/-- An MMA block of M64N64K16 BF16 (R346), and an ACQ block of one row and 40 columns (R349), each with barrier 5. -/
def mmaBytes (bar : Nat) : List Byte := [3#8, 0#8, 0#8, 1#8, 0#8, 8#8, 0#8, 16#8, 0#8, 0#8, 0#8, 0#8] ++ leBytes 4 bar ++ leBytes 48 0

def acqBytes (bar sat : Nat) : List Byte :=
  [0#8, 0#8, 0#8, 0#8, 63#8, 1#8, 64#8, 0#8] ++ leBytes 4 0x1000 ++ leBytes 4 0x2000 ++ leBytes 4 bar ++ leBytes 4 sat ++ leBytes 8 0

/-- The hints and registers of a linear bulk read of 8 bytes at 0x800 through entry 1, arguments in v16 to v19. -/
def bulkState (ops : List EngineOp) : State :=
  (issuing 0 [] ops [(1, 5#32), (8, 8#32), (10, 0x800#32)] { imm20 := some 0x4001#21, c4 := some 8#8 }).pokeBytes 0x108 [0#8, 4#8]

theorem witness_EngineIssues_bulk :
    let full := List.replicate 32 (someOp 0 (.gath (gatherBlock [])))
    (bulkState []).Takes (.brdhLin 1#8 5#7 1#1 1#3) issueHints [1, 11, 8, 19] ∧ (bulkState []).kind = .team ∧
    (bulkState []).netBusy = false ∧ (bulkState []).behind = false ∧ (bulkState []).drain.validBarrier ((bulkState []).v 1) = some (0, 5) ∧
    (bulkState []).myLaunch = some launch0 ∧ ((bulkState []).pair 10).toNat = 0x800 ∧ ((bulkState []).v 8).toNat = 8 ∧
    (∃ r e, (bulkState []).drain.readEntry launch0 1 = .ok r e ∧ (entryOk e && !r.queueFull r.coreNo 0) = true) ∧
    (∃ r e, (bulkState full).drain.readEntry launch0 1 = .ok r e ∧ (entryOk e && r.queueFull r.coreNo 0) = true) :=
  ⟨takes (w := (_, _, _)) (by decide +kernel), by decide, by decide, by decide, by decide, by decide, by decide, by decide,
    gives (ok := fun r e => entryOk e && !r.queueFull r.coreNo 0) (by decide +kernel),
    gives (ok := fun r e => entryOk e && r.queueFull r.coreNo 0) (by decide +kernel)⟩

/-- A tensor copy, or a bulk read of a tile: the record of `record` at 0x200, coordinates in v12:13, the destination in
v30, the handle in v1. -/
def copyState (handle : Word) (k : Core) (imm : BitVec 21) : State :=
  let s := (hinted (lane [(1, handle), (10, 0x200#32), (30, 0x80#32)]) { imm20 := some imm, c4 := some 12#8 }).pokeBytes 0x200 (record 2)
  { s.pokeBytes 0x108 [0#8, 4#8] with cores := [(0, { k with teams := [(0, teamOf [(0, {})])] })] }

theorem witness_EngineIssues_tensors :
    let ok := fun (r : State) (bs : List Byte) => recordOk bs && decide (12 + (parseRecord bs).rank ≤ r.reach) &&
      decide (0x80 + (parseRecord bs).bytes ≤ r.tmemSize) && !r.queueFull r.coreNo 0
    let ring := copyState 3#32 (ringOf 0#32 0#32 {}) 30#21
    let full := copyState 3#32 (ringOf 2#32 0#32 {}) 30#21
    let s := copyState 5#32 (ringOf 0#32 0#32 {}) 30#21
    let b := copyState 5#32 (ringOf 0#32 0#32 {}) 0x4001#21
    s.Takes (.tcpy 1#8 5#7 0#1 1#3) issueHints [1, 11, 12, 30] ∧ s.Takes (.twb 1#8 5#7 1#3) issueHints [1, 11, 12, 30] ∧
    ring.Takes (.tcpy 1#8 5#7 1#1 1#3) issueHints [1, 11, 12, 30] ∧ b.Takes (.brdhTen 1#8 5#7 0#1 1#3) issueHints [1, 11, 12, 19] ∧
    s.drain.validBarrier (s.v 1) = some (0, 5) ∧ ring.drain.validBasin (ring.v 1) = some 3 ∧ (s.v 30).toNat % 128 = 0 ∧
    (∃ r bs, s.drain.readRecord 0x200 = .ok r bs ∧ ok r bs = true) ∧
    (∃ r bs, ring.drain.readRecord 0x200 = .ok r bs ∧ (ok r bs && (let x := (r.core r.coreNo).basin 3
      decide ((x.wp - x.rp).toNat < x.slots.length))) = true) ∧
    (∃ r bs, full.drain.readRecord 0x200 = .ok r bs ∧ (ok r bs && (let x := (r.core r.coreNo).basin 3
      decide ((x.wp - x.rp).toNat ≥ x.slots.length))) = true) ∧
    (∃ r bs, b.drain.readRecord 0x200 = .ok r bs ∧ (recordOk bs && gives? (fun _ e => entryOk e) (r.readEntry launch0 1)) = true) :=
  ⟨takes (w := (_, _, _)) (by decide +kernel), takes (w := (_, _, _)) (by decide +kernel), takes (w := (_, _, _)) (by decide +kernel),
    takes (w := (_, _, _)) (by decide +kernel), by decide, by decide, by decide, gives (ok := fun r bs => recordOk bs && decide (12 + (parseRecord bs).rank ≤ r.reach) &&
      decide (0x80 + (parseRecord bs).bytes ≤ r.tmemSize) && !r.queueFull r.coreNo 0) (by decide +kernel),
    gives (ok := fun r bs => recordOk bs && decide (12 + (parseRecord bs).rank ≤ r.reach) &&
      decide (0x80 + (parseRecord bs).bytes ≤ r.tmemSize) && !r.queueFull r.coreNo 0 && (let x := (r.core r.coreNo).basin 3
      decide ((x.wp - x.rp).toNat < x.slots.length))) (by decide +kernel),
    gives (ok := fun r bs => recordOk bs && decide (12 + (parseRecord bs).rank ≤ r.reach) &&
      decide (0x80 + (parseRecord bs).bytes ≤ r.tmemSize) && !r.queueFull r.coreNo 0 && (let x := (r.core r.coreNo).basin 3
      decide ((x.wp - x.rp).toNat ≥ x.slots.length))) (by decide +kernel),
    gives (ok := fun r bs => recordOk bs && gives? (fun _ e => entryOk e) (r.readEntry launch0 1)) (by decide +kernel)⟩

-- A slot of a basin's ring past the team's memory.
theorem witness_EngineIssues_slots :
    let s := (copyState 3#32 (ringOf 0#32 0#32 {}) 30#21).setV 30 0xFF80#32
    s.drain.validBasin (s.v 1) = some 3 ∧
    ∃ r bs, s.drain.readRecord 0x200 = .ok r bs ∧ (recordOk bs && decide (r.tmemSize < 0xFF80 + 128 + (parseRecord bs).bytes)) = true :=
  ⟨by decide +kernel, gives (ok := fun r bs => recordOk bs && decide (r.tmemSize < 0xFF80 + 128 + (parseRecord bs).bytes)) (by decide +kernel)⟩

theorem witness_EngineIssues_blocks :
    (∀ bs ∈ [gathBytes 1 4, gathBytes 15 4096],
      let s := issuing 0 bs [] [(1, 0#32)] {}
      let b := gatherBlock (s.drain.tmBytes 0 48)
      takes? s (.gath 1#8 1#3, { cache := true }, [1]) = true ∧ takes? s (.scat 1#8 1#3, { cache := true }, [1]) = true ∧
      48 ≤ s.drain.tmemSize ∧ s.drain.validBarrier (BitVec.ofNat 32 (fieldAt (s.drain.tmBytes 0 48) 36 4)) = some (0, 5) ∧
      1 ≤ b.count ∧ b.count ≤ 65536 ∧ 4 ≤ b.rowlen ∧ b.rowlen ≤ 4096 ∧ fieldAt (s.drain.tmBytes 0 48) 40 8 = 0 ∧
      b.taddr + b.count * b.rowlen ≤ s.drain.tmemSize ∧ b.xaddr < 2 ^ 56 ∧ b.gbase < 2 ^ 56 ∧
      ∀ y ∈ [b.xaddr, b.gbase, b.taddr, b.stride, b.rowlen], y % 4 = 0) ∧
    (∀ h ∈ [5, 0xFFFFFFFF],
      let s := issuing 0 (mmaBytes h) [] [(1, 0#32)] {}
      let bs := s.drain.tmBytes 0 64
      takes? s (.mma 2#8 1#8 1#3, {}, [2, 1]) = true ∧ 64 ≤ s.drain.tmemSize ∧ fieldAt bs 12 4 = h ∧ fieldAt bs 8 1 < s.drain.grant ∧
      mmaOk bs ((s.drain.myTeam.map Team.groups).getD 0) s.drain.reach = true) ∧
    (∀ z ∈ [(5, 0x3000), (0xFFFFFFFF, 0xFFFFFFFF)],
      let s := issuing 0 (acqBytes z.1 z.2) [] [(1, 0#32)] {}
      let bs := s.drain.tmBytes 0 32
      let b := acqBlock bs 6
      takes? s (.acq 2#8 1#8 1#3, { dxbd := true }, [2, 1]) = true ∧ 32 ≤ s.drain.tmemSize ∧ fieldAt bs 16 4 = z.1 ∧
      fieldAt bs 3 1 < s.drain.grant ∧ acqOk bs = true ∧ b.codes + b.nrows * b.rowBytes ≤ s.drain.tmemSize ∧
      b.scales + 2 * b.nrows * b.nb ≤ s.drain.tmemSize ∧ (∀ y ∈ b.satAddr, y + 4 ≤ s.drain.tmemSize ∧ y % 4 = 0) ∧
      b.codes % 16 = 0 ∧ b.scales % 2 = 0) := by decide +kernel

/-- Lanes 0 and 1 of a bundle at one word, of which lane 1 is executed, some hints pending; the first waits at the word, or has
its word behind it. -/
def bundled (w : Status) (h : Hints) : State :=
  hinted { quiet [(0, { status := w }), (1, {})] with cur := .lane 0 0 1 } h

-- A lane behind one that waits, and one with an access out at a peer.
theorem witness_EngineIssues_waiting :
    let h : Hints := { imm20 := some 0x4001#21, c4 := some 8#8 }
    let k : Hints := { imm20 := some 30#21, c4 := some 12#8 }
    (bundled (.parked .peer) {}).kind = .team ∧ (bundled (.parked .peer) {}).behind = true ∧ (bundled .ready {}).behind = false ∧
    ({ lane [] with net := busyNet (.load 4) } : State).netBusy = true ∧
    ([(Instr.brdhLin 1#8 5#7 0#1 1#3, issueHints, [1, 11, 8, 19]), (.brdhTen 1#8 5#7 0#1 1#3, issueHints, [1, 11, 8, 19])].all
      (takes? (bundled (.parked .peer) h))) = true ∧
    ([(Instr.tcpy 1#8 5#7 0#1 1#3, issueHints, [1, 11, 12, 30]), (.twb 1#8 5#7 1#3, issueHints, [1, 11, 12, 30])].all
      (takes? (bundled (.parked .peer) k))) = true ∧
    ([(Instr.gath 1#8 1#3, ({ cache := true } : HintUse), [1]), (.scat 1#8 1#3, { cache := true }, [1]), (.mma 2#8 1#8 1#3, {}, [2, 1]),
      (.acq 2#8 1#8 1#3, { dxbd := true }, [2, 1])].all (takes? (bundled (.parked .peer) {}))) = true := by decide +kernel

-- The operand registers of an MMA: settled; lane 5 of the group with a load out; lane 5 between the parts of a word.
theorem witness_EngineIssues_operands :
    let b := mmaBlock (mmaBytes 5)
    let with_ := fun (a : Agent) => let s := issuing 0 (mmaBytes 5) [] [(1, 0#32)] {}
      ({ s with cores := [(0, { s.core 0 with teams := [(0, { teamOf [(0, {}), (5, a)] with tm := putBytes [] 0 (mmaBytes 5) })] })] } : State)
    ((with_ {}).operandOut b = false ∧ (with_ {}).operandMid b = false) ∧
    (let s := with_ { netIds := [0] }
     s.operandOut b = true ∧ s.queueFull 0 2 = false ∧ s.netBusy = false) ∧
    (let s := with_ { status := .parked (.mid 0x68000000#32) }
     s.operandOut b = false ∧ s.operandMid b = true ∧ s.queueFull 0 2 = false) := by decide +kernel

theorem witness_EngineIssues_full :
    let ops := fun q n => List.replicate n (someOp q (.gath (gatherBlock [])))
    (issuing 0 [] (ops 1 15) [] {}).drain.queueFull 0 1 = false ∧ (issuing 0 [] (ops 1 16) [] {}).drain.queueFull 0 1 = true ∧
    (issuing 0 [] (ops 2 16) [] {}).drain.queueFull 0 2 = true ∧ (issuing 0 [] (ops 0 31) [] {}).drain.queueFull 0 0 = false := by
  decide +kernel

/-- A lane whose v1 holds tile + 64 × row + 4,096 × column. -/
theorem witness_MatrixEngine_tiles :
    let s := lane [(1, BitVec.ofNat 32 (63 * 64 + 48 * 4096)), (2, 1#32), (3, BitVec.ofNat 32 (49 * 4096))]
    let op := someOp 2 (.mma (mmaBlock (mmaBytes 5)) (0, 0#32) none)
    (∀ w ∈ [(Instr.acld 8#8 1#8 15#4, ({} : HintUse), [23, 1]), (.acst 8#8 1#8 15#4, {}, [23, 1]), (.acz 1#8, {}, [1]),
      (.acflg 2#8 1#8, {}, [2, 1])], s.Takes w.1 w.2.1 w.2.2) ∧ s.cur = .lane 0 0 0 ∧
    (∃ t, s.team 0 0 = some t ∧ (t.nlanes + 63) / 64 = 1) ∧ (s.v 2).toNat % 64 = 1 ∧ (s.v 1).toNat % 64 < 1 ∧
    (s.v 1).toNat / 4096 % 64 + 16 = 64 ∧ 64 < (s.v 3).toNat / 4096 % 64 + 16 ∧ (s.core 0).ops = [] ∧
    (∃ o ∈ ((issuing 0 [] [op] [] {}).core 0).ops, o.slot = 0 ∧ o.kind.tile? = some 0) :=
  ⟨takes_all (by decide +kernel), by decide, ⟨_, rfl, by decide⟩, by decide, by decide, by decide, by decide, by decide,
    someOp 2 (.mma (mmaBlock (mmaBytes 5)) (0, 0#32) none), by decide +kernel, by decide, by decide⟩

/-- Matrix operation 1 of the queue: an MMA before and after its operand read, an ACQ. -/
theorem witness_MatrixEngine_events :
    let at_ := fun k => issuing 0 [] [someOp 2 k] [] {}
    let b := mmaBlock (mmaBytes 5)
    let q := acqBlock (acqBytes 5 0x3000) 6
    let width := 32
    (∀ k ∈ [OpKind.mma b (2, 0#32) none, .mma b (2, 0#32) (some ([], [])), .acq q],
      (at_ k).op 0 2 (BitVec.ofNat 32 1) = some (someOp 2 k) ∧ ((at_ k).team 0 0).isSome = true ∧ (someOp 2 k).phase = .running ∧
      (at_ k).tileTurn 0 (someOp 2 k) 0 = true) ∧
    q.codes + q.nrows * (width * q.nb) ≤ q.scales ∧
    (∀ a ∈ q.satAddr, q.codes + q.nrows * (width * q.nb) ≤ a ∧ q.scales + 2 * (q.nrows * q.nb) ≤ a) ∧
    (let p := issuing 0 [] [] [] {}
     let r := p.setCore 0 { p.core 0 with barriers := [(5, { allocated := true, expect := 2, refs := 2 })] }
     2 ≤ (r.barrier 0 5).refs ∧ (r.barrier 0 5).err = false ∧ (r.barrier 0 5).arrived + 1 < (r.barrier 0 5).expect ∧
     (r.barrier 0 5).balance + 66 ≤ 0xFFFFFFFF) := by decide +kernel

-- Chunk sums: products of BF16 elements, of which one is 1 and the others 0.
theorem witness_MatrixEngine_sums :
    let ra := [0x3F80#32]
    let p := fun k => (elemValue 3 ra k).mul (elemValue 3 ra k)
    (∀ k < shapeK 3, (p k).isFin) ∧ (∃ k < shapeK 3, (2 : ℚ) ^ (0 : Int) ≤ |(p k).exact|) ∧ (∀ k < shapeK 3, |(p k).exact| < (2 : ℚ) ^ (0 + 1 : Int)) := by
  have h : ∀ k < shapeK 3, (elemValue 3 [0x3F80#32] k).mul (elemValue 3 [0x3F80#32] k) =
      if k = 0 then .fin false (2 ^ 14) (-14) else .fin false 0 (-266) := by decide +kernel
  refine ⟨fun k hk => ?_, ⟨0, by decide, ?_⟩, fun k hk => ?_⟩
  · dsimp only; rw [h k hk]; split <;> trivial
  · dsimp only; rw [h 0 (by decide)]; norm_num [FVal.exact]
  · dsimp only; rw [h k hk]; split <;> norm_num [FVal.exact]

/-- A range of v1 bytes at v2:3, a lease in the hint. -/
def mooring (va n : Nat) (lease : BitVec 21) : State :=
  hinted (lane [(1, BitVec.ofNat 32 n), (2, BitVec.ofNat 32 va)]) { imm20 := some lease }

theorem witness_Mooring :
    (mooring 0 0 1#21).Takes (.moor 1#8 1#7 1#3) { imm20 := true, needImm20 := true } [1, 3] ∧
    (lane [(1, 1#32)]).Takes (.unmoor 1#8 1#7) {} [1, 3] ∧ (lane []).kind = .team ∧ (lane []).netBusy = false ∧
    [0, 1, 2 ^ 24, 2 ^ 24 + 1].map (fun n => ((mooring 0 n 65535#21).v 1).toNat) = [0, 1, 2 ^ 24, 2 ^ 24 + 1] ∧
    ((mooring 0 0 65535#21).ag.hints.imm20.getD 0#21).toNat = 65535 :=
  ⟨takes (w := (_, _, _)) (by decide +kernel), takes (w := (_, _, _)) (by decide +kernel), by decide, by decide, by decide, by decide⟩

/-- Lines 0 and 1, moored where their set has room; a set with four other moored lines; a range in an aperture. -/
theorem witness_Mooring_ranges :
    let s := mooring 0x40 128 1#21
    let moored := fun n => { s with l2 := [(0, (List.range n).map fun i =>
      ({ line := 2 ^ 32 * (i + 1), wts := 0#64, rts := 0#64, moor := some (9, 0) } : L2Line))] }
    let far := { s with tlb := [{ asid := 0, page := 0, pte := 0x800000000001F#64 ||| 0x380#64 ||| 0x40#64, level := 0 }] }
    let ps := [0x40, 0x60, 0x80, 0xA0].map fun a => ({ va := a, pa := a, len := 32, cls := 2, cache := true } : Piece)
    (∀ n ∈ [3, 4], (moored n).drain.pieces (moored n).drain.who.asid .rd 6 0x40 128 = ((moored n).drain, .inr ps) ∧
      ((((((NMap.get [] (moored n).drain.l2 (l2Key 0)).filter fun (x : L2Line) => x.moor.isSome).map fun (x : L2Line) => x.line) ++
        ps.map fun (p : Piece) => p.pa / 128).filter fun x => l2Key x = l2Key 0).dedup).length = n + 1) ∧
    (∀ p ∈ ps, p.cls ≠ 3 ∧ paRange p.pa = .local_) ∧ s.moors = [] ∧ s.agenda = [] ∧
    -- the second half of the range in an aperture, for UNMOOR
    (∀ p ∈ ps ++ [{ va := 0x1000, pa := 0x8000000000040, len := 32, cls := 2, cache := true }],
      paRange p.pa ≠ .registers ∧ paRange p.pa ≠ .unassigned) ∧
    (∃ p, far.drain.pieces far.drain.who.asid .rd 2 0x40 1 = (far.drain, .inr [p]) ∧ paRange p.pa = .aperture 0 0x40 ∧ p.cls ≠ 3) :=
  ⟨by decide +kernel, by decide +kernel, by decide, by decide, by decide +kernel, { va := 0x40, pa := 0x8000000000040, len := 1, cls := 2, cache := true }, by decide +kernel,
    by decide +kernel, by decide +kernel⟩

/-! Work lists, clutches, layered targets, visibility -/

/-- A list descriptor at 0x400 with four items at 0x800, its domain's descriptor at 0x440 (R157, R158). -/
def listState (head tail flags index : Nat) (dom : Option Nat) : State :=
  let s := (addressing 0x400#64 2).pokeBytes 0x400 (leBytes 8 0x800 ++ leBytes 4 4 ++ leBytes 4 index ++ leBytes 8 0x440 ++ leBytes 8 head ++
    leBytes 8 tail ++ leBytes 4 0 ++ leBytes 4 1 ++ leBytes 16 0 ++ leBytes 24 1 ++ leBytes 4 flags ++ leBytes 36 0)
  { s with ag := { s.ag with domain := dom } }

/-- The two descriptors are read and pass their checks, and `ok` holds of them. -/
def opens? (s : State) (need : Need) (ok : State → Nat → Nat → Bool) : Bool :=
  gives? (fun r list => r.numAt (list + 16) 8 % 64 == 0 && decide (r.numAt (list + 16) 8 < 2 ^ 56) && gives? (fun u dom =>
    u.listOk list && u.domainOk dom && decide (u.numAt (list + 12) 4 < u.numAt dom 4) &&
    decide (list + 64 ≤ dom ∨ dom + 64 ≤ list) && ok u list dom) (r.descriptor .rw (r.numAt (list + 16) 8))) (s.drain.descriptor need 0x400)

/-- Both are read, and one of them is broken: the list's, the domain's, or the index of the list. -/
def broken? (s : State) (need : Need) (k : Nat) : Bool :=
  gives? (fun r list => r.numAt (list + 16) 8 % 64 == 0 && gives? (fun u dom => match k with
    | 0 => !u.listOk list
    | 1 => u.listOk list && !u.domainOk dom
    | _ => u.listOk list && u.domainOk dom && decide (u.numAt dom 4 ≤ u.numAt (list + 12) 4))
      (r.descriptor .rw (r.numAt (list + 16) 8))) (s.drain.descriptor need 0x400)

/-- The place of an item. -/
def placed? (ok : State → Piece → Bool) (i : Nat) (write : Bool) (u : State) (list : Nat) : Bool :=
  gives? ok (u.itemPlace u.who.asid (u.numAt list 8) (u.numAt (list + 8) 4) i write)

def misplaced? (i : Nat) (write : Bool) (u : State) (list : Nat) : Bool :=
  Got.fails (u.itemPlace u.who.asid (u.numAt list 8) (u.numAt (list + 8) 4) i write) == 1

/-- An item of a list, reserved and not yet written. -/
def itemAt (pa : Nat) : WlItem :=
  { agent := .lane 0 0 0, who := { core := 0, asid := 0, launch := 0, slot := 0, lane := 0 }, domain := 0x440,
    piece := { va := 0x830, pa := pa, len := 16, cls := 2, cache := true }, bytes := List.replicate 16 1#8 }

-- A lane behind one that waits, one with an access out, one whose bundle has one out.
theorem witness_WorkLists_waiting :
    (∀ s ∈ [({ quiet [(0, { status := .parked .peer }), (1, {})] with cur := .lane 0 0 1 } : State),
        { quiet [(0, {}), (1, {})] with cur := .lane 0 0 0, net := busyNet (.load 4) },
        { quiet [(0, {}), (1, {})] with cur := .lane 0 0 1, net := busyNet (.load 4) }],
      s.kind = .team ∧ (s.behind = true ∨ s.netBusy = true ∨ s.matesOut = true) ∧
      ∀ w ∈ [(Instr.wopen 1#7 1#3, ({} : HintUse), [3]), (.wapp 2#6 1#7 1#3, {}, [11, 3]), (.wtake 2#6 1#7 1#3, {}, [11, 3])],
        s.Takes w.1 w.2.1 w.2.2) ∧
    ({ quiet [(0, { status := .parked .peer }), (1, {})] with cur := .lane 0 0 1 } : State).behind = true ∧
    ({ quiet [(0, {}), (1, {})] with cur := .lane 0 0 0, net := busyNet (.load 4) } : State).netBusy = true ∧
    ({ quiet [(0, {}), (1, {})] with cur := .lane 0 0 1, net := busyNet (.load 4) } : State).matesOut = true := by
  refine ⟨fun s hs => ⟨?_, ?_, fun w hw => takes_all (s := s) (ws := [(Instr.wopen 1#7 1#3, ({} : HintUse), [3]),
    (.wapp 2#6 1#7 1#3, {}, [11, 3]), (.wtake 2#6 1#7 1#3, {}, [11, 3])]) ?_ w hw⟩, by decide, by decide, by decide⟩ <;>
  · simp only [List.mem_cons, List.not_mem_nil, or_false] at hs
    rcases hs with rfl | rfl | rfl <;> decide +kernel

theorem witness_WorkLists :
    (∀ w ∈ [(Instr.wopen 1#7 1#3, ({} : HintUse), [3]), (.wapp 2#6 1#7 1#3, {}, [11, 3]), (.wtake 2#6 1#7 1#3, {}, [11, 3])],
      (listState 0 0 1 0 none).Takes w.1 w.2.1 w.2.2) ∧ (lane []).netBusy = false ∧ (lane []).kind = .team ∧
    (listState 0 0 1 0 none).behind = false ∧ (listState 0 0 1 0 none).matesOut = false ∧ (listState 0 0 1 0 none).ag.netIds = [] ∧
    -- a misaligned DOMAIN field; a list of version 0, a domain of version 0, an index the domain has not
    (∀ n ∈ [Need.rd, .rw],
      gives? (fun r list => r.numAt (list + 16) 8 % 64 != 0) (((listState 0 0 1 0 none).pokeBytes 0x410 [0x48#8]).drain.descriptor n 0x400) = true ∧
      broken? ((listState 0 0 1 0 none).pokeBytes 0x42C [0#8]) n 0 = true ∧ broken? (listState 0 0 0 0 none) n 1 = true ∧
      broken? (listState 0 0 1 9 none) n 2 = true) ∧
    -- quiescent, not quiescent, joined already
    opens? (listState 0 0 3 0 none) .rd (fun u _ dom => u.numAt (dom + 24) 4 / 2 % 2 == 1 && u.ag.domain.isNone) = true ∧
    opens? (listState 0 0 1 0 none) .rd (fun u _ dom => u.numAt (dom + 24) 4 / 2 % 2 == 0 && u.ag.domain.isNone) = true ∧
    opens? (listState 0 0 1 0 (some 0x440)) .rd (fun u _ dom => u.numAt (dom + 24) 4 / 2 % 2 == 0 && u.ag.domain == some dom) = true ∧
    -- full, with room for the last item, empty
    opens? (listState 3 7 1 0 none) .rw (fun u l _ => decide (u.numAt (l + 24) 8 + u.numAt (l + 8) 4 ≤ u.numAt (l + 32) 8)) = true ∧
    opens? (listState 3 6 1 0 none) .rw (fun u l _ => decide (u.numAt (l + 32) 8 < u.numAt (l + 24) 8 + u.numAt (l + 8) 4) &&
      placed? (fun _ _ => true) 6 true u l) = true ∧
    opens? (listState 3 3 1 0 none) .rw (fun u l _ => decide (u.numAt (l + 32) 8 ≤ u.numAt (l + 24) 8)) = true :=
  ⟨takes_all (by decide +kernel), by decide +kernel⟩

-- An item whose place is not accessible, one to take, one not written, a poisoned one.
theorem witness_WorkLists_items :
    (∀ w ∈ [true, false], opens? ((listState 1 (if w then 1 else 2) 1 0 none).pokeBytes 0x400 (leBytes 8 (2 ^ 56 - 16))) .rw
      (fun u l _ => misplaced? 1 w u l) = true) ∧
    (let takes := fun (s : State) (ok : State → Piece → Bool) => opens? s .rw (fun u l _ =>
       decide (u.numAt (l + 24) 8 < u.numAt (l + 32) 8) && placed? ok 3 false u l)
     takes (listState 3 4 1 0 none) (fun v x => v.wlItems.isEmpty && paRange x.pa == .local_ && (v.firstPoison x.pa 16).isNone) = true ∧
     takes { listState 3 4 1 0 none with wlItems := [(0, itemAt 0x830)] } (fun v x => v.wlItems.any fun e => e.2.piece.pa == x.pa) = true ∧
     takes { listState 3 4 1 0 none with poison := [(65, true)] }
       (fun v x => v.wlItems.isEmpty && paRange x.pa == .local_ && (v.firstPoison x.pa 16).isSome) = true) := by decide +kernel

theorem witness_WorkLists_events :
    let w : WlItem := itemAt 0x800
    let s : State := { (quiet []).pokeBytes 0x450 [1#8] with l2 := [], wlItems := [(4, w)] }
    let far : State := { quiet [] with wlItems := [(4, itemAt 0x8000000000040)] }
    let x : TakeWait := { list := 0x400, domain := 0x440, dest := 8, pred := 1#3, base := 0x800, cap := 4 }
    let a : Agent := { status := .parked (.take x), parkedAt := 10 }
    (s.wlItems.find? 4 = some w ∧ s.takersOf w.domain = [] ∧ (∀ line, (s.l2Line line).owner = none) ∧ paRange w.piece.pa = .local_ ∧
      paRange w.domain = .local_ ∧ w.domain % 64 = 0 ∧ w.piece.pa % 16 = 0 ∧ w.bytes.length = 16 ∧ w.domain + 64 ≤ w.piece.pa ∧
      1 ≤ s.numAt (w.domain + 16) 8 ∧ s.wlItems.find? 5 = none) ∧
    (far.wlItems.find? 4 = some (itemAt 0x8000000000040) ∧ (itemAt 0x8000000000040).piece.aperture?.isSome = true ∧
      ∀ e ∈ far.net, e.2.item? ≠ some 4) ∧
    (let q : State := { quiet [(0, a)] with cclk := 4106 }
     q.agentAt (.lane 0 0 0) = some a ∧ a.parkedAt + 4096 ≤ q.cclk) :=
  ⟨⟨by decide +kernel, by decide +kernel, fun _ => rfl, by decide, by decide, by decide, by decide, by decide, by decide,
    by decide +kernel, by decide⟩, by decide +kernel, by decide +kernel⟩

-- The example of R92: KW 12, OW 4, the elements (5, 3), (5, 9), (30, 0) after the fence 0.
def streamElems : List Elem := [⟨5, 3, []⟩, ⟨5, 9, []⟩, ⟨30, 0, []⟩]

theorem test_stream_example : encodeElems 4 0 0 streamElems = ⟨0xC069E040, 32⟩ ∧
    decodeElems (0xC069E040 * 2 ^ 1888) 32 4 0 3 0 0 = some streamElems := by decide +kernel

theorem witness_Clutches_codes :
    2 ^ 62 - 1 < 2 ^ 62 ∧ (gapCode (2 ^ 62 - 1)).len = 67 ∧ takeBits ((gapCode (2 ^ 62 - 1)).val * 2 ^ 1853) 0 67 = (gapCode (2 ^ 62 - 1)).val ∧
    takeBits ((0b11111 * 2 ^ 62 + 4) * 2 ^ 0) 1853 67 = 0b11111 * 2 ^ 62 + 4 ∧
    (0 :: streamElems.map Elem.key).Pairwise (· ≤ ·) ∧ (∀ e ∈ streamElems, e.key < 2 ^ 62 ∧ e.ot < 2 ^ 4 ∧ e.attr.length = 0) ∧
    (encodeElems 4 0 0 streamElems).len ≤ 1920 := by decide +kernel

/-- A clutch at 0x400: KW 12, OW 4; its first block at 0x800 holds the example of R92, a second one at 0x900 the element
(40, 0), fence 40; two more blocks fit in the index at 0xC00 (R85 to R89). -/
def clutchState (count live free : Nat) (kw : Byte) (v : NMap Word) (h : Hints) : State :=
  let s := hinted (lane ([(2, 0x400#32)] ++ v)) h
  let s := s.pokeBytes 0x400 (leBytes 8 0x800 ++ leBytes 8 0xC00 ++ leBytes 4 count ++ leBytes 4 4 ++ leBytes 4 free ++ leBytes 4 live ++
    leBytes 8 4 ++ leBytes 8 0 ++ [kw, 4#8, 0#8, 0#8] ++ leBytes 4 1)
  let s := (s.pokeBytes 0x800 (leBytes 8 0 ++ leBytes 2 3 ++ leBytes 2 32 ++ leBytes 4 (if live = 1 then 0xFFFFFFFF else 1) ++
    [0xC0#8, 0x69#8, 0xE0#8, 0x40#8]))
  (s.pokeBytes 0x900 (leBytes 8 40 ++ leBytes 2 1 ++ leBytes 2 5 ++ leBytes 4 0xFFFFFFFF)).pokeBytes 0xC00
    (leBytes 16 0 ++ leBytes 8 40 ++ leBytes 8 1)

/-- The descriptor is read. -/
def onClutch? (s : State) (need : Need) (ok : State → Tx → Clutch → Bool) : Bool :=
  gives? (fun y r => ok y r.1 (r.1.s.clutchAt r.2)) (s.drain.begin.read need 0x400 64)

/-- A key's block is looked up and read, with the entry after it. -/
def finds? (s : State) (need : Need) (key : Nat) (ok : Clutch → Nat → List IndexEntry → Block → Bool) : Bool :=
  onClutch? s need fun _ x c => x.s.clutchOk c && decide (c.live ≠ 0) && gives? (fun _ q => gives? (fun _ e =>
    gives? (fun _ f => gives? (fun _ b => ok c q.2 f.2 b.2) (f.1.block c need e.2))
      (e.1.entries c need (min 1 (c.live - (q.2 + 1))) (q.2 + 1))) (q.1.entry c need q.2)) (x.lookup c need key 33 0 c.live)

/-- The same, with the transaction. -/
def findsTx? (s : State) (need : Need) (key : Nat) (ok : Tx → Clutch → Nat → Block → Bool) : Bool :=
  onClutch? s need fun _ x c => x.s.clutchOk c && decide (c.live ≠ 0) && gives? (fun _ q => gives? (fun _ e =>
    gives? (fun _ f => gives? (fun _ b => ok b.1 c q.2 b.2) (f.1.block c need e.2))
      (e.1.entries c need (min 1 (c.live - (q.2 + 1))) (q.2 + 1))) (q.1.entry c need q.2)) (x.lookup c need key 33 0 c.live)

/-- A clutch of KW 62, OW 32, AB 8 whose one block holds ten elements of key 0 and nine of key 1, or nineteen of key 0:
97 bits each, the first of key 1 with the gap code 1000 at bit 970. -/
def packed (free : Nat) (two : Bool) : State :=
  let s := (clutchState 2 1 free 62#8 [] {}).pokeBytes 0x430 [62#8, 32#8, 0#8, 8#8]
  let s := s.pokeBytes 0x808 (leBytes 2 19 ++ leBytes 2 (19 * 97 + if two then 3 else 0) ++ leBytes 4 0xFFFFFFFF ++ leBytes 4 0)
  s.pokeBytes (0x810 + 121) [if two then 0x20#8 else 0#8]

/-- Elements of a block above a cursor. -/
def above (b : Block) (key ot ord : Nat) : List (Elem × Nat) := (ordinals b.elems none 0).filter fun z =>
  decide (key < z.1.key ∨ (z.1.key = key ∧ (ot < z.1.ot ∨ (z.1.ot = ot ∧ ord < z.2))))

theorem witness_Clutches :
    (∀ w ∈ [(Instr.clcnt 4#7 1#7, ({} : HintUse), [9, 3]), (.clstat 2#6 1#7, {}, [11, 3]), (.clins 8#8 1#7 1#3, {}, [15, 3]),
      (.clrem 8#8 1#7 1#3, {}, [15, 3]), (.clgrow 8#8 1#7 1#3, {}, [8, 3])], (clutchState 2 2 0xFFFFFFFF 12#8 [] {}).Takes w.1 w.2.1 w.2.2) ∧
    (clutchState 2 2 0xFFFFFFFF 12#8 [] { c4 := some 20#8 }).Takes (.clnext 8#8 1#7 1#3) { c4 := true, needC4 := true } [15, 3, 21] ∧
    (lane []).netBusy = false ∧ (lane []).kind ≠ .keeper ∧ (clutchState 2 2 0xFFFFFFFF 12#8 [] {}).behind = false ∧
    -- descriptors that break R87 and that keep it, of no live block
    (∀ n ∈ [Need.rd, .rw], onClutch? (clutchState 2 2 0xFFFFFFFF 0#8 [] {}) n (fun _ x c => !x.s.clutchOk c) = true ∧
      onClutch? (clutchState 0 0 0xFFFFFFFF 62#8 [] {}) n (fun _ x c => x.s.clutchOk c && c.live == 0 && c.free == 0xFFFFFFFF) = true) ∧
    -- CLGROW: past the cap, and two new blocks
    onClutch? (clutchState 2 2 0xFFFFFFFF 12#8 [] {}) .rw (fun _ x c => x.s.clutchOk c && decide (c.cap < c.count + 3)) = true ∧
    onClutch? (clutchState 2 2 0xFFFFFFFF 12#8 [] {}) .rw (fun _ x c => x.s.clutchOk c && decide (c.count + 2 ≤ c.cap) &&
      gives? (fun _ _ => true) (x.newBlocks c 2 c.count)) = true :=
  ⟨takes_all (by decide +kernel), takes (w := (_, _, _)) (by decide +kernel), by decide, by decide, by decide, by decide +kernel⟩

/-- Keys 5 and 30 are in block 0, 40 in block 1: an element above the cursor within the bound or past it; none, with no
entry left, or with one whose fence is within the bound or past it. -/
theorem witness_Clutches_next :
    let s := clutchState 2 2 0xFFFFFFFF 12#8 [] {}
    finds? s .rd 5 (fun _ i _ b => i == 0 && ((above b 5 3 1).head?.map fun z => z.1.key) == some 5) = true ∧
    finds? s .rd 5 (fun _ _ _ b => ((above b 5 9 1).head?.map fun z => z.1.key) == some 30) = true ∧
    finds? s .rd 30 (fun _ _ after b => above b 30 0 1 == [] && after.map IndexEntry.fence == [40]) = true ∧
    finds? s .rd 40 (fun _ i after b => i == 1 && above b 40 0 1 == [] && after == []) = true := by decide +kernel

/-- An insertion of (5, 4) that fits; a removal that finds nothing, one from a block of more elements, and one that would
empty the second block. -/
theorem witness_Clutches_change :
    let s := clutchState 2 2 0xFFFFFFFF 12#8 [] {}
    let one := clutchState 1 1 0xFFFFFFFF 12#8 [] {}
    finds? s .rw 5 (fun c _ _ b => c.fits b.fence [⟨5, 3, []⟩, ⟨5, 4, []⟩, ⟨5, 9, []⟩, ⟨30, 0, []⟩] && b.elems == streamElems) = true ∧
    finds? s .rw 6 (fun _ _ _ b => b.elems.all fun z => z.key != 6) = true ∧
    finds? s .rw 30 (fun c _ _ b => b.elems == [⟨5, 3, []⟩, ⟨5, 9, []⟩] ++ ⟨30, 0, []⟩ :: [] && c.fits b.fence [⟨5, 3, []⟩, ⟨5, 9, []⟩]) = true ∧
    finds? one .rw 5 (fun c i after b => i == 0 && c.live == 1 && after == [] && b.elems == streamElems) = true ∧
    -- WIDTH: a key of 12 bits and one past it, an offset and tag of 4 bits and one past it
    2 ^ 12 ≤ 4096 ∧ 4095 < 2 ^ 12 ∧ 4 + 0 < 32 ∧ 2 ^ (4 + 0) ≤ 16 ∧ 2 ^ 30 ≤ 0x40000000 := by decide +kernel

/-- An insertion that splits its block, with a free block and without one; one whose elements all have one key. -/
theorem witness_Clutches_split :
    let new := fun (b : Block) n => b.elems.take n ++ (⟨0, 0, List.replicate 8 0#8⟩ : Elem) :: b.elems.drop n
    let key := fun (es : List Elem) j => (es.getD j ⟨0, 0, []⟩).key
    let splits := fun (c : Clutch) (b : Block) => let es := new b 10
      !c.fits b.fence es && key es 10 == 0 && key es 11 == 1 && es.length / 2 == 10 && c.fits b.fence (es.take 11) && c.fits (key es 11) (es.drop 11)
    findsTx? (packed 1 true) .rw 0 (fun x c i b => splits c b && gives? (fun _ f => gives? (fun _ g => gives? (fun _ _ => true) (g.1.freeBlock c))
      (f.1.slots c (min (c.live - i) (c.cap - (i + 1))) (i + 1))) (x.entries c .rw (c.live - (i + 1)) (i + 1))) = true ∧
    findsTx? (packed 0xFFFFFFFF true) .rw 0 (fun _ c _ b => splits c b && c.free == 0xFFFFFFFF) = true ∧
    findsTx? (packed 1 false) .rw 0 (fun _ c _ b => let es := new b 19
      !c.fits b.fence es && (List.range 19).all fun j => key es (j + 1) == key es j) = true ∧
    -- a removal that empties the second block
    findsTx? (clutchState 2 2 0xFFFFFFFF 12#8 [] {}) .rw 40 (fun x c i b => i == 1 && b.elems.length == 1 && gives? (fun _ f => gives? (fun _ q =>
      gives? (fun _ l => gives? (fun _ _ => true) (l.1.slots c (c.live - (i + 1)) i)) (q.1.entries c .rw (c.live - (i + 1)) (i + 1)))
        (f.1.block c .rw f.2)) (x.entry c .rw (i - 1))) = true := by decide +kernel

/-- A layered target of 2 × 2 pixels at 0x400, its head words at 0x500, its pool at 0x800 (R108 to R110): LBOUND, MODE,
pages, FREE_HEAD and FREE_COUNT; pixel (0, 0) has a list of nodes 1 to n, nearest first, at depths 0.25 and 0.5. -/
def targetState (lbound n mode pages free : Nat) (v : NMap Word) : State :=
  let s := (lane ([(2, 0x400#32)] ++ v)).pokeBytes 0x400 (leBytes 8 0x500 ++ leBytes 8 0x800 ++ leBytes 8 0xA00 ++ leBytes 2 2 ++
    leBytes 2 2 ++ leBytes 1 lbound ++ leBytes 1 mode ++ leBytes 2 0 ++ leBytes 4 0x3F800000 ++ leBytes 8 0x3C003C00 ++ leBytes 4 4 ++
    leBytes 4 pages ++ leBytes 4 free ++ leBytes 4 13 ++ leBytes 4 0)
  let s := s.pokeBytes 0x500 (leBytes 4 (if n = 0 then 0 else n * 2 ^ 27 + 1))
  (s.pokeBytes 0x810 (leBytes 4 0x3E800000 ++ leBytes 8 0 ++ leBytes 4 (if n = 2 then 2 else 0))).pokeBytes 0x820
    (leBytes 4 0x3F000000 ++ leBytes 12 0)

def onTarget? (s : State) (need : Need) (ok : Tx → Target → Bool) : Bool :=
  gives? (fun _ r => ok r.1 (r.1.s.targetAt 0x400 r.2)) (s.drain.begin.read need 0x400 64)

/-- The target keeps R113, its pixel (0, 0) is read. -/
def pixel? (s : State) (need : Need) (ok : Tx → Target → Pixel → Bool) : Bool :=
  onTarget? s need fun x t => x.s.targetOk t && gives? (fun _ q => ok q.1 t q.2) (x.pixel t need 0#32)

theorem witness_Layers_lists :
    let f : Frag := { depth := 0x3F000000#32, rg := 0#32, ba := 0#32, seq := 1#32 }
    let n : Frag := { f with depth := 0x3E800000#32 }
    2 ≤ [n, f].length ∧ 0 + 1 < [n, f].length ∧ (depthOf f.depth).isNan = false ∧ (∀ x ∈ [n, f], (depthOf x.depth).isNan = false) ∧
    ([n, f].map fun x => x.depth).Pairwise (fun x y => (depthOf y).lt (depthOf x) = false) ∧
    0 < insertionPoint true f [n, f] := by decide +kernel

theorem witness_Layers :
    (∀ w ∈ [(Instr.frag 16#8 1#7 1#3, ({} : HintUse), [22, 3]), (.frrd 16#8 1#7, {}, [22, 3]), (.rslv 4#6 1#7 0#1, {}, [19, 3]),
      (.rslv 4#6 1#7 1#1, {}, [19, 3]), (.frclr 16#8 1#7, {}, [16, 3]), (.pooladd 16#8 1#7 1#3, {}, [16, 3]), (.poolst 16#8 1#7, {}, [21, 3])],
      (targetState 2 1 0x80 1 3 []).Takes w.1 w.2.1 w.2.2) ∧ (targetState 2 1 0x80 1 3 []).behind = false ∧ (lane []).netBusy = false ∧ (lane []).kind ≠ .keeper ∧
    (∀ n ∈ [Need.rd, .rw], onTarget? (targetState 0 0 0x80 0 0 []) n (fun x t => !x.s.targetOk t) = true ∧
      onTarget? (targetState 1 0 0x80 0 0 []) n (fun x t => x.s.targetOk t && decide (t.width ≤ 2) && decide (t.pages = 0)) = true) ∧
    -- a free node below the bound, none free with the policy FAULT, at the bound
    pixel? (targetState 2 1 0x88 1 3 []) .rw (fun x t q => q.list.length == 1 && t.freeHead != 0 &&
      gives? (fun _ g => gives? (fun _ _ => true) (g.1.counters t [3])) (x.freeNode t { depth := 0x3F000000#32, rg := 0#32, ba := 0#32, seq := 0#32 })) = true ∧
    pixel? (targetState 2 1 0x80 1 0 []) .rw (fun _ t q => q.list.length == 1 && t.freeHead == 0 && !t.mergePolicy) = true ∧
    pixel? (targetState 2 0 0x84 1 0 []) .rw (fun x t q => q.list.length == 0 && t.freeHead == 0 && t.mergePolicy && gives? (fun _ _ => true) (x.counters t [2])) = true ∧
    pixel? (targetState 2 1 0x84 1 0 []) .rw (fun x t q => q.list.length == 1 && t.freeHead == 0 && t.mergePolicy && gives? (fun _ _ => true) (x.counters t [1])) = true ∧
    pixel? (targetState 2 2 0x80 1 3 []) .rw (fun x t q => q.list.length == 2 && t.lbound == 2 && gives? (fun _ _ => true) (x.counters t [0])) = true ∧
    pixel? (targetState 2 2 0x80 1 3 []) .rd (fun _ _ q => (q.list[1]?).isSome && (q.list[2]?).isNone) = true ∧
    -- POOLADD: past the cap, and one page
    onTarget? (targetState 2 0 0x80 1 3 []) .rw (fun x t => x.s.targetOk t && decide (t.pageCap < t.pages + 4)) = true ∧
    onTarget? (targetState 2 0 0x80 1 3 []) .rw (fun x t => x.s.targetOk t && decide (t.pages + 1 ≤ t.pageCap) &&
      gives? (fun _ _ => true) (x.newPages t 2 2)) = true ∧
    onTarget? (targetState 2 0 0x80 1 3 []) .rd (fun x t => x.s.targetOk t && decide (t.pages ≠ 0) &&
      gives? (fun _ _ => true) (x.read .rd t.pool 16)) = true ∧
    -- a depth that is NaN, beyond CLEAR, and one that is neither
    (depthOf 0x7FC00000#32).isNan = true ∧ (depthOf 0x3F800000#32).lt (depthOf 0x3F800001#32) = true ∧
    (depthOf 0x3F800000#32).lt (depthOf 0x3F800000#32) = false :=
  ⟨takes_all (by decide +kernel), by decide, by decide, by decide, by decide +kernel⟩

/-- A clutch whose one block holds the element (0, 0). -/
def single : State := (clutchState 1 1 0xFFFFFFFF 12#8 [] {}).pokeBytes 0x800 (leBytes 8 0 ++ leBytes 2 1 ++ leBytes 2 5 ++ leBytes 4 0xFFFFFFFF ++ leBytes 4 0)

/-- A clutch of two blocks, and one with no element and block 1 free. -/
def pair_ : State := clutchState 2 2 0xFFFFFFFF 12#8 [] { c4 := some 20#8 }

def none_ : State := clutchState 2 0 1 12#8 [(8, 5#32)] {}

theorem pageZero : PageZero pair_ ∧ PageZero none_ ∧ PageZero single ∧ PageZero (targetState 2 1 0x88 1 3 []) := by
  refine ⟨?_, ?_, ?_, ?_⟩ <;> exact ⟨rfl, rfl, rfl, rfl, by decide +kernel⟩

theorem witness_UnitWordsComplete_clutches :
    let c := pair_.clutchAt 0x400
    (∀ s ∈ [pair_, none_, single], s.netBusy = false ∧ s.behind = false ∧ s.kind ≠ .keeper ∧ s.paOf 0x400 = 0x400 ∧ s.clutchOk (s.clutchAt 0x400) = true) ∧
    (pair_.Shared .rd 0x400 64 ∧ pair_.Shared .rw 0x400 64) ∧ c.count + 2 ≤ c.cap ∧ pair_.Shared .rw (0x800 + 256 * 2) (256 * 2) ∧
    (none_.v 9).toNat < 2 ^ 30 ∧ (none_.clutchAt 0x400).live = 0 ∧ (none_.clutchAt 0x400).free = 1 ∧ none_.Shared .rw 0xC00 16 ∧
    none_.Shared .rw 0x900 256 ∧ none_.numAt 0x90C 4 = 0xFFFFFFFF := by
  refine ⟨by decide +kernel, ⟨pageZero.1.shared _ (by decide) (.inl rfl), pageZero.1.shared _ (by decide) (.inr rfl)⟩, by decide +kernel,
    pageZero.1.shared _ (by decide) (.inr rfl), by decide, by decide +kernel, by decide +kernel, pageZero.2.1.shared _ (by decide) (.inr rfl),
    pageZero.2.1.shared _ (by decide) (.inr rfl), by decide +kernel⟩

-- Lane 1 of a bundle behind lane 0, which waits at the word; a lane with an access out at a peer.
theorem witness_UnitWordsComplete_waiting :
    (bundled (.parked .peer) {}).kind ≠ .keeper ∧ (bundled (.parked .peer) {}).behind = true ∧
    ({ lane [] with net := busyNet (.load 4) } : State).netBusy = true ∧
    ([(Instr.clcnt 4#7 1#7, ({} : HintUse), [9, 3]), (.clstat 2#6 1#7, {}, [11, 3]), (.clins 8#8 1#7 1#3, {}, [15, 3]), (.clrem 8#8 1#7 1#3, {}, [15, 3]),
      (.clgrow 8#8 1#7 1#3, {}, [8, 3]), (.frag 16#8 1#7 1#3, {}, [22, 3]), (.frrd 16#8 1#7, {}, [22, 3]), (.rslv 4#6 1#7 0#1, {}, [19, 3]),
      (.frclr 16#8 1#7, {}, [16, 3]), (.pooladd 16#8 1#7 1#3, {}, [16, 3]), (.poolst 16#8 1#7, {}, [21, 3])].all
      (takes? (bundled (.parked .peer) {}))) = true ∧
    takes? (bundled (.parked .peer) { c4 := some 20#8 }) (.clnext 8#8 1#7 1#3, { c4 := true, needC4 := true }, [15, 3, 21]) = true := by
  decide +kernel

/-- The blocks of the example are found by their keys: both where the lookup goes, and their elements. -/
theorem witness_UnitWordsComplete_index (need : Need) (h : need = .rd ∨ need = .rw) :
    let c := pair_.clutchAt 0x400
    pair_.IndexSound c need ∧ pair_.EntryOfKey c 5 0 ∧ pair_.EntryOfKey c 40 1 := by
  have live : (pair_.clutchAt 0x400).live = 2 := by decide +kernel
  have index : (pair_.clutchAt 0x400).index = 0xC00 := by decide +kernel
  have fence : (pair_.indexEntry (pair_.clutchAt 0x400) 1).fence = 40 := by decide +kernel
  refine ⟨⟨?_, by rw [live]; decide +kernel, fun i j h1 h2 => ?_⟩, ⟨by omega, .inl rfl, fun j h1 h2 => ?_⟩,
    ⟨by omega, .inr (by omega), fun j h1 h2 => by omega⟩⟩
  · rw [live, index]; exact pageZero.1.shared _ (by decide) h
  · obtain ⟨rfl, rfl⟩ : i = 0 ∧ j = 1 := by omega
    rw [fence]; decide +kernel
  · obtain rfl : j = 1 := by omega
    omega

theorem witness_UnitWordsComplete_blocks (need : Need) (h : need = .rd ∨ need = .rw) :
    pair_.BlockHolds (pair_.clutchAt 0x400) need { fence := 0, block := 0 } 1 streamElems ∧
    single.BlockHolds (single.clutchAt 0x400) need { fence := 0, block := 0 } 0xFFFFFFFF [⟨0, 0, []⟩] := by
  have p1 : (pair_.clutchAt 0x400).pool = 0x800 := by decide +kernel
  have p2 : (single.clutchAt 0x400).pool = 0x800 := by decide +kernel
  refine ⟨⟨by rw [p1]; exact pageZero.1.shared _ (by decide) h, ?_, ?_, ?_, ?_, by decide +kernel⟩,
    ⟨by rw [p2]; exact pageZero.2.2.1.shared _ (by decide) h, ?_, ?_, ?_, ?_, by decide +kernel⟩⟩
  all_goals first
    | rw [p1, pageZero.1.paOf (by decide)]
    | rw [p2, pageZero.2.2.1.paOf (by decide)]
  all_goals try first
    | rw [pageZero.1.paOf (by decide)]
    | rw [pageZero.2.2.1.paOf (by decide)]
  all_goals decide +kernel

/-- An ordered target with a pixel of one node and one of none, a free node; pages to add, counters to read. -/
theorem witness_UnitWordsComplete_targets (need : Need) (h : need = .rd ∨ need = .rw) :
    let s := targetState 2 1 0x88 1 3 []
    let t := s.targetAt 0x400 0x400
    s.netBusy = false ∧ s.behind = false ∧ s.kind ≠ .keeper ∧ s.paOf 0x400 = 0x400 ∧ s.targetOk t = true ∧ s.Shared need 0x400 64 ∧
    s.PixelHolds t need 0#32 [1] ∧ s.PixelHolds t need 1#32 [] ∧ t.freeHead = 3 ∧ s.NodeUsable t .rw 3 ∧ s.Shared .rw (0x800 + 12) 4 ∧
    t.pages + 2 ≤ t.pageCap ∧ s.Shared .rw (0x800 + 256 * 1) (256 * 2) ∧ s.Shared .rd 0x800 16 := by
  intro s t
  have z : PageZero s := pageZero.2.2.2
  have pool : t.pool = 0x800 ∧ t.seqBase = 0xA00 ∧ t.headBase = 0x500 ∧ t.width = 2 := by decide +kernel
  have node : ∀ need k, need = .rd ∨ need = .rw → k ≤ 3 → s.NodeUsable t need k := fun need k hn hk =>
    ⟨by rw [pool.1]; exact z.shared _ (by omega) hn, fun _ => by rw [pool.2.1]; exact z.shared _ (by omega) hn⟩
  have head : ∀ x : Word, x.toNat < 2 → t.headOf x = 0x500 + 4 * x.toNat := fun x hx => by
    simp only [Target.headOf, pool.2.2.1, pool.2.2.2]; omega
  refine ⟨by decide, by decide, by decide, z.paOf (by decide), by decide +kernel, z.shared _ (by decide) h,
    ⟨by decide +kernel, by rw [head _ (by decide)]; exact z.shared _ (by decide) h, by rw [head _ (by decide), z.paOf (by decide)]; decide +kernel,
      by decide +kernel, fun k hk => ?_, fun k m hk => ?_⟩,
    ⟨by decide +kernel, by rw [head _ (by decide)]; exact z.shared _ (by decide) h, by rw [head _ (by decide), z.paOf (by decide)]; decide +kernel,
      by decide +kernel, fun k hk => (nomatch hk), fun k m hk => (nomatch hk)⟩,
    by decide +kernel, node _ _ (.inr rfl) (by decide), z.shared _ (by decide) (.inr rfl), by decide +kernel, z.shared _ (by decide) (.inr rfl),
    z.shared _ (by decide) (.inl rfl)⟩
  · obtain rfl : k = 1 := by simpa using hk
    exact ⟨by decide, by decide +kernel, node _ _ h (by decide)⟩
  · obtain ⟨rfl, rfl⟩ : k = 0 ∧ m = 1 := by
      rcases k with _ | k
      · exact ⟨rfl, by simpa using hk.symm⟩
      · simp at hk
    rw [pool.1, z.paOf (by decide)]; decide +kernel

/-- A ray record at 0x400: nodes at 0x800, one of them; a ray block at v32 with a stack. -/
def rayState (nodes n : Nat) (va : Nat) (st : Word) : State :=
  (lane [(2, BitVec.ofNat 32 va), (3, BitVec.ofNat 32 (va / 2 ^ 32)), (38, 0#32), (39, 0x3F800000#32), (40, 1#32), (41, st), (46, 0x800#32)]).pokeBytes
    0x400 (leBytes 8 nodes ++ leBytes 4 n ++ leBytes 20 0)

theorem witness_VisibilityWords :
    (rayState 0x800 1 0x400 0#32).Takes (.isect 32#8 1#7) {} [63, 3] ∧ (rayState 0x800 1 0x400 0#32).Takes (.isnext 32#8) {} [63] ∧
    (lane []).Takes (.tcov 0#8) {} [13] ∧ (lane []).kind ≠ .keeper ∧
    2 ^ 56 ≤ ((rayState 0x800 1 (2 ^ 56) 0#32).pair 2).toNat ∧ ((rayState 0x800 1 0x410 0#32).pair 2).toNat % 32 ≠ 0 ∧
    (∃ r bs, (rayState 0x880 0 0x400 0#32).drain.loadVA (rayState 0x880 0 0x400 0#32).who 2#2 none 0x400 32 = .ok r bs ∧
      decide (¬ 1 ≤ (wordIn bs 8).toNat) = true) ∧
    (let s := rayState 0x800 1 0x400 0x00100000#32
     ∃ r bs, s.drain.loadVA s.who 2#2 none 0x400 32 = .ok r bs ∧
      (decide (leNat (bs.take 8) % 128 = 0 ∧ 1 ≤ (wordIn bs 8).toNat ∧ ∀ b ∈ bs.drop 12, b = 0#8) && gives? (fun _ _ => true)
        (r.rayRun (Ray.mk (s.vs 32 3) (s.vs 35 3) (s.v 38) (s.v 39) 1#32 0x800#64 [{ ref := s.v 42, t := s.v 38, leaf := true }]))) = true) :=
  ⟨takes (w := (_, _, _)) (by decide +kernel), takes (w := (_, _, _)) (by decide +kernel), takes (w := (_, _, _)) (by decide +kernel),
    by decide, by decide, by decide, gives (ok := fun _ bs => decide (¬ 1 ≤ (wordIn bs 8).toNat)) (by decide +kernel),
    gives (ok := fun r bs => decide (leNat (bs.take 8) % 128 = 0 ∧ 1 ≤ (wordIn bs 8).toNat ∧ ∀ b ∈ bs.drop 12, b = 0#8) && gives? (fun _ _ => true)
        (r.rayRun (Ray.mk (State.vs (rayState 0x800 1 0x400 0x00100000#32) 32 3) (State.vs (rayState 0x800 1 0x400 0x00100000#32) 35 3)
          (State.v (rayState 0x800 1 0x400 0x00100000#32) 38) (State.v (rayState 0x800 1 0x400 0x00100000#32) 39) 1#32 0x800#64
          [{ ref := State.v (rayState 0x800 1 0x400 0x00100000#32) 42, t := State.v (rayState 0x800 1 0x400 0x00100000#32) 38, leaf := true }])))
      (by decide +kernel)⟩

/-- ISNEXT with DEPTH 9, with a reserved bit, and with DEPTH 8 and a step that ends; TCOV within its limits and outside. -/
theorem witness_VisibilityWords_blocks :
    8 < (9#32).toNat % 16 ∧ 0x10#32 &&& 0xFFEC00F0#32 ≠ 0#32 ∧ (8#32).toNat % 16 ≤ 8 ∧ 0xFF08#32 &&& 0xFFEC00F0#32 = 0#32 ∧
    gives? (fun _ _ => true) ((rayState 0x800 1 0x400 0#32).rayRun (Ray.mk [0#32, 0#32, 0#32] [0#32, 0#32, 0x7FC00000#32] 0#32 0x3F800000#32 1#32
      0x800#64 [])) = true ∧
    (let s := lane [(0, 0xFF800000#32), (1, 0x007FFFFF#32), (9, 0x7F007F00#32), (10, 256#32)]
     (s.v 10).toNat = 256 ∧ -(2 ^ 23) ≤ (s.v 0).toInt ∧ (s.v 1).toInt < 2 ^ 23 ∧ (s.v 9).toNat % 2 ^ 16 % 256 = 0 ∧
       (s.v 9).toNat % 2 ^ 16 < 32768) ∧ ¬ -(2 ^ 23) ≤ (0xFF7FFFFF#32).toInt := by decide +kernel

def finite (x : Word) : Bool :=
  match fval x with
  | .fin .. => true
  | _ => false

/-- A box that a ray along x meets, and a triangle whose samples lie inside. -/
theorem witness_BoxesAndCoverage :
    let r : Ray := Ray.mk [0#32, 0#32, 0#32] [0x3F800000#32, 0#32, 0#32] 0#32 0x40000000#32 1#32 0#64 []
    let box : List Word := [0x3F800000#32, 0#32, 0#32, 0x3F800000#32, 0#32, 0#32]
    (r.o.length = 3 ∧ r.d.length = 3 ∧ box.length = 6 ∧ (r.tmin :: r.tmax :: r.o ++ r.d ++ box).all finite = true) ∧ (slab r box).isSome = true ∧
    (let es := edgesOf [(0, 0), (65536, 0), (0, 65536)]
     (∀ e ∈ es, e.inside (e.at (256 * (0 + 3) + 128) (256 * (0 + 3) + 128)) = true) ∧ (1, 0) ≠ (0, 0) ∧
     tileMask es 4 0 0 ≠ 0 ∧ (0 : Int) < (65536 - 0) * (65536 - 0) - (0 - 0) * (0 - 0) ∧
     ∀ k < 3, 0 ≤ (es.getD k ⟨0, 0, 0, 0⟩).at (256 * 3 + 128) (256 * 3 + 128)) := by decide +kernel

theorem witness_KeeperWords :
    let r : EventRec := { kind := 1, ltag := 0, slot := 0, lane := some 1023, src := 4, bar := none, status := 1#16, addr := 0#64, launch := 0 }
    (∀ w ∈ [(Instr.evpop 1#6 1#3, ({} : HintUse), [7]), (.evpeek 1#6 1#3, {}, [7]), (.idle, {}, []), (.trel 1#8 1#3, {}, [1]), (.tkill 1#8 1#3, {}, [1])],
      (routine [r] []).Takes w.1 w.2.1 w.2.2) ∧ (routine [r] []).cur = .keeper 0 1 ∧
    (∃ x, ((routine [r] []).core 0).contexts.find? 1 = some x ∧ x.launch = some 0 ∧ x.records.take 64 = [r]) ∧
    (∃ x, ((routine [] []).core 0).contexts.find? 1 = some x ∧ x.records.take 64 = []) ∧
    ((routine [] [(1, 1#32)]).v 1).toNat % 64 = 1 ∧ ((routine [] []).v 1).toNat % 64 = 0 ∧ ((routine [] []).core 0).teams.map Prod.fst = [] ++ 0 :: [] ∧
    (∃ t, (routine [] []).team 0 0 = some t ∧ t.phase ≠ .retired ∧ t.launch = 0 ∧ t.held = false) ∧
    (let s := (routine [] []).modTeam 0 0 fun t => { t with held := true, lanes := [(0, { status := .stopped })] }
     ∃ t, s.team 0 0 = some t ∧ t.phase ≠ .retired ∧ t.held = true ∧ (t.lanes.find? 0).map Agent.status = some .stopped) ∧
    (lane []).cur ≠ .none ∧ (lane []).kind ≠ .keeper :=
  ⟨takes_all (by decide +kernel), rfl, ⟨_, rfl, rfl, rfl⟩, ⟨_, rfl, rfl⟩, by decide, by decide, by decide, ⟨_, rfl, by decide, rfl, rfl⟩,
    ⟨_, rfl, by decide, rfl, rfl⟩, by decide, by decide⟩

/-! ### The package, the links, the memory system -/

def withSmc (c : Smc) : State := { quiet [(0, {})] with smc := c }

/-- Staging of the first and the tenth row, training before and after it, the last die; the fetch with its three failures
and its two sources; OPEN; FAILED, hot and not; the window of the configuration record at its edges. -/
theorem witness_BringUp :
    (∀ c ∈ [({ phase := 1#4, rows := 0#8 } : Smc), { phase := 2#4, rows := 9#8, trained := true }, { phase := 2#4, rows := 10#8 },
        { phase := 2#4, rows := 9#8, trained := true, stagingDie := 3 }],
      (c.phase = 1#4 ∨ c.phase = 2#4) ∧ c.rows.toNat ≤ 10) ∧
    (9#8).toNat < 10 ∧ 3 ≤ ({ stagingDie := 3 } : Smc).stagingDie ∧ ({ stagingDie := 2 } : Smc).stagingDie < 3 ∧
    (∀ c ∈ [({ phase := 3#4, fetchFails := 1 } : Smc), { phase := 3#4, fetchFails := 2 }, { phase := 3#4, fetchFails := 2, sourcesFailed := 1 },
        { phase := 3#4, hostSource := true }, { phase := 3#4, fetched := some [] }], c.phase = 3#4 ∧ c.phase ≠ 1#4 ∧ c.phase ≠ 2#4) ∧
    ({ phase := 3#4, fetched := some [] } : Smc).hostSource = false ∧ recVerdict 2 (recBody []) [] ≠ 0#8 ∧
    ((∀ c ∈ [({ phase := 15#4, fail := 7#8, tMax := 95#8 } : Smc), { phase := 15#4, fail := 7#8, tMax := 94#8 }, { phase := 15#4, fail := 4#8 }],
      c.phase = 15#4) ∧ 95 ≤ (95#8).toNat ∧ (94#8).toNat < 95 ∧ (3#4).toNat ≤ 3 ∧ 3 < (6#4).toNat) := by decide +kernel

/-- The two windows give the records a GO takes. -/
theorem witness_BringUp_windows : ∃ cfg fw, cfg = windowRecord (withSmc {}).cfgWin 4096 ∧ fw = windowRecord (withSmc {}).fwWin (2 ^ 27) := ⟨_, _, rfl, rfl⟩

/-- A record is accepted where its header keeps R37, its signature holds, which is the device's matter (log entry 4), and
its SVN is not below that of the configuration record. -/
theorem witness_BringUp_accepted (kind : Nat) (cfg bs : List Byte) (h : recHeaderOk kind bs = true) (g : recSigned cfg bs = true)
    (n : ¬ recNum bs 12 4 < cfgMinSvn cfg) : recVerdict kind cfg bs = 0#8 := by simp [recVerdict, h, g, n]

theorem witness_ThrottleSteps :
    let reached := fun (t : Nat) => (if 95 ≤ t then 1 else 0) + (if 98 ≤ t then 1 else 0) + (if 101 ≤ t then 1 else 0) + (if 104 ≤ t then 1 else 0)
    (({ tStep := 4#4, pStep := 4#4 } : Smc).tStep.toNat ≤ 4 ∧ ({ pStep := 4#4 } : Smc).pStep.toNat ≤ 4) ∧
    2 < reached 101 ∧ ¬ 3 < reached 101 ∧ 1 ≤ 3 ∧ 98 + 3 ≤ 92 + 3 * 3 ∧ ¬ 99 + 3 ≤ 92 + 3 * 3 ∧
    110 ≤ (110#8).toNat + min 20 (leNat ((({} : Smc).config.drop 10).take 2)) ∧ (109#8).toNat + 0 < 110 ∧
    (let cap := min ({} : Smc).capHost.toNat ({} : Smc).capMgmt.toNat
     cap * 1000 < 2800001 ∧ 2659999 * 100 < 95 * (cap * 1000) ∧ 2800000 ≤ cap * 1000 ∧ 95 * (cap * 1000) ≤ 2660000 * 100) ∧
    ({ below := 8 } : Smc).below < 9 ∧ 9 ≤ ({ below := 9 } : Smc).below ∧ ({ nextStep := 1#4 } : Smc).nextStep ≠ ({} : Smc).step ∧
    ({ phase := 6#4 } : Smc).phase = 6#4 ∧ ({} : Smc).phase ≠ 6#4 := by decide +kernel

/-- An owner's session: bytes 276 to 323 of the configuration record not all 0; payloads of the lengths named and of no
such length; a request within a datagram and one beyond it; measurement indices at the edges. -/
theorem witness_ManagementPort :
    (let s := withSmc { phase := 6#4, config := List.replicate 323 0#8 ++ [1#8], spdm := [(0, { session := 2, owner := true })] }
     s.smc.phase = 6#4 ∧ (∃ b ∈ (s.smc.config.drop 276).take 48, b ≠ 0#8) ∧ (s.spdm 0).session = 2 ∧ (s.spdm 0).owner = true) ∧
    (withSmc { phase := 6#4, spdm := [(0, { session := 2 })] }).spdm 0 ≠ { session := 2, owner := true } ∧
    (let q := fun (n : Nat) => List.replicate n 0#8
     q 0 = [] ∧ q 1 ≠ [] ∧ ((0 : Nat) = 0 ∨ 5 < 0) ∧ (6 = 0 ∨ 5 < 6) ∧ (q 8).take 4 ++ (q 8).drop 4 = q 8 ∧ [] ++ q 0 = q 0 ∧ (q 4).length = 4 ∧ (q 5).length ≠ 4 ∧ (q 8).length = 8 ∧ (q 7).length ≠ 8 ∧
       (q 1024).length ≤ 1024 ∧ 1024 < (q 1025).length) ∧
    (let asked := fun (i : Byte) => (([0#8, 0#8, 0#8, i] : List Byte).getD 3 0#8).toNat
     asked 0#8 = 0 ∧ asked 255#8 = 255 ∧ asked 1#8 ≠ 0 ∧ asked 3#8 ≤ 3 ∧ 3 < asked 4#8 ∧ asked 4#8 ≠ 255) ∧
    ¬ (∃ b ∈ ((List.replicate 276 1#8 ++ List.replicate 48 0#8 ++ [1#8] : List Byte).drop 276).take 48, b ≠ 0#8) ∧
    (0x014 % 4 = 0 ∧ 0x014 < 4096 ∧ 4092 % 4 = 0 ∧ 4092 < 4096 ∧ ¬ 4096 < 4096 ∧ ¬ 4094 % 4 = 0) ∧
    ((withSmc { spdm := [(1, { session := 1 })] }).spdm 1).session = 1 := by decide +kernel

theorem witness_RegisterFile :
    (withSmc { phase := 6#4 }).smc.phase = 6#4 ∧ (withSmc { phase := 6#4 }).aperture 63 = {} ∧
    (({ withSmc { phase := 6#4 } with apertures := [(63, { state := .draining })] } : State).aperture 63).state ≠ .off ∧
    (0x0FFFFFFF % 4 ≠ 0 ∨ 0x10000000 ≤ 0x0FFFFFFF) ∧ 0x10000000 % 4 = 0 ∧ (withSmc {}).smc.phase ≠ 6#4 ∧ 0x20 ≠ 0x24 ∧
    -- GO and RESTART in one word, in FAILED and in the fetch phase; neither
    ((3#32).getLsbD 0 = true ∧ (3#32).getLsbD 1 = true ∧ (4#32).getLsbD 0 = false ∧ (4#32).getLsbD 1 = false) ∧
    (withSmc { phase := 15#4 }).smc.phase = 15#4 ∧ (withSmc { phase := 3#4 }).smc.phase ≠ 6#4 ∧ (withSmc { phase := 3#4 }).smc.phase ≠ 15#4 := by decide +kernel

/-- The last byte and the last 16 bytes of local memory fit, one more does not; peer 33 is admitted. -/
theorem witness_HostAndPeers :
    let s := { withSmc { phase := 6#4 } with allow := [(1, 2#32)] }
    s.smc.phase = 6#4 ∧ (∀ e ∈ s.l2, ∀ l ∈ e.2, l.owner = none) ∧
    s.hostWin.toNat * 2 ^ 28 / 2 ^ s.barLog2 * 2 ^ s.barLog2 + (2 ^ 39 - 1) % 2 ^ s.barLog2 = 2 ^ 39 - 1 ∧
    2 ^ 39 < (2 ^ 39 - 1) + 2 ∧ (2 ^ 39 - 1) + 1 ≤ 2 ^ 39 ∧
    (33 < 1024 ∧ (NMap.get 0#32 s.allow (33 / 32)).getLsbD (33 % 32) = true) ∧
    ¬ (34 < 1024 ∧ (NMap.get 0#32 s.allow (34 / 32)).getLsbD (34 % 32) = true) ∧
    (let fits := fun (a : HostAtomic) (pa : Nat) =>
      (a.size = 4 ∨ a.size = 8 ∨ (a.size = 16 ∧ a.kind = .cas)) ∧ pa % a.size = 0 ∧ pa + a.size ≤ 2 ^ 39
     fits { kind := .cas, size := 16, operand := 1#128, compare := 0#128 } (2 ^ 39 - 16) ∧
     ¬ fits { kind := .swap, size := 16, operand := 1#128, compare := 0#128 } (2 ^ 39 - 16) ∧
     ¬ fits { kind := .fetchAdd, size := 8, operand := 1#128, compare := 0#128 } 4) ∧
    peerTag (.read 0 4 7) = 7 := by
  decide +kernel

/-- Port 0 with CXL and without it; the sizes of the operations devices ship, the exchange of 16 bytes and the bit of one
byte among them; addresses at the end of local memory for the host and for a peer. -/
theorem witness_HostAndPeers_paths :
    (let cxl := fun (b : Bool) => { withSmc { phase := 6#4 } with hostPorts := [(0, { width := 5#4, cxl := b })] }
     (NMap.get {} (cxl true).hostPorts 0 : HostPort).cxl = true ∧ (NMap.get {} (cxl false).hostPorts 0 : HostPort).cxl ≠ true ∧
       HostPath.cxlMem ≠ .bar) ∧
    (let shipped := fun (size op : Nat) => size = 4 ∨ size = 8 ∨ (size = 16 ∧ op = 9) ∨ (size = 1 ∧ op = 14)
     shipped 4 0 ∧ shipped 8 13 ∧ shipped 16 9 ∧ shipped 1 14 ∧ ¬ shipped 16 8 ∧ ¬ shipped 2 0) ∧
    ((2 ^ 39 - 8) % 8 = 0 ∧ 2 ^ 39 - 8 + 8 ≤ 2 ^ 39 ∧ ¬ (2 ^ 39 + 8 ≤ 2 ^ 39) ∧ 2 ^ 39 < 2 ^ 39 - 1 + 2) ∧
    (withSmc { phase := 6#4 }).firstPoison 0 16 = none ∧
    (({ withSmc { phase := 6#4 } with poison := [(0, true)] } : State).firstPoison 0 16).isSome = true := by decide +kernel

/-- No line of a state without lines in its L2 has an owner. -/
theorem witness_HostAndPeers_free : ∀ line, (({ withSmc { phase := 6#4 } with l2 := [] } : State).l2Line line).owner = none := fun _ => rfl

/-- Aperture 3, port 11 allowed, in a state of its own with an access of lane 0. -/
def netState (k : ApState) (gen : BitVec 8) (up : Bool) (phase : NetPhase) : State :=
  let a : NetAccess := { agent := .lane 0 0 0, core := 0, slot := 0, launch := 0, aperture := 3, va := 0x1000, offset := 0, stamp := 1#8,
                         kind := .load 8, phase := phase }
  { withSmc { phase := 6#4 } with
      apertures := [(3, { state := k, gen := gen, ports := 0x800#12 })], peerPorts := [(11, { up := up })], net := [(5, a)] }

theorem witness_AperturesAndLinks :
    (((netState .off 1#8 true .inNetwork).aperture 3).state = .off ∧ ((netState .off 1#8 true .inNetwork).aperture 3).ports ≠ 0#12) ∧
    (netState .open_ 1#8 true .accepted).acceptedOf 3 ≠ [] ∧ (netState .open_ 1#8 true .inNetwork).acceptedOf 3 = [] ∧
    (∀ x ∈ [(netState .open_ 1#8 true .inNetwork, true), (netState .open_ 2#8 true .inNetwork, false),
        (netState .open_ 1#8 false .inNetwork, false), (netState .draining 1#8 true .inNetwork, false)],
      (∃ a, x.1.net.find? 5 = some a ∧ a.aperture = 3 ∧ a.phase = .inNetwork ∧
        ((x.1.aperture 3).state == .open_ && a.stamp == (x.1.aperture 3).gen && x.1.apertureUp (x.1.aperture 3)) = x.2)) ∧
    (∀ k ∈ [ApState.open_, .draining], ∃ a, (netState k 1#8 true .accepted).net.find? 5 = some a ∧ a.aperture = 3 ∧ a.phase = .accepted) ∧
    ((netState .fencing 2#8 true .inNetwork).aperture 3).state = .fencing ∧
    (∃ e ∈ (netState .fencing 2#8 true .inNetwork).net, e.2.aperture = 3 ∧ e.2.phase = .inNetwork ∧ e.2.stamp ≠ 2#8) ∧
    (∀ e ∈ (netState .fencing 2#8 true (.done [])).net, e.2.aperture = 3 → e.2.phase = .inNetwork → e.2.stamp = 2#8) :=
  ⟨by decide +kernel, by decide +kernel, by decide +kernel, by
    intro x hx
    simp only [List.mem_cons, List.not_mem_nil, or_false] at hx
    rcases hx with h | h | h | h <;> subst h <;> exact ⟨_, rfl, rfl, rfl, by decide +kernel⟩, by
    intro k hk
    exact ⟨_, rfl, rfl, rfl⟩, by decide +kernel, by decide +kernel, by decide +kernel⟩

/-- A port that gains and one that loses its link, at the last number of each kind; a launch with a resident team. -/
theorem witness_AperturesAndLinks_ports :
    11 < 12 ∧ 1 < 2 ∧ 1 ≤ (5#4).toNat ∧ (5#4).toNat ≤ 5 ∧ (5#3 : BitVec 3) ≠ 0#3 ∧
    (NMap.get {} (netState .off 1#8 true .inNetwork).peerPorts 11 : PeerPort).up ≠ false ∧
    (NMap.get {} (netState .off 1#8 false .inNetwork).peerPorts 11 : PeerPort).up ≠ true ∧
    (NMap.get {} (quiet []).hostPorts 0 : HostPort).width = 0#4 ∧ (NMap.get {} (quiet []).hostPorts 1 : HostPort).width = 0#4 ∧
    (let s := { quiet [] with hostPorts := [(0, { width := 1#4 })] }
     (NMap.get {} s.hostPorts 0 : HostPort).width ≠ 0#4) ∧ (quiet [(0, {})]).launch 0 = some launch0 ∧
    (quiet [(0, {})]).resident 0 = true := by decide +kernel

/-- A row one below its threshold, the same row promoted; a moored line before and at the end of its lease. -/
theorem witness_MemoryEvents :
    let key := 2 ^ 48 * 7 + 2 ^ 32 * (3 % 2 ^ 16) + 9 % 2 ^ 32
    let hot := fun (c : RowCount) => ((quiet []).dieMemOf 3).hrcEn = true ∧ c.promoted = false ∧ c.count + 1 = ((quiet []).dieMemOf 3).hrcThresh.toNat
    7 < 8 ∧ hot (NMap.get {} [(key, { count := 511 })] key) ∧ ¬ hot (NMap.get {} [(key, { count := 511, promoted := true })] key) ∧
    ¬ hot (NMap.get {} [(key, { count := 510 })] key) ∧
    (let s := { quiet [] with l2 := [(1, [{ line := 1, wts := 0#64, rts := 0#64, moor := some (100, 0) }])], cclk := 100 }
     (s.l2Line 1).moor = some (100, 0) ∧ 100 ≤ s.cclk ∧ ({ s with cclk := 99 } : State).cclk < 100) ∧ ((quiet []).l2Line 1).moor = none := by
  decide +kernel

/-- The last sector, core, unit and index; a lane and an engine operation that read the SRAM; 63 and 64 unread records, two
sources that wait. -/
theorem witness_ErrorLog :
    2 ^ 34 - 1 < 2 ^ 34 ∧ 639 < 640 ∧ 255 < 256 ∧ 2 ^ 24 - 1 < 2 ^ 24 ∧ ((quiet [(0, {})]).agentAt (.lane 0 0 0)).isSome = true ∧
    (∃ o, (bulkState [someOp 2 (.gath (gatherBlock []))]).op 0 2 (someOp 2 (.gath (gatherBlock []))).seq = some o) ∧ (quiet [(0, {})]).launch 0 = some launch0 ∧ (quiet [(0, {})]).resident 0 = true ∧
    (let d : DieMem := { errWait := [⟨16, 0#64, 4, true⟩], fclk := 12 }
     d.errWait ≠ [] ∧ 2 * 5 + 1 < max d.fclk (2 * 5) ∧ max d.fclk (2 * 6) ≤ 2 * 6 + 1 ∧ max { d with fclk := 13 }.fclk (2 * 6) ≤ 2 * 6 + 1) ∧
    (let d : DieMem := { elogWr := 63#32, errWait := [⟨16, 0#64, 4, true⟩, ⟨3, 0#64, 0, false⟩] }
     (d.elogWr - d.elogRd).toNat < 64 ∧ ((List.range 17).filter fun j => (d.errWait.find? fun e => e.source = j).isSome) = [3, 16]) ∧
    ¬ ((64#32 : Word) - 0#32).toNat < 64 := by
  refine ⟨by decide, by decide, by decide, by decide, by decide +kernel, ?_, by decide +kernel, by decide +kernel, by decide +kernel, by decide +kernel, by decide⟩
  exact ⟨_, rfl⟩

/-- The tables of address space 0 at 0x1000, the entry of virtual address 0 in each at its first place, but the sixteen
entries of a 64 KiB page from 0x4000; no translation cached and no line in the L2. -/
def walkState (valid : Bool) (e2 e1 e0 : Nat) : State :=
  let s : State := { ptroots := [(0, { valid := valid, root := 0x1000#52 })] }
  (((s.pokeBytes 0x1000 (leBytes 8 0x2001)).pokeBytes 0x2000 (leBytes 8 e2)).pokeBytes 0x3000 (leBytes 8 e1)).pokeBytes 0x4000
    ((List.range 16).flatMap fun i => leBytes 8 (if i = 0 then e0 + 0x300 else e0))

def walks : List State :=
  [walkState true 0x4000001F 0 0, walkState true 0x3001 0x20001F 0, walkState true 0x3001 0x4001 0x501F,
    walkState true 0x3001 0x4001 0x1041F, walkState true 0x3001 0 0]

/-- The entries the walk of virtual address 0 meets in each of those states. -/
theorem walks_entries :
    walks.map (fun s => (s.numAt 0x1000 8, s.numAt 0x2000 8, s.numAt 0x3000 8, s.numAt 0x4000 8)) =
      [(0x2001, 0x4000001F, 0, 0x300), (0x2001, 0x3001, 0x20001F, 0x300), (0x2001, 0x3001, 0x4001, 0x531F),
        (0x2001, 0x3001, 0x4001, 0x1071F), (0x2001, 0x3001, 0, 0x300)] ∧
    (∀ s ∈ walks, (s.ptroot 0).valid = true ∧ (s.ptroot 0).root.toNat + 8 * (0 / 2 ^ 39 % 2 ^ 17) = 0x1000 ∧ s.tlb = [] ∧ s.l2 = []) ∧
    ((walkState false 0 0 0).ptroot 0).valid = false := by decide +kernel

/-- A leaf of 1 GiB, of 2 MiB, of 4 KiB and of 64 KiB, the last with ACC and DIRTY in one of its sixteen entries alone; and
entry 0, which is neither a leaf nor a table. -/
theorem witness_MemoryEvents_walk :
    let next := fun (x : Nat) => x / 4096 * 4096
    let table := fun (x : Nat) => x % 4096 = 1 ∧ x < 2 ^ 52
    let leaf := fun (x : Nat) => x % 4 = 3 ∧ x / 2048 % 2 = 0 ∧ x < 2 ^ 52
    (∀ x ∈ [0x2001, 0x3001, 0x4001], table x) ∧ next 0x2001 = 0x2000 ∧ next 0x3001 = 0x3000 ∧ next 0x4001 = 0x4000 ∧
    (∀ x ∈ [0x4000001F, 0x20001F, 0x531F, 0x1071F], leaf x) ∧ ¬ leaf 0 ∧ ¬ table 0 ∧
    (∀ x ∈ [0x4000001F, 0x20001F, 0x531F], ¬ x / 1024 % 2 = 1) ∧ 0x1071F / 1024 % 2 = 1 ∧
    next 0x4000001F % 2 ^ 30 = 0 ∧ next 0x20001F % 2 ^ 21 = 0 ∧ next 0x1071F % 65536 = 0 ∧
    0x531F / 4 % 4 = 3 ∧ 0x531F / 16 % 2 = 1 ∧ ¬ 0x3317 / 8 % 2 = 1 := by
  decide +kernel

/-- The sixteen entries of the 64 KiB page agree but in ACC and DIRTY. -/
theorem witness_MemoryEvents_sixteen :
    ∀ i < 16, ∀ b < 64, b ≠ 8 → b ≠ 9 →
      ((walkState true 0x3001 0x4001 0x1041F).numAt (0x4000 + 8 * i) 8).testBit b =
        ((walkState true 0x3001 0x4001 0x1041F).numAt 0x4000 8).testBit b := by decide +kernel

/-- No line of a state without an L2 line has an owner. -/
theorem witness_MemoryEvents_free (e2 e1 e0 line : Nat) : ((walkState true e2 e1 e0).l2Line line).owner = none := rfl

theorem witness_ReadIndices :
    let ahead := fun (x rd : Word) => (x.toNat + 2 ^ 32 - rd.toNat) % 2 ^ 32
    (withSmc { phase := 6#4 }).smc.phase = 6#4 ∧ 3 < 4 ∧ ahead 2#32 0xFFFFFFFE#32 ≤ ahead 2#32 0xFFFFFFFE#32 ∧
    (ahead 2#32 0xFFFFFFFE#32 < ahead 3#32 0xFFFFFFFE#32 ∧ ahead 3#32 0xFFFFFFFE#32 < 2 ^ 31) ∧
    ahead 0x7FFFFFFD#32 0xFFFFFFFE#32 < 2 ^ 31 ∧ 2 ^ 31 ≤ ahead 0x7FFFFFFE#32 0xFFFFFFFE#32 := by decide +kernel

/-- FIPS 180-4: the digest of "abc". -/
theorem test_digest_abc :
    beNat (digest [0x61#8, 0x62#8, 0x63#8]) =
      0xcb00753f45a35e8bb5a03d699ac65007272c32ab0eded1631a8b605a43ff5bed8086072ba1e7cc2358baeca134c825a7 := by decide +kernel

/-- RFC 5639: the base point lies on the curve. -/
theorem test_base_point :
    (brainG.1 ^ 3 + brainA * brainG.1 + brainB) % brainP = brainG.2 ^ 2 % brainP := by decide +kernel

/-! ### Commands, launches, placement -/

def queueState (k : Queue) : State := { withSmc { phase := 6#4 } with queues := [(63, k)], hostPorts := [(1, { width := 5#4 })] }

/-- Lane 0 parked on page 7 of address space 0. -/
def pageParked : State :=
  { quiet [(0, { status := .parked (.page { asid := 0, page := 7, addr := 0x7008, write := false, fetch := false }) })] with
      smc := { phase := 6#4 }, cmd := { faultsOut := [(0, 7)] } }

theorem witness_CommandWrites :
    63 < 64 ∧ (queueState {}).smc.phase = 6#4 ∧ (withSmc {}).smc.phase ≠ 6#4 ∧ (withSmc {}).cmd.invalWait = [] ∧
    (let i : Inval := { asid := 0, all := false, page := 0, pages := 16 }
     let s := { quiet [(0, {})] with cmd := { invalWait := [i] } }
     s.cmd.invalWait = i :: [] ∧ s.invalBusy i = false) ∧
    (∃ l, (quiet [(0, {})]).launch 0 = some l ∧ l.queue = 0 ∧ l.stopped = false) ∧
    (∃ a w, pageParked.agentAt (.lane 0 0 0) = some a ∧ a.status = .parked (.page w) ∧ w.asid = 0 ∧ w.page = 7) ∧
    (pageParked.agentAt (.keeper 0 1) = none ∧ pageParked.cores.length = 1 ∧
      ∀ e ∈ (pageParked.core 0).teams, e.1 = 0 ∧ e.2.lanes.length = 1 ∧ e.2.stage = none) ∧ (pageParked.core 0).ops = [] ∧
    ({ quiet [] with cores := [] } : State).teamsOf 0 = [] ∧
    (let w : CondWait := { pa := 0x100, size := 8, cond := 0, value := 0#64, dest := 4, monitor := false, asid := 0, page := 5 }
     let i : Inval := { asid := 0, all := false, page := 0, pages := 16 }
     let s := { quiet [(0, { status := .parked (.cond w) })] with cmd := { invalWait := [i] } }
     s.invalBusy i = false ∧ (s.agentAt (.lane 0 0 0)).map Agent.status = some (.parked (.cond w)) ∧ w.monitor = false ∧
       w.asid = i.asid ∧ i.page ≤ w.page ∧ w.page < i.page + i.pages) :=
  ⟨by decide, by decide, by decide, by decide, by decide +kernel, ⟨_, rfl, by decide, by decide⟩, ⟨_, _, rfl, rfl, by decide, by decide⟩,
    by decide +kernel, by decide +kernel, by decide +kernel, by decide +kernel⟩

-- A taker of a list whose descriptor lies in the range; an invalidation that a lane between the parts of its word holds up.
theorem witness_CommandWrites_takers :
    let i : Inval := { asid := 0, all := false, page := 0, pages := 16 }
    let w : TakeWait := { list := 0x400, domain := 0x440, dest := 8, pred := 1#3, base := 0x800, cap := 4, asid := 0, pages := [0, 20] }
    let s := fun (a : Agent) => { quiet [(0, a)] with cmd := { invalWait := [i] } }
    (s { status := .parked (.take w) }).invalBusy i = false ∧
    ((s { status := .parked (.take w) }).agentAt (.lane 0 0 0)).map Agent.status = some (.parked (.take w)) ∧ 0 ∈ w.pages ∧
    w.asid = i.asid ∧ i.page ≤ 0 ∧ 0 < i.page + i.pages ∧
    (s { status := .parked (.mid 0x68000000#32) }).invalBusy i = true := by decide +kernel

/-- A launch record with CODE 0x1000, REGS8 1, a grid and a team of 1 (the layout of R127), and one whose REGS8 is 0. -/
def launchBytes (regs8 : Nat) : List Byte :=
  leBytes 8 0x1000 ++ leBytes 8 0 ++ leBytes 2 0 ++ leBytes 1 regs8 ++ leBytes 1 0 ++ leBytes 4 0 ++ leBytes 4 1 ++ leBytes 2 1 ++ leBytes 2 1 ++
    leBytes 2 1 ++ leBytes 1 1 ++ leBytes 1 1 ++ leBytes 44 0 ++ leBytes 8 0x2000 ++ leBytes 8 5 ++ leBytes 8 0x2040 ++ leBytes 24 0

def ringState (regs8 : Nat) : State :=
  (queueState { en := true, base := 0xC000000000000#52, qwr := 18#32, qrd := 17#32 }).pokeBytes 0xC000000000080 (launchBytes regs8)

theorem witness_RecordsAreTaken :
    (∀ n ∈ [1, 0], let s := ringState n
      let k := s.queue 63
      let pa := k.base.toNat + 128 * (k.qrd.toNat % 2 ^ k.size.toNat)
      s.smc.phase = 6#4 ∧ s.d2dFailed = false ∧ s.queues = [(63, k)] ∧ k.run = true ∧ k.pending = none ∧ k.qwr ≠ k.qrd ∧
        pa = 0xC000000000080 ∧ paRange pa = .host ∧ s.hostDown = false) ∧
    (let bs := (ringState 1).bytesAt 0xC000000000080 128
     let r := parseLaunch bs
     leastBad (r.checks bs) = none ∧ r.nstage = 0 ∧ r.ndep = 0 ∧ r.indirect = 0 ∧ r.gridX % r.clusX = 0 ∧ r.gridX * r.gridY * r.gridZ ≤ 2 ^ 32) ∧
    (let bs := (ringState 0).bytesAt 0xC000000000080 128
     leastBad ((parseLaunch bs).checks bs) ≠ none) ∧
    -- a ready record in queue 63 beside another of the same priority and of a lower one; no queue ready
    (let p : PendingRec := { record := {}, slotAddr := 0, unmet := [] }
     let k : Queue := { en := true, prio := 3#3, qwr := 1#32, pending := some p }
     let s := { queueState {} with queues := [(5, { k with prio := 2#3 }), (7, k), (63, k)], cmd := { lastQueue := 62 } }
     (∀ e ∈ s.queues, (s.queue e.1).run = false ∨ (s.queue e.1).pending.isSome = true ∨ (s.queue e.1).qwr = (s.queue e.1).qrd) ∧
       (s.queue 63).ready = true ∧ (s.queue 63).pending = some p ∧
       (∀ m < 64, (s.queue m).ready = true → (s.queue m).prio.toNat < (s.queue 63).prio.toNat ∨
         ((s.queue m).prio = (s.queue 63).prio ∧ (63 + 63 - s.cmd.lastQueue % 64) % 64 ≤ (m + 63 - s.cmd.lastQueue % 64) % 64))) ∧
    (∀ m < 64, ((queueState {}).queue m).ready = false) ∧ ({ queueState {} with d2dFailed := true } : State).d2dFailed = true ∧
    -- a sink that can take the report of a refused record, and one that cannot
    (let s := (ringState 0).pokeBytes 0x1000 (leBytes 4 0 ++ leBytes 4 0 ++ leBytes 1 4 ++ leBytes 55 0)
     s.numAt 0x1008 1 = 4 ∧ 0x1000 % 64 = 0 ∧ paRange 0x1000 = .local_ ∧ s.firstPoison 0x1000 64 = none ∧ (∀ b ∈ s.bytesAt 0x1009 3 ++ s.bytesAt 0x1010 48, b = 0#8) ∧
       s.firstPoison (0x1040 + 32 * (s.numAt 0x1000 4 % 16)) 32 = none ∧ (s.numAt 0x1000 4 + 2 ^ 32 - s.numAt 0x1004 4) % 2 ^ 32 < 2 ^ 4) ∧
    ¬ 2 ≤ (ringState 0).numAt 0x1008 1 ∧ (ringState 0).cmd.fqHeld = [] ∧
    (let room := fun (c : Cmd) => (c.fqWr.toNat + 2 ^ 32 - c.fqRd.toNat) % 2 ^ 32 < 2 ^ c.fqSize.toNat
     room { fqWr := 15#32 } ∧ ¬ room { fqWr := 16#32 }) := by decide +kernel

/-- Two dependencies, one met: a record that stays; and one that is met. -/
theorem witness_RecordsAreTaken_dependencies :
    ∀ es ∈ [[(0x100, 0#32, 1), (0x104, 1#32, 0)], [(0x100, 0#32, 0)]],
      let s := queueState { en := true, qwr := 1#32, pending := some { record := { gridX := 1 }, slotAddr := 0, unmet := es } }
      (∃ p, (s.queue 63).pending = some p ∧ p.unmet = es) ∧ (s.queue 63).run = true ∧ (s.queue 63).qwr ≠ (s.queue 63).qrd ∧ es ≠ [] ∧ (∀ line < 3, (s.l2Line line).owner = none) ∧
      (∀ e ∈ es, paRange e.1 = .local_ ∧ s.firstPoison e.1 4 = none) ∧
      (({ gridX := 1 } : LaunchRec).indirect = 0 ∧ 1 % ({} : LaunchRec).clusX = 0) := by
  intro es h
  refine ⟨⟨_, rfl, rfl⟩, ?_⟩
  revert es
  decide +kernel

/-- A launch of which nothing is left, its last team gone; one with a team; a retired slot with nothing outstanding. -/
theorem witness_Completion :
    let l : Launch := { launch0 with record := { launch0.record with doneAddr := 0x100, flags := 4, doneSeq := 5#64 }, nextUnit := 1, cores := [0] }
    let s := { quiet [] with cores := [(0, {})], launches := [(0, l)] }
    s.launchOver 0 = true ∧ s.launch 0 = some l ∧ (∀ c ∈ l.cores, ∀ e ∈ (s.core c).l1, e.2.dirty = false) ∧
    (0x100 % 8 = 0 ∧ paRange 0x100 = .local_ ∧ Nat.testBit l.record.flags 2 = true ∧ l.record.doneSeq.toNat < 2 ^ 63) ∧
    (∀ e ∈ s.l2, ∀ x ∈ e.2, x.owner = none) ∧ (quiet [(0, {})]).launchOver 0 = false ∧
    (let u := (quiet []).modTeam 0 0 fun t => { t with phase := .retired }
     (u.team 0 0).map Team.phase = some .retired ∧ u.slotBusy 0 0 = false) := by decide +kernel

/-- Die 0 holds the one unit of a launch of one lane; its core 0 alone is started. -/
def unitState (started : Bool) : State :=
  let l : Launch := { launch0 with record := { regs8 := 1, tmem := 1024, gridX := 1, gridY := 1, gridZ := 1, teamX := 1, teamY := 1, teamZ := 1 },
                                   nextUnit := 1 }
  { cores := [(0, { started := started })], launches := [(0, l)], dies := [(0, { held := [{ launch := 0, unit := 0, since := 0 }] })] }

def place? (s : State) (ok : Nat → List ((Nat × Nat × Nat) × List Nat × Alloc) → Bool) : Bool :=
  let u := s.takeUnits 0
  match u.firstFit 0 ((NMap.get {} u.dies 0 : Die).held.foldr u.insertUnit []) with
  | some (_, _, o, xs) => ok o xs
  | none => false

theorem witness_Placement :
    place? (unitState true) (fun o xs => match xs with
      | [f] => f.1 == (o, 0, 0) && f.2.1 == [] && o == 0
      | _ => false) = true ∧ place? (unitState false) (fun _ _ => true) = false ∧
    (NMap.get {} (unitState true).dies 0 : Die).drain = none ∧
    (NMap.get {} ({ unitState true with dies := [(0, { drain := some (0, 0, [0]) })] } : State).dies 0 : Die).drain ≠ none := by decide +kernel

/-- A cluster of two teams that has waited 2^20 CCLK, on the last rectangle of die 0 but one of lower priority. -/
theorem witness_Placement_drain :
    let l : Launch := { launch0 with record := { launch0.record with gridX := 2, clusX := 2 } }
    let x : HeldUnit := { launch := 0, unit := 0, since := 0 }
    let s : State := { quiet [] with launches := [(0, l)], cclk := 2 ^ 20, dies := [(0, { held := [x] })] }
    (NMap.get {} s.dies 0 : Die).drain = none ∧ x ∈ (NMap.get {} s.dies 0 : Die).held ∧ x.since + 2 ^ 20 ≤ s.cclk ∧
    s.launch x.launch = some l ∧ l.record.clustered = true ∧ 158 / 160 = 0 ∧
    rectangle l.record 158 = some [(158, 0, 0), (159, 1, 0)] ∧ rectangle l.record 159 = none ∧
    (∀ c ∈ [158, 159], (s.core c).teams = []) ∧
    (∀ e ∈ (s.core 0).teams, e.2.phase ≠ .retired ∧ s.prioOf e.2 ≤ l.prio) := by decide +kernel

/-- A team that stages alone, and one that claims. -/
theorem witness_TeamStart :
    let s := (quiet []).modTeam 0 0 fun t => { t with phase := .staging, nlanes := 1 }
    (∃ t, s.team 0 0 = some t ∧ t.phase = .staging ∧ t.preempted = false ∧ t.claims = [] ∧ t.stage = none ∧ t.staged = false ∧ t.tm = [] ∧ s.op 0 (8 + 0) 0#32 = none ∧
      s.launch t.launch = some launch0) ∧
    (s.core 0).deepIdle = false ∧ launch0.record.args8 = 0 ∧ launch0.record.nstage = 0 ∧ launch0.record.clustered = false ∧
    (∃ t, (quiet []).team 0 0 = some t ∧ t.phase ≠ .staging) :=
  ⟨⟨_, rfl, rfl, by decide, by decide, by decide, by decide, by decide, by decide, by decide⟩, by decide, by decide, by decide, by decide,
    ⟨_, rfl, by decide⟩⟩

/-- A stopped team in slot 0 and a team in slot 1 that claims its team memory, or that has taken it. -/
def savingState (claims : List (Nat × Region)) (tmBase : Nat) : State :=
  { quiet [] with
      cores := [(0, { teams := [(0, { teamOf [(0, {})] with preempted := true, tmem := 8, tm := [(0, 9#8)] }),
                                (1, { teamOf [] with claims := claims, tmem := 8, tmBase := tmBase })] })] }

theorem witness_LazySave :
    let s := savingState [(0, .tmem)] 0
    (∃ t, s.team 0 0 = some t ∧ s.launch t.launch = some launch0 ∧ t.saved = [] ∧ t.preempted = true ∧ t.phase = .running) ∧
    s.underWay 0 0 = false ∧ ({ s with agenda := [.endBundle 0 0 []] } : State).underWay 0 0 = true ∧
    (∃ t, s.team 0 1 = some t ∧ t.claims = [(0, .tmem)]) ∧ 1 ≠ 0 ∧ (s.core 0).ops = [] ∧
    ((s.core 0).teams.filter fun e => e.2.claims ≠ []).map Prod.fst = [1] ∧
    (∀ e ∈ ((savingState [] 0).core 0).teams, e.2.claims = []) ∧ launch0.record.clustered = false ∧
    (savingState [] 1024).storageFree 0 0 = true ∧ (savingState [] 0).storageFree 0 0 = false ∧
    ({ teamOf [(0, {})] with preempted := true, saved := [.tmem] } : Team).saved = [.tmem] ∧
    (∃ t, (quiet []).team 0 0 = some t ∧ t.preempted = false) :=
  ⟨⟨_, rfl, by decide, by decide, by decide, by decide⟩, by decide, by decide, ⟨_, rfl, by decide⟩, by decide, by decide, by decide +kernel, by decide +kernel,
    by decide, by decide +kernel, by decide +kernel, by decide, ⟨_, rfl, by decide⟩⟩

/-! ### Threads, events, transfers -/

/-- A ready lane about to starve; a lane that yields; one that waits at a word; one at an empty basin. -/
theorem witness_BerthEvents :
    let cond : Agent := { status := .parked (.cond { pa := 0x100, size := 8, cond := 0, value := 0#64, dest := 4, monitor := false }) }
    let basin : Agent := { status := .parked (.basin 0 3 4 1#3), parkedAt := 0 }
    let s := fun (a : Agent) (now : Nat) => { quiet [(0, a)] with cclk := now }
    (∀ a ∈ [({ wait := 256 } : Agent), { wait := 255 }, cond, basin, { stores := [3#64] }, { yieldUntil := some 7 }],
      (s a 0).agentAt (.lane 0 0 0) = some a) ∧ ({ wait := 256, loopBuf := [(0#64, 0#32)] } : Agent).isReady = true ∧ ({ wait := 256 } : Agent).isReady = false ∧ (s {} 7).cclk = 7 ∧
    ((s cond 0).l2Line (0x100 / 128)).owner = none ∧ (s cond 0).firstPoison 0x100 8 = none ∧
    condHolds 0 8 (BitVec.ofNat 64 ((s cond 0).numAt 0x100 8)) 0#64 = true ∧
    condHolds 0 8 (BitVec.ofNat 64 ((s cond 0).numAt 0x100 8)) 1#64 = false ∧
    ((s basin 4096).core 0).basin 3 = {} ∧ basin.parkedAt + 4096 ≤ (s basin 4096).cclk ∧ (s basin 4095).cclk < basin.parkedAt + 4096 ∧
    (quiet [(0, {})]).rowIdle 0 0 = false ∧
    (let cores : NMap Core := (List.range 16).map fun i => (160 * 3 + 144 + i, { started := true })
     let u : State := { cores := cores, cclk := 2 ^ 20, smc := { deepEn := true } }
     u.rowIdle 3 9 = true ∧ (∀ e ∈ u.cores, ∀ x ∈ e.2.l1, x.2.dirty = false)) := by decide +kernel

/-- Lane 0 waits for the word at 0x7C. -/
theorem witness_BroadcastFetch :
    let s := quiet [(0, { pc := 0x7C#64, fetchSince := some 0 })]
    (s.ptroot 0).valid = true ∧ 0x7C % 4 = 0 ∧ 0x7C + 4 ≤ 2 ^ 56 ∧ ∃ m e, ((s.core 0).members 0 0).filter (fun m => m.ag.fetchWaits) = [m] ∧ s.agentAt m.ref = some m.ag ∧ m.ag.pc = 0x7C#64 ∧
      s.tlb.find? (fun t => t.asid = s.asidOf m.launch && t.page = 0x7C / 4096) = some e ∧ pteGrants e.pte .ex = true ∧
      (mappedOf e.pte e.level 0x7C).cls ≠ 3 ∧ paRange (mappedOf e.pte e.level 0x7C).pa = .local_ ∧
      s.firstPoison (mappedOf e.pte e.level 0x7C).pa 4 = none :=
  ⟨rfl, by decide, by decide, _, _, rfl, rfl, rfl, rfl, by decide +kernel, by decide +kernel, by decide +kernel, by decide +kernel⟩

def eventOf (kind : Nat) : EventRec :=
  { kind := kind, ltag := 0, slot := 0, lane := none, src := 0, bar := none, status := 0#16, addr := 0#64, launch := 0 }

/-- Records held with room and with a full queue; records of kind 3 with and without a context, of kind 1 with one, of kinds
4 and 8; a SLOWPATH record of an operation that waits for a page; a faulted and a failed operation. -/
theorem witness_EventRecords :
    (let k : Core := { eqHeld := [eventOf 1], eq := List.replicate 255 (eventOf 2) }
     k.eqHeld = eventOf 1 :: [] ∧ k.eq.length < 256 ∧ k.deepIdle = false ∧ ¬ (List.replicate 256 (eventOf 2)).length < 256) ∧
    (let w : PageWait := { asid := 0, page := 7, addr := 0x7008, write := false, fetch := false }
     let o : EngineOp := { someOp 0 (.gath (gatherBlock [])) with phase := .slow 0x7008 0x7008 (some w) }
     let r : EventRec := { eventOf 9 with lane := some 0, addr := 0x7008#64 }
     let s := bulkState [o]
     r.kind = 9 ∧ (s.core 0).ops = [o] ∧ r.slot = o.slot ∧ r.lane = some o.lane ∧ r.addr = BitVec.ofNat 64 (0x7008 % 2 ^ 56) ∧
       (w.asid, w.page) ∉ s.cmd.faultsOut ∧ s.launch o.launch = some launch0) ∧
    (∀ n ∈ [1, 3, 4, 8], (eventOf n).kind = n ∧ (eventOf n).reported = false) ∧ (quiet []).launch (eventOf 4).launch = some launch0 ∧
    List.find? (fun e : Nat × KeeperCtx => e.2.launch == some 0) ((routine [] []).core 0).contexts ≠ none ∧
    List.find? (fun e : Nat × KeeperCtx => e.2.launch == some 0) ((quiet []).core 0).contexts = none ∧
    (let o : EngineOp := someOp 2 (.acq { dxb4 := false, rs := false, acc := 0, tile := 0, row0 := 0, nrows := 1, extent := 1, codes := 0, scales := 0,
                                          satAddr := none, d := 0 })
     ∀ p ∈ [OpPhase.faulted 8 8 none, .failed 8 4 0], (bulkState [{ o with phase := p }]).op 0 2 1#32 = some { o with phase := p } ∧
       ((bulkState [{ o with phase := p }]).core 0).tadAlive o = false ∧ (bulkState [{ o with phase := p }]).ownedBy 0 o = [] ∧
       o.startedLeft = [] ∧ (bulkState [{ o with phase := p }]).ownershipOut 0 o = false ∧ ((bulkState [{ o with phase := p }]).opNet 0 o).2 = false ∧
       o.dst = [] ∧ ({ o with started := [1] } : EngineOp).startedLeft ≠ [] ∧
       ((bulkState []).core 0).deepIdle = false ∧ o.bar = some (0, 5)) := by decide +kernel

def engine? (ok : State → List Byte → Bool) : EngGot (List Byte) → Bool
  | .ok s x => ok s x
  | _ => false

/-- A bulk read of 65 bytes at its last burst, its first done; a GATH before its last row and after it, an index within its
bound and beyond; transfers whose rows are all done; a line nobody owns and one an operation owns. -/
theorem witness_TransferEvents :
    let g : GatherBlock := { xaddr := 0x100, gbase := 0x200, stride := 4, bound := 1, count := 1, rowlen := 4, taddr := 0x100 }
    let bulk : EngineOp := { someOp 0 (.bulk (.linear 0x100 65) 0x400 [1#32, 2#32, 3#32, 4#32] false) with units := 2, unitsDone := [0], bar := none }
    let gath : EngineOp := someOp 0 (.gath g)
    let s := bulkState [bulk]
    s.op 0 0 1#32 = some bulk ∧ bulk.phase = .running ∧ (s.team 0 bulk.slot).isSome = true ∧ 1 < bulk.units ∧ 1 ∉ bulk.unitsDone ∧ bulk.delivers 1 = true ∧ 64 * 1 < 65 ∧
    engine? (fun r bs => (r.core 0).freeTad == some 0 && bs.length == 1) (s.engineLoad 0 bulk (0x100 + 64 * 1) (min 64 (65 - 64 * 1))) = true ∧
    (s.agentAt (.lane 0 0 0)).map Agent.domain = some none ∧
    gath.unitsDone.length + 1 = g.count ∧ ({ gath with unitsDone := [0] } : EngineOp).unitsDone.length = g.count ∧
    (let t := bulkState [gath]
     engine? (fun r bs => decide (leNat bs < g.bound) && engine? (fun _ new => new.length == 4)
       (r.engineLoad 0 gath ((g.gbase + leNat bs * g.stride) % 2 ^ 64) g.rowlen)) (t.engineLoad 0 gath g.xaddr 4) = true ∧
     engine? (fun _ bs => decide (g.bound ≤ leNat bs)) ((t.pokeBytes 0x100 (leBytes 4 1)).engineLoad 0 gath g.xaddr 4) = true) ∧
    (let u := bulkState [{ someOp 0 (.scat g) with unitsDone := [0] }]
     let o : EngineOp := { someOp 0 (.scat g) with unitsDone := [0] }
     o.dst = [] ∧ u.ownedBy 0 o = [] ∧ u.ownershipOut 0 o = false ∧ u.opNet 0 o = (none, false) ∧ o.unitsDone.length = g.count) ∧
    (let b := s.barrier 0 5
     (bulk.ownRef = false ∨ 2 ≤ ({ b with refs := 2 } : Barrier).refs) ∧ ({ b with err := false, expect := 2 } : Barrier).arrived + 1 < 2) ∧
    ((s.l2Line 2).owner = none ∧ ((NMap.get [] s.l2 (l2Key 2)).filter fun l => l.owner.isSome).length < 8) ∧
    (let d : DstByte := { va := 0x100, pa := 0x100, src := (List.range 8).map fun i => some i }
     let w := { bulkState [{ someOp 0 (.scat g) with dst := [d] }] with l2 := [(2, [{ line := 2, wts := 0#64, rts := 0#64, owner := some (0, 0, 1#32) }])] }
     (w.l2Line 2).owner = some (0, 0, 1#32) ∧ (([d].filter fun d => d.pa / 128 = 2).map DstByte.pa).Nodup) := by decide +kernel

/-! ### Worked examples of the spec -/

/-- R187: 0x0010_0007 becomes 0x0012_0007, and PSEL 7 wraps to 0 with GEN as it was. -/
theorem test_handle_advances : advancePsel 0x00100007#32 = 0x00120007#32 ∧ advancePsel 0x001E0007#32 = 0x00100007#32 := by decide +kernel

/-- R211: with RB 256 and m = 3, o = 768 of an FP32 tile lies at 816, in bank 12. -/
theorem test_bank_places :
    let t : TensorRec := { base := 0, scales := 0, format := 2, rank := 2, bank := 3, fill := 0#32, extent := [], pitch := [], tile := [64, 8] }
    t.rowBytes = 256 ∧ t.place 768 = 816 ∧ 816 / 4 % 64 = 12 := by decide +kernel

/-- R232: the triangle (0, 0), (1024, 0), (0, 1024) at level 4 gives mask 0x0137, ZN 0.3125, status 0. -/
theorem test_six_pixels :
    (after (.tcov 0#8) (lane [(2, 1024#32), (5, 1024#32), (6, 0x3E800000#32), (7, 0x3F000000#32), (8, 0x3F000000#32), (10, 4#32)])).vs 10 4 =
      [0x137#32, 0#32, 0x3EA00000#32, 0#32] := by decide +kernel

/-- R255: 2^40 + 0.75 less 2^40 is 0.75. -/
theorem test_relative_difference :
    drel false (f64.unpack 0x4270000000000C00) (f64.unpack 0x4270000000000000) = 0x3F400000 := by decide +kernel

/-- R123: nodes 5 and 9 over a background of zeros give R 0.5625 and A 0.8125. -/
theorem test_two_nodes_resolve :
    let f := fun (rg ba : Word) => ({ depth := 0#32, rg := rg, ba := ba, seq := 0#32 } : Frag)
    resolve [f 0x34003800#32 0x3A000000#32, f 0x00003400#32 0x34000000#32] 0#32 0#32 =
      [0x3F100000#32, 0x3E800000#32, 0#32, 0x3F500000#32] := by decide +kernel

end Sys2Proof.Tests
end

section
/-! SUPPORT. The read indices of the fault queue and the error log (R389). A write of FQ_RD also writes the fault records
held for room (R135), so its statement needs what stores of the device leave of the command registers: all of them. -/

namespace Sys2Proof.Machine

variable (s : State)

/-! ### What operations of memory leave of the command registers -/

/-- A fold whose steps leave the command registers leaves them. -/
theorem foldl_cmd {α : Type} {f : State → α → State} (h : ∀ s x, (f s x).cmd = s.cmd) (xs : List α) (s : State) :
    (xs.foldl f s).cmd = s.cmd :=
  foldl_keeps (P := fun t => t.cmd = s.cmd) (fun t x ht => (h t x).trans ht) xs rfl

@[simp] theorem State.modTeam_cmd (c slot : Nat) (f : Team → Team) : (s.modTeam c slot f).cmd = s.cmd := by
  unfold State.modTeam
  split
  · exact State.setTeam_cmd s c slot _
  · rfl

@[simp] theorem State.putAgent_cmd (r : AgentRef) (a : Agent) : (s.putAgent r a).cmd = s.cmd := by
  cases r with
  | none => rfl
  | lane c slot l => exact State.modTeam_cmd s c slot _
  | tad c slot l =>
    simp only [State.putAgent]
    split
    · exact State.modCore_cmd s c _
    · rfl
  | keeper c k =>
    simp only [State.putAgent]
    split
    · exact State.modCore_cmd s c _
    · rfl

@[simp] theorem State.mscAccess_cmd (line : Nat) (write : Bool) : (s.mscAccess line write).cmd = s.cmd := by
  simp only [State.mscAccess, apply_ite State.cmd, State.modDieMem_cmd, ite_self]

@[simp] theorem State.l2Evict_cmd (v : L2Line) : (s.l2Evict v).cmd = s.cmd := by
  simp only [State.l2Evict, apply_ite State.cmd, State.mscAccess_cmd, ite_self]

@[simp] theorem State.l2Touch_cmd (line : Nat) (hint : Option (BitVec 2)) (write : Bool) :
    (s.l2Touch line hint write).cmd = s.cmd := by
  simp only [State.l2Touch]
  split
  · exact State.modL2_cmd s line _
  · simp only [State.mscAccess_cmd]
    split
    · rfl
    · split
      · exact State.l2Evict_cmd s _
      · rfl

@[simp] theorem State.wakeCond_cmd (v w : DWord) (n : Nat) (r : AgentRef) : (s.wakeCond v w n r).cmd = s.cmd := by
  unfold State.wakeCond
  split
  · split
    · simp only [State.raisePts_cmd, State.putAgent_cmd]
    · rfl
  · rfl

@[simp] theorem State.testMonitors_cmd (pa n : Nat) : (s.testMonitors pa n).cmd = s.cmd := by
  unfold State.testMonitors
  refine foldl_cmd (fun t m => ?_) _ s
  split
  · dsimp only
    split
    · exact foldl_cmd (fun u r => State.wakeCond_cmd u _ _ _ r) _ _
    · rfl
  · rfl

@[simp] theorem State.rereadDeps_cmd (pa : Nat) : (s.rereadDeps pa).cmd = s.cmd := by
  unfold State.rereadDeps
  refine foldl_cmd (fun t e => ?_) _ s
  split
  · split <;> rfl
  · rfl

@[simp] theorem State.reread_cmd (pa n : Nat) : (s.reread pa n).cmd = s.cmd := rfl

@[simp] theorem State.homeWrite_cmd (pa : Nat) (bs : List Byte) : (s.homeWrite pa bs).cmd = s.cmd := by
  simp only [State.homeWrite, State.rereadDeps_cmd, State.testMonitors_cmd, State.cleanSectors_cmd, State.reread_cmd,
    State.pokeBytes_cmd]

@[simp] theorem State.hostWrite_cmd (pa : Nat) (bs : List Byte) : (s.hostWrite pa bs).cmd = s.cmd := rfl

@[simp] theorem State.writeDst_cmd (t : Team) (line : Nat) (ds : List DstByte) : (s.writeDst t line ds).cmd = s.cmd := by
  simp only [State.writeDst, apply_ite State.cmd, State.rereadDeps_cmd, State.testMonitors_cmd, State.reread_cmd, ite_self]
  refine (foldl_cmd (fun u i => ?_) _ _).trans (foldl_cmd (fun u d => State.pokeBytes_cmd u d.pa _) ds s)
  split <;> rfl

@[simp] theorem State.releaseLine_cmd (line : Nat) : (s.releaseLine line).cmd = s.cmd := by
  unfold State.releaseLine
  split
  · rfl
  · simp only [apply_ite State.cmd, State.later_cmd, State.modL2_cmd, ite_self]
    split
    · rfl
    · split
      · rfl
      · simp only [State.modOp_cmd, State.writeDst_cmd, State.stamp_cmd, State.l2Touch_cmd]

@[simp] theorem State.deviceStoreAt_cmd (t : DWord) (pa : Nat) (bs : List Byte) :
    (s.deviceStoreAt t pa bs).cmd = s.cmd := by
  simp only [State.deviceStoreAt]
  split
  · simp only [State.homeWrite_cmd, State.stamp_cmd, State.l2Touch_cmd, State.releaseLine_cmd]
  · rfl

@[simp] theorem State.deviceStore_cmd (pa : Nat) (bs : List Byte) : (s.deviceStore pa bs).cmd = s.cmd :=
  State.deviceStoreAt_cmd s s.bts pa bs

@[simp] theorem State.storeRecord_cmd (pa : Nat) (r : FaultRec) (v : Nat) : (s.storeRecord pa r v).cmd = s.cmd := by
  simp only [State.storeRecord, State.deviceStore_cmd]

/-! ### What the fault queue leaves of FQ_RD -/

/-- An event changes INT_STAT alone of the command registers. -/
@[simp] theorem State.setInt_cmd (n : Nat) :
    (s.setInt n).cmd = { s.cmd with intStat := s.cmd.intStat ||| (1#6 <<< n) } := by
  simp only [State.setInt, apply_ite State.cmd, ite_self]

@[simp] theorem State.fqWrite_fqRd (r : FaultRec) : (s.fqWrite r).cmd.fqRd = s.cmd.fqRd := by
  simp only [State.fqWrite, State.setInt_cmd, State.storeRecord_cmd]

@[simp] theorem State.fqDrain_fqRd (fuel : Nat) : ∀ s : State, (s.fqDrain fuel).cmd.fqRd = s.cmd.fqRd := by
  induction fuel with
  | zero => intro s; rfl
  | succ fuel ih =>
    intro s
    simp only [State.fqDrain]
    split
    · rfl
    · split
      · rw [ih, State.fqWrite_fqRd]
      · rfl

/-! ### The free-running rule -/

variable {s}

theorem nextRead_of_within {rd wr v : Word} (h : (v - rd).toNat ≤ (wr - rd).toNat) : nextRead rd wr v = v := if_pos h

theorem nextRead_of_ahead {rd wr v : Word} (h : (wr - rd).toNat < (v - rd).toNat) (near : (v - rd).toNat < 2 ^ 31) :
    nextRead rd wr v = wr :=
  (if_neg (Nat.not_le.mpr h)).trans (if_pos near)

theorem nextRead_of_behind {rd wr v : Word} (h : (wr - rd).toNat < (v - rd).toNat) (far : 2 ^ 31 ≤ (v - rd).toNat) :
    nextRead rd wr v = rd :=
  (if_neg (Nat.not_le.mpr h)).trans (if_neg (Nat.not_lt.mpr far))

/-- The distance from `rd` up to `x` modulo 2^32 is the difference of the words. -/
theorem distance_eq_toNat_sub (x rd : Word) : (x.toNat + 2 ^ 32 - rd.toNat) % 2 ^ 32 = (x - rd).toNat := by
  rw [BitVec.toNat_sub]
  congr 1
  have := rd.isLt
  omega

/-! ### The two writes -/

/-- The records held for room that a write of FQ_RD lets in leave the index it stored. -/
theorem State.writeFqRd_fqRd (v : Word) : (s.writeFqRd v).cmd.fqRd = nextRead s.cmd.fqRd s.cmd.fqWr v :=
  State.fqDrain_fqRd _ _

theorem execFqRdWrite_of_isOpen (v : Word) (h : s.isOpen = true) : execFqRdWrite v s = .next (s.writeFqRd v) := by
  simp only [execFqRdWrite, h, if_true]

theorem execElogRdWrite_of_isOpen {die : Nat} (v : Word) (h : s.isOpen = true) (hd : die < 4) :
    execElogRdWrite die v s = .next (s.writeElogRd die v) := by
  simp only [execElogRdWrite, h, hd, decide_true, Bool.and_self, if_true]

theorem State.dieMemOf_modDieMem (d m : Nat) (f : DieMem → DieMem) :
    (s.modDieMem d f).dieMemOf m = if m = d then f (s.dieMemOf d) else s.dieMemOf m :=
  NMap.get_put ({} : DieMem) s.dieMem d m (f (s.dieMemOf d))

theorem State.dieMemOf_writeElogRd_self (die : Nat) (v : Word) : (s.writeElogRd die v).dieMemOf die =
    { s.dieMemOf die with elogRd := nextRead (s.dieMemOf die).elogRd (s.dieMemOf die).elogWr v } :=
  (State.dieMemOf_modDieMem die die _).trans (if_pos rfl)

theorem State.dieMemOf_writeElogRd_of_ne {die m : Nat} (v : Word) (h : m ≠ die) :
    (s.writeElogRd die v).dieMemOf m = s.dieMemOf m :=
  (State.dieMemOf_modDieMem die m _).trans (if_neg h)

end Sys2Proof.Machine
end

section
/-! CERTIFICATE. The command interface: the statement of R389. -/

namespace Sys2Proof.Machine

/-- Settles O50: both writes store `nextRead`, the free-running rule; the held fault records written after a write of
FQ_RD leave the index. -/
theorem readIndices : Obligations.ReadIndices := by
  intro s die v ahead taken hphase
  have hopen : s.isOpen = true := beq_iff_eq.mpr hphase
  have htaken : ∀ rd wr rd', rd' = nextRead rd wr v → taken rd wr rd' := by
    rintro rd wr _ rfl
    simp only [taken, ahead, distance_eq_toNat_sub]
    exact ⟨nextRead_of_within, nextRead_of_ahead, nextRead_of_behind⟩
  constructor
  · exact ⟨s.writeFqRd v, execFqRdWrite_of_isOpen v hopen, htaken _ _ _ (State.writeFqRd_fqRd v)⟩
  · intro hdie
    have hself := State.dieMemOf_writeElogRd_self (s := s) die v
    exact ⟨s.writeElogRd die v, execElogRdWrite_of_isOpen v hopen hdie, rfl,
      fun m hm => State.dieMemOf_writeElogRd_of_ne v hm, by rw [hself], htaken _ _ _ (congrArg DieMem.elogRd hself)⟩

end Sys2Proof.Machine
end

section
/-! SUPPORT. Exact values: the exact value of a finite value, of its negation and of a sum, and the order of finite values
by it (R249, R253, R301). -/

namespace Sys2Proof.Machine

/-- A finite value in units of 2^q, q at most its exponent, is exactly that many units. -/
theorem scaled_mul_zpow {e q : Int} (neg : Bool) (m : Nat) (h : q ≤ e) :
    (scaled neg m e q : ℚ) * (2 : ℚ) ^ q = (FVal.fin neg m e).exact := by
  obtain ⟨k, rfl⟩ := Int.le.dest h
  cases neg <;> simp [scaled, FVal.exact, zpow_add₀] <;> ring

theorem FVal.exact_fin_ofInt (z q : Int) :
    (FVal.fin (decide (z < 0)) z.natAbs q).exact = (z : ℚ) * (2 : ℚ) ^ q := by
  rcases lt_or_ge z 0 with h | h
  · have hz : (z.natAbs : ℚ) = -z := by rw [Nat.cast_natAbs, abs_of_neg h, Int.cast_neg]
    simp [FVal.exact, h, hz]
  · have hz : (z.natAbs : ℚ) = z := by rw [Nat.cast_natAbs, abs_of_nonneg h]
    simp [FVal.exact, not_lt.mpr h, hz]

@[simp] theorem FVal.exact_fin_zero (neg : Bool) (e : Int) : (FVal.fin neg 0 e).exact = 0 := by simp [FVal.exact]

theorem FVal.exact_fin_eq_zero {neg : Bool} {m : Nat} {e : Int} : (FVal.fin neg m e).exact = 0 ↔ m = 0 := by
  cases neg <;> simp [FVal.exact, zpow_ne_zero]

@[simp] theorem FVal.exact_neg (x : FVal) : x.neg.exact = -x.exact := by
  cases x with
  | nan => simp [FVal.neg, FVal.exact]
  | inf s => simp [FVal.neg, FVal.exact]
  | fin s m e => cases s <;> simp [FVal.neg, FVal.exact]

theorem FVal.isFin_iff {x : FVal} : x.isFin ↔ ∃ neg m e, x = .fin neg m e := by
  cases x <;> simp [FVal.isFin]

/-- Finite values are ordered as their exact values are. -/
theorem FVal.lt_fin_iff {s t : Bool} {m n : Nat} {e g : Int} :
    (FVal.fin s m e).lt (.fin t n g) = true ↔ (FVal.fin s m e).exact < (FVal.fin t n g).exact := by
  rw [← scaled_mul_zpow s m (min_le_left e g), ← scaled_mul_zpow t n (min_le_right e g),
    mul_lt_mul_iff_left₀ (by positivity), Int.cast_lt]
  exact decide_eq_true_iff

/-- A sum of finite values is finite and exact. -/
theorem FVal.add_fin (mode : Rnd) {x y : FVal} (hx : x.isFin) (hy : y.isFin) :
    ∃ neg m e, x.add mode y = .fin neg m e ∧ (FVal.fin neg m e).exact = x.exact + y.exact := by
  obtain ⟨s, m, e, rfl⟩ := FVal.isFin_iff.mp hx
  obtain ⟨t, n, g, rfl⟩ := FVal.isFin_iff.mp hy
  have hsum : ((scaled s m e (min e g) + scaled t n g (min e g) : Int) : ℚ) * (2 : ℚ) ^ min e g =
      (FVal.fin s m e).exact + (FVal.fin t n g).exact := by
    rw [Int.cast_add, add_mul, scaled_mul_zpow s m (min_le_left e g), scaled_mul_zpow t n (min_le_right e g)]
  by_cases hz : scaled s m e (min e g) + scaled t n g (min e g) = 0
  · refine ⟨_, 0, _, if_pos hz, ?_⟩
    rw [← hsum, hz, FVal.exact_fin_zero, Int.cast_zero, zero_mul]
  · exact ⟨_, _, _, if_neg hz, (FVal.exact_fin_ofInt _ _).trans hsum⟩

end Sys2Proof.Machine
end

section
/-! SUPPORT. The order of encodings (R248, R253, R306): an encoding that is no NaN stands for a value that is ordered as
`Fmt.order` orders the encoding, and minimum, maximum and the conditions follow that order. -/

namespace Sys2Proof.Machine

variable {f : Fmt} {a b : Nat}

/-! ### An encoding's magnitude -/

/-- The value of a magnitude below infinity, in units of the least subnormal. -/
def Fmt.magUnits (f : Fmt) (mag : Nat) : Nat :=
  if mag / 2 ^ f.fbits = 0 then mag % 2 ^ f.fbits
  else (2 ^ f.fbits + mag % 2 ^ f.fbits) * 2 ^ (mag / 2 ^ f.fbits - 1)

/-- The same with the sign of the magnitude. -/
def Fmt.units (f : Fmt) (z : Int) : Int := z.sign * f.magUnits z.natAbs

/-- A greater magnitude stands for a greater value: within a binade by its fraction, from a binade to the next by the
leading bit. -/
theorem Fmt.magUnits_strictMono (f : Fmt) : StrictMono f.magUnits := by
  refine strictMono_nat_of_lt_succ fun n => ?_
  have hN : 0 < 2 ^ f.fbits := Nat.two_pow_pos _
  have hm := Nat.mod_lt n hN
  have hn := Nat.mod_add_div n (2 ^ f.fbits)
  unfold Fmt.magUnits
  generalize 2 ^ f.fbits = N at *
  generalize n / N = e at *
  generalize n % N = m at *
  by_cases hc : m + 1 < N
  · obtain ⟨hdiv, hmod⟩ : (n + 1) / N = e ∧ (n + 1) % N = m + 1 := (Nat.div_mod_unique hN).mpr ⟨by omega, hc⟩
    rw [hdiv, hmod]
    split
    · exact Nat.lt_succ_self m
    · exact Nat.mul_lt_mul_of_pos_right (by omega) (Nat.two_pow_pos _)
  · obtain ⟨hdiv, hmod⟩ : (n + 1) / N = e + 1 ∧ (n + 1) % N = 0 :=
      (Nat.div_mod_unique hN).mpr ⟨by rw [Nat.mul_succ]; omega, hN⟩
    rw [hdiv, hmod, if_neg (Nat.succ_ne_zero e)]
    cases e with
    | zero => simpa using hm
    | succ k =>
      calc (N + m) * 2 ^ k < (N + N) * 2 ^ k := Nat.mul_lt_mul_of_pos_right (by omega) (Nat.two_pow_pos _)
        _ = (N + 0) * 2 ^ (k + 1) := by ring

@[simp] theorem Fmt.magUnits_zero (f : Fmt) : f.magUnits 0 = 0 := by simp [Fmt.magUnits]

theorem Fmt.units_neg (f : Fmt) (z : Int) : f.units (-z) = -f.units z := by simp [Fmt.units]

theorem Fmt.units_natCast (f : Fmt) (n : Nat) : f.units n = f.magUnits n := by
  cases n with
  | zero => simp [Fmt.units]
  | succ n => rw [Fmt.units, Int.sign_eq_one_of_pos (Int.natCast_pos.mpr n.succ_pos), one_mul, Int.natAbs_natCast]

theorem Fmt.units_strictMono (f : Fmt) : StrictMono f.units := by
  refine strictMono_of_odd_strictMonoOn_nonneg f.units_neg fun x hx y hy hxy => ?_
  lift x to Nat using hx
  lift y to Nat using hy
  simpa [Fmt.units_natCast, f.magUnits_strictMono.lt_iff_lt] using hxy

/-! ### What an encoding stands for -/

/-- The exponent field is the largest in infinities and NaNs alone. -/
theorem Fmt.field_eq_max_iff (f : Fmt) (x : Nat) :
    x % f.signBit / 2 ^ f.fbits = 2 ^ f.ebits - 1 ↔ f.infBits ≤ x % f.signBit := by
  have hlt : x % f.signBit < 2 ^ f.ebits * 2 ^ f.fbits := by
    rw [← pow_add]; exact Nat.mod_lt x (Nat.two_pow_pos _)
  have hfield := (Nat.div_lt_iff_lt_mul (Nat.two_pow_pos f.fbits)).mpr hlt
  rw [Fmt.infBits, ← Nat.le_div_iff_mul_le (Nat.two_pow_pos f.fbits)]
  omega

/-- In a magnitude from infinity on, the fraction is what exceeds infinity. -/
theorem Fmt.fraction_eq_sub_infBits {x : Nat} (h : f.infBits ≤ x % f.signBit) :
    x % f.signBit % 2 ^ f.fbits = x % f.signBit - f.infBits := by
  have hdiv := Nat.mod_add_div (x % f.signBit) (2 ^ f.fbits)
  rw [(f.field_eq_max_iff x).mpr h, Nat.mul_comm] at hdiv
  exact Nat.eq_sub_of_add_eq hdiv

theorem Fmt.unpack_of_isNan {x : Nat} (h : f.isNan x) : f.unpack x = .nan := by
  have hfrac := Fmt.fraction_eq_sub_infBits (Nat.le_of_lt h)
  simp only [Fmt.unpack, if_pos ((f.field_eq_max_iff x).mpr (Nat.le_of_lt h)), hfrac]
  exact if_neg (Nat.sub_ne_zero_of_lt h)

theorem Fmt.unpack_of_eq_infBits {x : Nat} (h : x % f.signBit = f.infBits) :
    f.unpack x = .inf (x / f.signBit % 2 == 1) := by
  have hfrac : x % f.signBit % 2 ^ f.fbits = 0 := by
    rw [Fmt.fraction_eq_sub_infBits (Nat.le_of_eq h.symm), h, Nat.sub_self]
  simp only [Fmt.unpack, if_pos ((f.field_eq_max_iff x).mpr (Nat.le_of_eq h.symm)), hfrac, if_true]

theorem Fmt.order_of_neg {x : Nat} (h : x / f.signBit % 2 = 1) : f.order x = -((x % f.signBit : Nat) : Int) := if_pos h

theorem Fmt.order_of_pos {x : Nat} (h : ¬x / f.signBit % 2 = 1) : f.order x = ((x % f.signBit : Nat) : Int) := if_neg h

/-- An encoding below infinity stands for a finite value, of as many units as its order says. -/
theorem Fmt.unpack_of_lt_infBits {x : Nat} (h : x % f.signBit < f.infBits) :
    ∃ neg m e, f.unpack x = .fin neg m e ∧ (FVal.fin neg m e).exact = (f.units (f.order x) : ℚ) * (2 : ℚ) ^ f.qmin := by
  have hmag : ∃ m e, f.unpack x = .fin (x / f.signBit % 2 == 1) m e ∧
      (m : ℚ) * (2 : ℚ) ^ e = (f.magUnits (x % f.signBit) : ℚ) * (2 : ℚ) ^ f.qmin := by
    simp only [Fmt.unpack, if_neg (mt (f.field_eq_max_iff x).mp (Nat.not_le.mpr h)), Fmt.magUnits]
    split
    · exact ⟨_, _, rfl, rfl⟩
    · refine ⟨_, _, rfl, ?_⟩
      rw [zpow_add₀ two_ne_zero, zpow_natCast, Nat.cast_mul, Nat.cast_pow, Nat.cast_ofNat]
      ring
  obtain ⟨m, e, hx, hval⟩ := hmag
  refine ⟨_, m, e, hx, ?_⟩
  by_cases hs : x / f.signBit % 2 = 1
  · rw [Fmt.order_of_neg hs, Fmt.units_neg, Fmt.units_natCast]
    simp [FVal.exact, hs, hval]
  · rw [Fmt.order_of_pos hs, Fmt.units_natCast]
    simp [FVal.exact, hs, hval]

theorem Fmt.isNan_unpack_iff (f : Fmt) (x : Nat) : (f.unpack x).isNan = true ↔ f.isNan x := by
  rcases lt_trichotomy (x % f.signBit) f.infBits with h | h | h
  · obtain ⟨neg, m, e, hx, -⟩ := Fmt.unpack_of_lt_infBits h
    simp [hx, FVal.isNan, Fmt.isNan, Nat.le_of_lt h]
  · simp [Fmt.unpack_of_eq_infBits h, FVal.isNan, Fmt.isNan, h]
  · exact iff_of_true (by rw [Fmt.unpack_of_isNan h]; rfl) h

/-- Encodings that are no NaN stand for values ordered as the encodings are. -/
theorem Fmt.lt_unpack_iff (hf : 0 < f.infBits) (ha : ¬f.isNan a) (hb : ¬f.isNan b) :
    (f.unpack a).lt (f.unpack b) = true ↔ f.order a < f.order b := by
  rcases (Nat.not_lt.mp ha).lt_or_eq with ha | ha <;> rcases (Nat.not_lt.mp hb).lt_or_eq with hb | hb
  · obtain ⟨s, m, e, ha, hva⟩ := Fmt.unpack_of_lt_infBits ha
    obtain ⟨t, n, g, hb, hvb⟩ := Fmt.unpack_of_lt_infBits hb
    rw [ha, hb, FVal.lt_fin_iff, hva, hvb, mul_lt_mul_iff_left₀ (by positivity), Int.cast_lt,
      f.units_strictMono.lt_iff_lt]
  · obtain ⟨s, m, e, hx, -⟩ := Fmt.unpack_of_lt_infBits ha
    rw [hx, Fmt.unpack_of_eq_infBits hb]
    simp only [FVal.lt, Fmt.order, hb, Bool.not_eq_true', beq_eq_false_iff_ne]
    split <;> split <;> omega
  · obtain ⟨s, m, e, hx, -⟩ := Fmt.unpack_of_lt_infBits hb
    rw [hx, Fmt.unpack_of_eq_infBits ha]
    simp only [FVal.lt, Fmt.order, ha, beq_iff_eq]
    split <;> split <;> omega
  · rw [Fmt.unpack_of_eq_infBits ha, Fmt.unpack_of_eq_infBits hb]
    simp only [FVal.lt, Fmt.order, ha, hb, Bool.and_eq_true, Bool.not_eq_true', beq_iff_eq, beq_eq_false_iff_ne]
    split <;> split <;> omega

/-! ### Minimum and maximum -/

/-- Encodings of one sign and one magnitude are the same encoding. -/
theorem Fmt.eq_of_orderZeros_eq (ha : a < 2 * f.signBit) (hb : b < 2 * f.signBit)
    (h : f.orderZeros a = f.orderZeros b) : a = b := by
  have hsign : a / f.signBit % 2 = b / f.signBit % 2 ∧ a % f.signBit = b % f.signBit := by
    unfold Fmt.orderZeros at h
    split at h <;> split at h <;> omega
  rw [Nat.mod_eq_of_lt (Nat.div_lt_of_lt_mul (by omega)), Nat.mod_eq_of_lt (Nat.div_lt_of_lt_mul (by omega))] at hsign
  rw [← Nat.div_add_mod a f.signBit, ← Nat.div_add_mod b f.signBit, hsign.1, hsign.2]

/-- The model's test for the lesser of two numbers, −0 below +0 (R253). -/
def Fmt.less (f : Fmt) (a b : Nat) : Bool :=
  (f.unpack a).lt (f.unpack b) || (!(f.unpack b).lt (f.unpack a) && a / f.signBit % 2 == 1)

theorem Fmt.minMax_of_nan_nan (mx : Bool) (ha : f.isNan a) (hb : f.isNan b) : f.minMax mx a b = f.nan := by
  simp [Fmt.minMax, Fmt.unpack_of_isNan ha, Fmt.unpack_of_isNan hb]

theorem Fmt.minMax_of_nan_left (mx : Bool) (ha : f.isNan a) (hb : ¬f.isNan b) : f.minMax mx a b = b := by
  rw [← Fmt.isNan_unpack_iff] at hb
  simp only [Fmt.minMax, Fmt.unpack_of_isNan ha]
  split <;> simp_all [FVal.isNan]

theorem Fmt.minMax_of_nan_right (mx : Bool) (ha : ¬f.isNan a) (hb : f.isNan b) : f.minMax mx a b = a := by
  rw [← Fmt.isNan_unpack_iff] at ha
  simp only [Fmt.minMax, Fmt.unpack_of_isNan hb]
  split <;> simp_all [FVal.isNan]

theorem Fmt.minMax_of_ordered (mx : Bool) (ha : ¬f.isNan a) (hb : ¬f.isNan b) :
    f.minMax mx a b = if f.less a b then (if mx then b else a) else (if mx then a else b) := by
  rw [← Fmt.isNan_unpack_iff] at ha hb
  unfold Fmt.minMax
  split
  · exact absurd (by simp [*, FVal.isNan]) ha
  · exact absurd (by simp [*, FVal.isNan]) ha
  · exact absurd (by simp [*, FVal.isNan]) hb
  · rfl

theorem Fmt.lesser_of_ordered (mx : Bool) (ha : ¬f.isNan a) (hb : ¬f.isNan b) :
    f.lesser mx a b =
      if f.orderZeros a ≤ f.orderZeros b then (if mx then b else a) else (if mx then a else b) :=
  (if_neg ha).trans (if_neg hb)

/-- The lesser by the model's test is not above the other by the order with −0 below +0. -/
theorem Fmt.orderZeros_le_of_less (hf : 0 < f.infBits) (ha : ¬f.isNan a) (hb : ¬f.isNan b) :
    if f.less a b then f.orderZeros a ≤ f.orderZeros b else f.orderZeros b ≤ f.orderZeros a := by
  have hless : f.less a b = true ↔ f.order a < f.order b ∨ ¬f.order b < f.order a ∧ a / f.signBit % 2 = 1 := by
    simp only [Fmt.less, Bool.or_eq_true, Bool.and_eq_true, Bool.not_eq_true', ← Bool.not_eq_true,
      Fmt.lt_unpack_iff hf ha hb, Fmt.lt_unpack_iff hf hb ha, beq_iff_eq]
  simp only [hless, Fmt.order, Fmt.orderZeros]
  by_cases hsa : a / f.signBit % 2 = 1 <;> by_cases hsb : b / f.signBit % 2 = 1 <;>
    simp only [hsa, hsb, if_true, if_false, and_true, and_false, or_false] <;> split <;> omega

/-- The minimum and the maximum of the model are minimumNumber and maximumNumber of R253. -/
theorem Fmt.minMax_eq_lesser (hf : 0 < f.infBits) (mx : Bool) (ha : a < 2 * f.signBit) (hb : b < 2 * f.signBit) :
    f.minMax mx a b = f.lesser mx a b := by
  by_cases hna : f.isNan a
  · by_cases hnb : f.isNan b
    · exact (Fmt.minMax_of_nan_nan mx hna hnb).trans ((if_pos hna).trans (if_pos hnb)).symm
    · exact (Fmt.minMax_of_nan_left mx hna hnb).trans ((if_pos hna).trans (if_neg hnb)).symm
  · by_cases hnb : f.isNan b
    · exact (Fmt.minMax_of_nan_right mx hna hnb).trans ((if_neg hna).trans (if_pos hnb)).symm
    · have hle := Fmt.orderZeros_le_of_less hf hna hnb
      rw [Fmt.minMax_of_ordered mx hna hnb, Fmt.lesser_of_ordered mx hna hnb]
      by_cases hl : f.less a b
      · rw [if_pos hl] at hle ⊢
        rw [if_pos hle]
      · rw [if_neg hl] at hle ⊢
        rcases hle.lt_or_eq with hlt | heq
        · rw [if_neg (not_le.mpr hlt)]
        · rw [Fmt.eq_of_orderZeros_eq hb ha heq]; simp only [ite_self]

/-! ### Conditions -/

/-- Neither of two values is a NaN (R253). -/
def FVal.Ordered (x y : FVal) : Prop := ¬x.isNan = true ∧ ¬y.isNan = true

/-- The conditions of R306, by their codes. -/
theorem condFloat_iff (c : BitVec 3) (x y : FVal) :
    condFloat c x y = true ↔
      (c = 0#3 ∧ x.eqv y = true) ∨ (c = 1#3 ∧ ¬x.eqv y = true) ∨ (c = 2#3 ∧ x.Ordered y ∧ x.lt y = true) ∨
        (c = 3#3 ∧ x.Ordered y ∧ ¬y.lt x = true) ∨ (c = 4#3 ∧ x.Ordered y ∧ y.lt x = true) ∨
        (c = 5#3 ∧ x.Ordered y ∧ ¬x.lt y = true) ∨ (c = 6#3 ∧ ¬x.Ordered y) ∨ (c = 7#3 ∧ x.Ordered y) := by
  have hc : ∀ c : BitVec 3, c = 0#3 ∨ c = 1#3 ∨ c = 2#3 ∨ c = 3#3 ∨ c = 4#3 ∨ c = 5#3 ∨ c = 6#3 ∨ c = 7#3 := by decide
  rcases hc c with rfl | rfl | rfl | rfl | rfl | rfl | rfl | rfl <;>
    simp [condFloat, FVal.Ordered, imp_iff_not_or]

theorem Fmt.eqv_unpack_iff (hf : 0 < f.infBits) :
    (f.unpack a).eqv (f.unpack b) = true ↔ (¬f.isNan a ∧ ¬f.isNan b) ∧ f.order a = f.order b := by
  simp only [FVal.eqv, Bool.and_eq_true, Bool.not_eq_true', ← Bool.not_eq_true, Fmt.isNan_unpack_iff, and_assoc]
  refine and_congr_right fun ha => and_congr_right fun hb => ?_
  rw [Fmt.lt_unpack_iff hf ha hb, Fmt.lt_unpack_iff hf hb ha]
  omega

/-- The model's comparison holds where R306 has its condition hold. -/
theorem condFloat_unpack_iff (hf : 0 < f.infBits) (c : BitVec 3) (a b : Nat) :
    condFloat c (f.unpack a) (f.unpack b) = true ↔ f.holds c a b := by
  rw [condFloat_iff, Fmt.holds]
  simp only [FVal.Ordered, Fmt.isNan_unpack_iff, Fmt.eqv_unpack_iff hf]
  by_cases ho : ¬f.isNan a ∧ ¬f.isNan b
  · simp only [Fmt.lt_unpack_iff hf ho.1 ho.2, Fmt.lt_unpack_iff hf ho.2 ho.1, not_lt]
  · simp only [ho, false_and, and_false]

/-! ### Operands -/

/-- The encoding of an FP32 operand under the FTZ bit: a subnormal is zero of its sign (R252). -/
def flushed (ftz : Bool) (x : Word) : Nat :=
  if ftz = true ∧ x.toNat % 2 ^ 31 < 2 ^ 23 then x.toNat / 2 ^ 31 * 2 ^ 31 else x.toNat

theorem flushIn_f32 (ftz : Bool) (x : Word) :
    (if ftz = true then f32.flushIn x.toNat else x.toNat) = flushed ftz x := by
  have hsign : x.toNat / 2 ^ 31 % 2 = x.toNat / 2 ^ 31 := by have := x.isLt; omega
  simp only [flushed, Fmt.flushIn, show f32.signBit = 2 ^ 31 from rfl, show f32.fbits = 23 from rfl, hsign, ite_and]

theorem flushed_lt (ftz : Bool) (x : Word) : flushed ftz x < 2 * f32.signBit := by
  have hx := x.isLt
  rw [flushed, show f32.signBit = 2 ^ 31 from rfl]
  split <;> omega

theorem State.f_eq_unpack_flushed (s : State) (r : Nat) : s.f r = f32.unpack (flushed s.ftz (s.v r)) :=
  congrArg f32.unpack (flushIn_f32 s.ftz (s.v r))

theorem infBits_fmt16_pos (m : BitVec 1) : 0 < (fmt16 m).infBits := by
  unfold fmt16; split <;> decide

/-- A 16-bit element is an encoding of a packed format. -/
theorem fmt16_signBit (m : BitVec 1) : (fmt16 m).signBit = 2 ^ 15 := by
  unfold fmt16; split <;> rfl

/-- A packed minimum or maximum takes R253's of both elements. -/
theorem packed_minMax (m : BitVec 1) (mx : Bool) (x y : Word) :
    packed ((fmt16 m).minMax mx) x y =
      BitVec.ofNat 32 ((fmt16 m).lesser mx (x.extractLsb' 0 16).toNat (y.extractLsb' 0 16).toNat +
        65536 * (fmt16 m).lesser mx (x.extractLsb' 16 16).toNat (y.extractLsb' 16 16).toNat) := by
  have hlt : ∀ z : BitVec 16, z.toNat < 2 * (fmt16 m).signBit := fun z => by rw [fmt16_signBit]; exact z.isLt
  rw [packed, Fmt.minMax_eq_lesser (infBits_fmt16_pos m) mx (hlt _) (hlt _),
    Fmt.minMax_eq_lesser (infBits_fmt16_pos m) mx (hlt _) (hlt _)]

/-- The lesser or greater of two FP32 registers, each flushed as R252 has it. -/
theorem State.fMinMax_eq (s : State) (mx : Bool) (a b : Nat) :
    s.fMinMax mx a b = BitVec.ofNat 32 (f32.lesser mx (flushed s.ftz (s.v a)) (flushed s.ftz (s.v b))) := by
  simp only [State.fMinMax, flushIn_f32]
  rw [Fmt.minMax_eq_lesser (by decide) mx (flushed_lt _ _) (flushed_lt _ _)]

theorem ofNat_minMax_f64 (mx : Bool) (x y : DWord) :
    BitVec.ofNat 64 (f64.minMax mx x.toNat y.toNat) = BitVec.ofNat 64 (f64.lesser mx x.toNat y.toNat) := by
  rw [Fmt.minMax_eq_lesser (by decide) mx x.isLt y.isLt]

/-! ### A word that writes two predicates -/

/-- A further predicate written. -/
theorem Agent.Wrote.setPred {a b : Agent} {vs : List (Nat × Word)} {ps : List (BitVec 3 × Bool)} (h : a.Wrote b vs ps)
    (p : BitVec 3) (x : Bool) : a.Wrote (b.setPred p x) vs ((p, x) :: ps) where
  regs r := by rw [Agent.reg_setPred, h.regs]
  preds q := by
    rw [Agent.pred_setPred, h.preds, written_cons]
    by_cases hq : q = p
    · rw [if_pos hq, if_pos hq.symm]
    · rw [if_neg hq, if_neg fun h' => hq h'.symm, ← Bool.or_assoc, Bool.or_self]

/-! ### The words -/

/-- FMIN and FMAX complete with R253's of their flushed operands. -/
theorem minMaxF32_gives {s : State} {i : Instr} {d a b : BitVec 8} (mx : Bool)
    (he : exec i s = s.regOp i [vn a, vn b] d fun s => s.fMinMax mx (vn a) (vn b)) :
    s.Gives i {} [vn d, vn a, vn b]
      [(vn d, BitVec.ofNat 32 (f32.lesser mx (flushed s.ftz (s.v (vn a))) (flushed s.ftz (s.v (vn b)))))] [] :=
  State.regOp_gives he (s.fMinMax_eq mx _ _)

/-- DMIN and DMAX complete with R253's of their pairs. -/
theorem minMaxF64_gives {s : State} {i : Instr} {d a b : BitVec 7} (mx : Bool)
    (he : exec i s = s.dOp i d a b fun x y => BitVec.ofNat 64 (f64.minMax mx x.toNat y.toNat)) :
    s.Gives i {} [pn d + 1, pn a + 1, pn b + 1]
      (pairOf (pn d) (BitVec.ofNat 64 (f64.lesser mx (s.pair (pn a)).toNat (s.pair (pn b)).toNat))) [] :=
  State.pairOp_gives he (ofNat_minMax_f64 mx _ _)

/-- HMIN2 and HMAX2 complete with R253's of both elements. -/
theorem minMaxPacked_gives {s : State} {i : Instr} {d a b : BitVec 8} {m : BitVec 1} (mx : Bool)
    (he : exec i s = s.hOp i d a b ((fmt16 m).minMax mx)) :
    let x := s.v (vn a)
    let y := s.v (vn b)
    s.Gives i {} [vn d, vn a, vn b]
      [(vn d, BitVec.ofNat 32 ((fmt16 m).lesser mx (x.extractLsb' 0 16).toNat (y.extractLsb' 0 16).toNat +
        65536 * (fmt16 m).lesser mx (x.extractLsb' 16 16).toNat (y.extractLsb' 16 16).toNat))] [] :=
  State.regOp_gives he (packed_minMax m mx _ _)

/-- HCMP2 completes with both elements' comparisons written, element 1's last (R306). -/
theorem hcmp2_gives (s : State) (t : BitVec 1) (c : BitVec 3) (p : BitVec 2) (a b : BitVec 8) {u w : Bool}
    (hu : condFloat c ((fmt16 t).unpack ((s.v (vn a)).extractLsb' 0 16).toNat)
      ((fmt16 t).unpack ((s.v (vn b)).extractLsb' 0 16).toNat) = u)
    (hw : condFloat c ((fmt16 t).unpack ((s.v (vn a)).extractLsb' 16 16).toNat)
      ((fmt16 t).unpack ((s.v (vn b)).extractLsb' 16 16).toNat) = w) :
    s.Gives (.hcmp2 t c p a b) {} [vn a, vn b] [] [(p ++ 1#1, w), (p ++ 0#1, u)] := fun h =>
  ⟨_, (exec_hcmp2 t c p a b s).trans (State.runWord_takes _ h rfl rfl (Demand.runsIn_all _ _ rfl rfl rfl) (.inl rfl)),
    hu ▸ hw ▸ State.completes_done s ((Agent.wrote_setPred _ _ _).setPred _ _)
      ((Agent.sameSpecial_setPred _ _ _).trans (Agent.sameSpecial_setPred _ _ _))
      ((Agent.pc_setPred _ _ _).trans (Agent.pc_setPred _ _ _))⟩

end Sys2Proof.Machine
end

section
/-! SUPPORT. The relative difference (R255): what `drel` gives of its operands, and the word that writes it. -/

namespace Sys2Proof.Machine

/-- DREL's difference of finite values: the exact difference, an exact zero positive, rounded once (R255). -/
theorem drel_fin (ftz : Bool) {x y : FVal} (hx : x.isFin) (hy : y.isFin) :
    ∃ v : FVal, v.isFin ∧ v.exact = x.exact - y.exact ∧ drel ftz x y = f32.pack .rn ftz v ∧
      (v.exact = 0 → drel ftz x y = 0) := by
  have hny : y.neg.isFin := by
    obtain ⟨t, n, g, rfl⟩ := FVal.isFin_iff.mp hy
    trivial
  obtain ⟨neg, m, e, hadd, hexact⟩ := FVal.add_fin .rn hx hny
  have hdrel : drel ftz x y = f32.pack .rn ftz (.fin (neg && m != 0) m e) := by rw [drel, hadd]
  have hv : (FVal.fin (neg && m != 0) m e).exact = x.exact - y.exact := by
    rw [sub_eq_add_neg, ← FVal.exact_neg, ← hexact]
    by_cases hm : m = 0
    · subst hm
      rw [FVal.exact_fin_zero, FVal.exact_fin_zero]
    · rw [bne_iff_ne.mpr hm, Bool.and_true]
  refine ⟨.fin (neg && m != 0) m e, trivial, hv, hdrel, fun hzero => ?_⟩
  obtain rfl := FVal.exact_fin_eq_zero.mp hzero
  rw [hdrel]
  simp [Fmt.pack, Fmt.tiny, Fmt.round, Fmt.signed]

/-- DREL of a NaN, or of two infinities of one sign (R255). -/
theorem drel_of_invalid (ftz : Bool) {x y : FVal} (h : x = .nan ∨ y = .nan ∨ ∃ n, x = .inf n ∧ y = .inf n) :
    drel ftz x y = f32.nan := by
  rcases h with rfl | rfl | ⟨n, rfl, rfl⟩
  · rfl
  · cases x <;> rfl
  · cases n <;> rfl

/-- DREL where one operand is infinite, or both are with different signs (R255). -/
theorem drel_of_inf (ftz : Bool) {x y : FVal} {n : Bool}
    (h : (x = .inf n ∧ (y.isFin ∨ y = .inf !n)) ∨ (x.isFin ∧ y = .inf !n)) : drel ftz x y = f32.signed n f32.infBits := by
  rcases h with ⟨rfl, hy | rfl⟩ | ⟨hx, rfl⟩
  · obtain ⟨t, m, e, rfl⟩ := FVal.isFin_iff.mp hy
    rfl
  · cases n <;> rfl
  · obtain ⟨t, m, e, rfl⟩ := FVal.isFin_iff.mp hx
    cases n <;> rfl

/-- DREL completes with `drel` of its pairs. -/
theorem drel_gives (s : State) (d : BitVec 8) (a b : BitVec 7) :
    s.Gives (.drel d a b) {} [vn d, pn a + 1, pn b + 1]
      [(vn d, BitVec.ofNat 32 (drel s.ftz (s.f64 (pn a)) (s.f64 (pn b))))] [] := fun h =>
  ⟨_, (exec_drel d a b s).trans (State.runWord_takes _ h rfl rfl (Demand.runsIn_all _ _ rfl rfl rfl) (.inl rfl)),
    State.completes_done s (Agent.wrote_setReg _ _ _) (Agent.sameSpecial_setReg _ _ _) rfl⟩

end Sys2Proof.Machine
end

section
/-! CERTIFICATE. Number formats: minimum, maximum and comparison (R253, R306), the relative difference (R255). -/

namespace Sys2Proof.Machine

/-- Settles O19: the minimum and maximum of encodings are those of R253, the comparison of their values is R306's of the
encodings, and each word writes what these give of its operands. -/
theorem minMaxAndCompare : Obligations.MinMaxAndCompare := by
  intro s d a b dd aa bb m c p q flush A B AA BB F low high both three pairs
  have hfcmp : condFloat c (s.f (vn a)) (s.f (vn b)) = true ↔ f32.holds c A B := by
    rw [State.f_eq_unpack_flushed, State.f_eq_unpack_flushed]
    exact condFloat_unpack_iff (by decide) c A B
  have hdcmp : condFloat c (s.f64 (pn aa)) (s.f64 (pn bb)) = true ↔ f64.holds c AA BB :=
    condFloat_unpack_iff (by decide) c AA BB
  have hhcmp : ∀ x y, condFloat c (F.unpack x) (F.unpack y) = true ↔ F.holds c x y :=
    condFloat_unpack_iff (infBits_fmt16_pos m) c
  exact ⟨minMaxF32_gives false (exec_fmin d a b s), minMaxF32_gives true (exec_fmax d a b s),
    minMaxF64_gives false (exec_dmin dd aa bb s), minMaxF64_gives true (exec_dmax dd aa bb s),
    minMaxPacked_gives false (exec_hmin2 d a b m s), minMaxPacked_gives true (exec_hmax2 d a b m s),
    _, _, _, _, ⟨State.predWord_gives (exec_fcmp c p a b s) rfl rfl rfl rfl rfl rfl rfl, hfcmp⟩,
    ⟨State.predWord_gives (exec_dcmp c p aa bb s) rfl rfl rfl rfl rfl rfl rfl, hdcmp⟩,
    hcmp2_gives s m c q a b rfl rfl, hhcmp _ _, hhcmp _ _⟩

/-- Settles O22: DREL writes `drel` of its operands, the exact sum with the negated operand, rounded once. -/
theorem relativeDifference : Obligations.RelativeDifference := by
  intro s d a b A B
  refine ⟨BitVec.ofNat 32 (drel s.ftz A B), drel_gives s d a b, fun h => ?_, fun n h => ?_, fun hA hB => ?_⟩
  · rw [drel_of_invalid s.ftz h]; rfl
  · rw [drel_of_inf s.ftz h]; cases n <;> rfl
  · obtain ⟨v, hv, hexact, hdrel, hzero⟩ := drel_fin s.ftz hA hB
    refine ⟨v, hv, hexact, by rw [hdrel], fun heq => ?_⟩
    rw [hzero (by rw [hexact, heq, sub_self])]

end Sys2Proof.Machine
end

section
/-! SUPPORT. Shift counts (R283) and bit fields (R284): what the shifts give from count 32 up, and the single bits of a
field extracted or inserted. -/

namespace Sys2Proof.Machine

/-! ### Shifts -/

/-- A shift right by 31 leaves the sign everywhere. -/
theorem sshiftRight_31 (a : Word) : a.sshiftRight 31 = if a.msb then 0xFFFFFFFF#32 else 0#32 := by
  refine BitVec.eq_of_getLsbD_eq fun j hj => ?_
  have hfill : (a.sshiftRight 31).getLsbD j = a.msb := by
    rw [BitVec.getLsbD_sshiftRight, decide_eq_false (Nat.not_le.mpr hj), Bool.not_false, Bool.true_and]
    by_cases h : 31 + j < 32
    · obtain rfl : j = 0 := by omega
      exact (BitVec.msb_eq_getLsbD_last a).symm
    · exact if_neg h
  rw [hfill]
  cases a.msb
  · exact BitVec.getLsbD_zero.symm
  · exact ((BitVec.getLsbD_allOnes (v := 32)).trans (decide_eq_true hj)).symm

/-- An arithmetic shift right in R283's words. -/
theorem sar_eq (a c : Word) :
    sar a c = if c.toNat < 32 then a.sshiftRight c.toNat else if a.msb then 0xFFFFFFFF#32 else 0#32 := by
  rw [sar, sshiftRight_31]

/-- The count of a rotate is bits 4:0 (R283). -/
theorem toNat_bits_low5 (c : Word) : (bits c 0 5).toNat = c.toNat % 32 := by
  rw [BitVec.extractLsb'_toNat, Nat.shiftRight_zero]

/-! ### Bit fields -/

variable {a b d : Word} {j : Nat}

/-- The field's first bit lies in the word. -/
theorem fieldPos_lt (b : Word) : (bits b 0 5).toNat < 32 := (bits b 0 5).isLt

/-- The field is cut off at bit 31. -/
theorem fieldPos_add_fieldWidth_le (b : Word) : (bits b 0 5).toNat + fieldWidth b ≤ 32 := by
  have := fieldPos_lt b
  rw [fieldWidth]
  omega

/-- Bit j of the number some bits of a word make up. -/
theorem testBit_field (a : Word) (pos w j : Nat) :
    (a.toNat / 2 ^ pos % 2 ^ w).testBit j = (decide (j < w) && a.getLsbD (pos + j)) := by
  rw [Nat.testBit_mod_two_pow, Nat.testBit_div_two_pow, Nat.add_comm, BitVec.getLsbD]

/-- A field of w bits with every bit above it set. -/
theorem testBit_field_filled {f w : Nat} (hf : f < 2 ^ w) (hw : w ≤ 32) (hj : j < 32) :
    (f + (2 ^ 32 - 2 ^ w)).testBit j = (decide (w ≤ j) || f.testBit j) := by
  have hsplit : f + (2 ^ 32 - 2 ^ w) = 2 ^ w * (2 ^ (32 - w) - 1) + f := by
    rw [Nat.mul_sub, ← Nat.pow_add, Nat.add_sub_cancel' hw, Nat.mul_one, Nat.add_comm]
  rw [hsplit, Nat.testBit_two_pow_mul_add _ hf, Nat.testBit_two_pow_sub_one]
  by_cases h : j < w
  · simp [h]
  · simp [h, show w ≤ j by omega, show j - w < 32 - w by omega]

/-- IBFX's result, bit by bit: the field, above it the field's top bit where M is 1 and zeros where M is 0 (R284). -/
theorem getLsbD_extractField (m : Bool) (hj : j < 32) :
    (extractField m a b).getLsbD j =
      if j < fieldWidth b then a.getLsbD ((bits b 0 5).toNat + j)
      else (m && decide (0 < fieldWidth b)) && a.getLsbD ((bits b 0 5).toNat + fieldWidth b - 1) := by
  have hw := fieldPos_add_fieldWidth_le b
  unfold extractField
  generalize fieldWidth b = w at *
  generalize (bits b 0 5).toNat = pos at *
  by_cases hzero : w = 0
  · simp [hzero]
  have htop : (a.toNat / 2 ^ pos % 2 ^ w).testBit (w - 1) = a.getLsbD (pos + w - 1) := by
    rw [testBit_field, decide_eq_true (by omega), Bool.true_and, Nat.add_sub_assoc (by omega)]
  simp only [hzero, if_false, htop, Nat.pos_of_ne_zero hzero, decide_true, Bool.and_true]
  cases hsign : m && a.getLsbD (pos + w - 1)
  · rw [if_neg Bool.false_ne_true, BitVec.getLsbD_ofNat, testBit_field]
    by_cases h : j < w <;> simp [h, hj]
  · rw [if_pos rfl, BitVec.getLsbD_ofNat, testBit_field_filled (Nat.mod_lt _ (by positivity)) (by omega) hj,
      testBit_field]
    by_cases h : j < w
    · simp [h, hj, Nat.not_le.mpr h]
    · simp [h, hj, Nat.not_lt.mp h]

/-- The mask of w bits from bit pos. -/
theorem getLsbD_fieldMask (pos w : Nat) (hj : j < 32) :
    (BitVec.ofNat 32 ((2 ^ w - 1) * 2 ^ pos)).getLsbD j = decide (pos ≤ j ∧ j < pos + w) := by
  rw [BitVec.getLsbD_ofNat, decide_eq_true hj, Bool.true_and, Nat.testBit_mul_two_pow, Nat.testBit_two_pow_sub_one,
    ← Bool.decide_and]
  exact decide_eq_decide.mpr (by omega)

/-- IBFI's result, bit by bit: the low bits of A in the field, D's bits around it (R284). -/
theorem getLsbD_insertField (hj : j < 32) :
    (insertField d a b).getLsbD j =
      if (bits b 0 5).toNat ≤ j ∧ j < (bits b 0 5).toNat + fieldWidth b then a.getLsbD (j - (bits b 0 5).toNat)
      else d.getLsbD j := by
  rw [insertField, BitVec.getLsbD_or, BitVec.getLsbD_and, BitVec.getLsbD_and, BitVec.getLsbD_not,
    BitVec.getLsbD_shiftLeft, getLsbD_fieldMask _ _ hj]
  split
  next hin =>
    rw [decide_eq_true hin, decide_eq_false (Nat.not_lt.mpr hin.1)]
    simp [hj]
  next hout =>
    rw [decide_eq_false hout]
    simp [hj]

end Sys2Proof.Machine
end

section
/-! CERTIFICATE. Integer words: shift counts (R283), bit fields (R284). -/

namespace Sys2Proof.Machine

/-- Settles O8: the model's shifts are R283's, an arithmetic shift right by 31 being the sign everywhere, and a rotate
takes its count modulo 32. -/
theorem shiftCounts : Obligations.ShiftCounts := by
  intro s d a b i A left right arith B I three
  exact ⟨State.regOp_gives (exec_ishl d a b s) rfl, State.regOp_gives (exec_ishr d a b s) rfl,
    State.regOp_gives (exec_isar d a b s) (sar_eq A B), State.immOp_gives (exec_ishli d a i s) rfl,
    State.immOp_gives (exec_ishri d a i s) rfl, State.immOp_gives (exec_isari d a i s) (sar_eq A I),
    State.regOp_gives (exec_irol d a b s) (congrArg A.rotateLeft (toNat_bits_low5 B).symm)⟩

/-- Settles O9: each bit of the words that IBFX and IBFI write is the field's or what R284 has around it. -/
theorem bitFields : Obligations.BitFields := by
  intro s d a b m A D pos w
  refine ⟨_, _, State.regOp_gives (exec_ibfx d a b m s) rfl, State.regOp_gives (exec_ibfi d a b s) rfl,
    fun j hj => ⟨?_, getLsbD_insertField hj⟩⟩
  rw [Bool.decide_and]
  exact getLsbD_extractField (m == 1#1) hj

end Sys2Proof.Machine
end
